-- ==== Sys2Proof/Word.lean ====
section
/-! DEFINITION. The word types of the Edrum (03 Table 3-1, R74; 00 R7). -/

namespace Sys2Proof

/-- One byte of memory. -/
abbrev Byte := BitVec 8

/-- An instruction word, a lane's vector register, a mask (Table 3-1, R74). -/
abbrev Word := BitVec 32

/-- An S register, an address, a program counter (Table 3-1, R65). -/
abbrev Dword := BitVec 64

end Sys2Proof
end

