-- ==== Sys2Proof/Syntax.lean ====
section
/-! DEFINITION. The instructions and events of the Edrum: registers (03 Table 3-1), operand fields, and one constructor
of `Instr` for every row of the opcode table. -/

namespace Sys2Proof

/-- A register as Table 3-1 names it. Every 8-bit register number is exactly one of these. -/
inductive Reg where
  | v (n : Fin 192)
  | s (n : Fin 40)
  | m (n : Fin 8)
  | q (n : Fin 8)
  | zr
  | lid
  | role
  | bnd
  | alt
  | mode
  | stat
  | live
deriving DecidableEq, Repr

/-- The operand classes of Table 3-1. -/
inductive RegClass where
  | V | S | M | Q | Z
deriving DecidableEq, Repr

/-- The scopes of R82 and R190. -/
inductive Scope where
  | gang | core | bent | chip | sys
deriving DecidableEq, Repr

/-- The element types of Table 3-5, in the order of their codes 0 to 13. -/
inductive EType where
  | fp32 | fp64 | fp16 | bf16 | e4m3 | e5m2 | e2m1 | cf32 | i32 | n32 | i8 | n8 | i4 | n4
deriving DecidableEq, Repr

/-- The rounding modes of Table 3-6. -/
inductive RMode where
  | rne | rtz | rdn | rup | rna
deriving DecidableEq, Repr

/-- The patterns of `shfi`, Table 9-5. -/
inductive LanePat where
  | bcast | xor | rotd | down | up
deriving DecidableEq, Repr

/-- The partition profiles of Table 0-2. -/
inductive Profile where
  | c2m2 | c3m1 | c1m3
deriving DecidableEq, Repr

/-- The cooling classes of Table 25-1. -/
inductive CoolClass where
  | a | b | degraded
deriving DecidableEq, Repr

/-- What a coolant check reads at the cold plate: the inlet temperature in degrees, and the class in its FRU record (25
R366). -/
structure ColdPlate where
  inlet : Nat
  fru   : CoolClass
deriving DecidableEq, Repr

/-- What a reconfiguration finds: a 1 for each layer that passes its self-test, by bit 4 x tower + position, and the blocks
found uncorrectable in lines that are written back (25 R370, R375, Table 25-3). -/
structure Findings where
  pass : BitVec 8
  bad  : List Nat
deriving DecidableEq, Repr

/-- The operations of the atomic group, Table 13-1. -/
inductive AtomicOp where
  | add | min | max | and | or | xor | xch | cas | fadd
deriving DecidableEq, Repr

/-- Ridge register configuration (Table 19-4): the device OS supplies it. -/
structure RidgeCfg where
  enable : Bool
  isMax  : Bool
  system : Bool
  start  : Word
deriving DecidableEq, Repr

/-- What the device OS sets when it creates a context (Table 17-10, R322). -/
structure CtxParams where
  root      : Nat
  threshold : Nat
  deadline  : Nat
  saveAddr  : Nat
  saveSize  : Nat
  quantum   : Nat
deriving DecidableEq, Repr

/-- A write of one of the two configuration registers of a host queue or completion ring (Table 23-1). -/
inductive QueueCfg where
  | base (v : Dword)
  | size (v : Word)
deriving DecidableEq, Repr

/-- One plumb-pair sensor at a sample (R335, R337): its reading and the controller's model estimate, in quarter degrees. -/
structure SensorSample where
  reading : Int
  model   : Int
deriving DecidableEq, Repr

/-- How a request sent to another module ended without being performed (R350, R351). -/
inductive RefusalKind where
  | refused
  | trans
  | perm
  /-- A RING fault at the home of a ring (13 R229). -/
  | ring
deriving DecidableEq, Repr

/-- A byte that travels between modules; `none` is a byte of a block that carries a poison mark (R290). -/
abbrev FabByte := Option Byte

/-- What a partner module offers in an exchange (R358, R360): the job, target and parameter word of its request, and the next
elements it sends, in the order of the receiving slots; `none` is an element that a poison mark covers (R290). -/
structure ExchOffer where
  /-- The module that offers (R360). -/
  sender : BitVec 12
  job    : BitVec 16
  target : Dword
  param  : Dword
  elems  : List (Option Dword)
deriving DecidableEq, Repr

/-- What a packet between modules asks for (R349). A claim and a break name the gang that claims, as its own module numbers
it (13 R228). -/
inductive RemoteOp where
  | load (va : Dword) (size : Nat)
  | store (va : Dword) (size : Nat) (data : BitVec 128)
  | atomic (op : AtomicOp) (signed : Bool) (va : Dword) (size : Nat) (x cmp : Dword)
  | futureWrite (va : Dword) (v : Dword)
  | futureRead (va : Dword) (consume : Bool)
  | ringClaim (va : Dword) (n : Dword) (gang : Nat)
  | ringCommit (va : Dword) (t : Dword)
  | ringAwait (va : Dword) (n : Dword) (gang : Nat)
  | ringRetire (va : Dword) (t : Dword)
  | ringBind (va : Dword)
  | ringBreak (va : Dword) (gang : Nat)
  /-- Bytes at addresses, and a counter to be added to after them (R356, 13 R232). -/
  | write (parts : List (Dword × List FabByte)) (counter : Option Dword)
  | read (va : Dword) (len : Nat)
  | counterWait (va : Dword) (thr : Nat)
  | ridge (k : Fin 16) (val : Word)
  /-- Element j of an exchange with a parameter word on an array: the slot of the receiver that takes it, and its bytes (R358). -/
  | exchange (target param : Dword) (j : Nat) (data : List FabByte)
  /-- The request that the sender sent under a number, first at a stamp, is withdrawn (13 R222). -/
  | withdraw (seq stamp : Nat)
deriving DecidableEq, Repr

/-- A packet received from another module (R349, R352). -/
structure Packet where
  job    : BitVec 16
  sender : BitVec 12
  stamp  : Nat
  op     : RemoteOp
  /-- The sender's number of the packet, the same each time it is sent (R353). -/
  seq    : Nat := 0
  /-- It travels as traffic class 0 (21 R338, R349). -/
  cls0   : Bool := false
deriving DecidableEq, Repr

/-- A write of an entry of the page tables by the device OS: its physical address, its value, and the level of the table that
it stands in (R287). -/
structure PteWrite where
  addr  : Nat
  val   : Dword
  level : Fin 4
deriving DecidableEq, Repr

/-- Where a detected error struck (R376, R378, Table 25-4, Table 25-5). -/
inductive ErrSite where
  /-- A corrected error, with its source, location and block (Table 25-6). -/
  | corrected (source loc pa : Nat)
  | gangRegs (g : Nat)
  | storeBlock (gr : Nat) (shared : Bool) (block : Nat)
  | l2Block (c : Nat) (block : Nat)
  | hbmBlock (block : Nat)
  /-- An L2 line of global memory, by its block. -/
  | l2Line (block : Nat)
  | l1 (core : Nat)
  | tlb (core : Nat)
  | bentTlb (bent : Nat)
  /-- A deferral buffer: the request held at place j. -/
  | deferral (j : Nat)
  | clampTable (core : Nat)
  | splitTable (core : Nat)
  | pageTable (c : Nat)
  | ringBlock (c : Nat)
  | ridgeReg (c : Nat)
  | savedState (c : Nat)
  | ctxState (c : Nat)
  | mismatch (g : Nat)
  | distributor
  | ridgeUnit
  | taskStore
  | benchCore
deriving DecidableEq, Repr

/-- An ML-DSA-65 signature of 3,309 bytes (R362). -/
abbrev Signature := BitVec 26472

/-- The rollback-floor record of the flash control block (R362). -/
structure FloorRec where
  floor : BitVec 32
  sig   : Signature
deriving DecidableEq, Repr

/-- A slot's header and image (R362). -/
structure SlotImage where
  version    : BitVec 64
  secVersion : BitVec 32
  length     : Nat
  digest     : Nat
  sig        : Signature
  body       : Nat
deriving DecidableEq, Repr

/-- What a firmware update writes to flash (R381, R375, Table 23-9). -/
inductive FlashWrite where
  | floor (r : FloorRec)
  | slotA (i : SlotImage)
  | slotB (i : SlotImage)
  | control (marks : BitVec 8) (helper cert : List Byte)
deriving DecidableEq, Repr

/-- What a PLDM request over the sideband reads (R381). -/
inductive PldmRequest where
  | power
  | coolant
  | sensor (i : Nat)
  | coolClass
  | fru
  /-- One of the last 256 error records, the oldest first (R382). -/
  | record (i : Nat)
deriving DecidableEq, Repr

/-- One constructor per row of the opcode table: the instruction words first, each with its segment marker `sm`
(R74) and its operands, then the events of the part, each with what the outside or the schedule supplies. -/
inductive Instr where
  /-- Does nothing; the segment marker S may still be set. (R84) -/
  | nop (sm : Bool)
  /-- Branches unconditionally by a 24-bit word offset. (R135) -/
  | br (sm : Bool) (o : BitVec 24)
  /-- Branches when the S or M register named in D is zero. (R135) -/
  | brz (sm : Bool) (d : Reg) (e : BitVec 16)
  /-- Branches when the S or M register named in D is nonzero. (R135) -/
  | brnz (sm : Bool) (d : Reg) (e : BitVec 16)
  /-- Writes PC + 4 to s39 and branches. (R135) -/
  | call (sm : Bool) (o : BitVec 24)
  /-- Jumps to the address held in s39. (R135) -/
  | ret (sm : Bool)
  /-- Jumps to the address in A and writes the link to D. (R135) -/
  | jr (sm : Bool) (d : Reg) (a : Reg)
  /-- Divides the executing split into at most two splits by a per-slice condition. (R136) -/
  | part (sm : Bool) (d : Reg) (a : Reg)
  /-- Waits in REGANG and merges all splits once every valid split is there at the same address. (R137) -/
  | regang (sm : Bool)
  /-- Suspends the split until a named copy completes, then resumes it at the continuation PC. (R138) -/
  | yield (sm : Bool) (d : Reg) (e : BitVec 16)
  /-- Ends the split's slices once nothing they wrote is Pending. (R139) -/
  | exit (sm : Bool)
  /-- Writes all 16 bits of mode. (R264) -/
  | setm (sm : Bool) (e : BitVec 16)
  /-- Raises the precise trap TRAP with the given code. (R264) -/
  | trap (sm : Bool) (e : BitVec 16)
  /-- Returns from the trap handler, restoring mode and m0 and replaying or ending the held faults. (R269) -/
  | tret (sm : Bool)
  /-- Releases, sends a service request to the device OS and waits for its answer. (R265) -/
  | sysc (sm : Bool) (e : BitVec 16)
  /-- Reads a system register into an S register. (R266) -/
  | rdsr (sm : Bool) (d : Reg) (e : BitVec 16)
  /-- Writes an S register to a writable system register. (R266) -/
  | wrsr (sm : Bool) (d : Reg) (e : BitVec 16)
  /-- Integer addition, register form. (R140) -/
  | add (sm : Bool) (d : Reg) (a : Reg) (b : Reg)
  /-- Integer subtraction. (R140) -/
  | sub (sm : Bool) (d : Reg) (a : Reg) (b : Reg)
  /-- Integer multiplication giving the low bits, register form. (R140) -/
  | mul (sm : Bool) (d : Reg) (a : Reg) (b : Reg)
  /-- Integer multiplication giving the high half, signed or unsigned by TYPE. (R140) -/
  | mulh (sm : Bool) (d : Reg) (a : Reg) (b : Reg)
  /-- Bitwise AND, register form. (R140) -/
  | and (sm : Bool) (d : Reg) (a : Reg) (b : Reg)
  /-- Bitwise OR, register form. (R140) -/
  | or (sm : Bool) (d : Reg) (a : Reg) (b : Reg)
  /-- Bitwise exclusive-or, register form. (R140) -/
  | xor (sm : Bool) (d : Reg) (a : Reg) (b : Reg)
  /-- Shift left, register form. (R140) -/
  | shl (sm : Bool) (d : Reg) (a : Reg) (b : Reg)
  /-- Logical shift right, register form. (R140) -/
  | shr (sm : Bool) (d : Reg) (a : Reg) (b : Reg)
  /-- Arithmetic shift right, register form. (R140) -/
  | sar (sm : Bool) (d : Reg) (a : Reg) (b : Reg)
  /-- Rotate left, register form. (R140) -/
  | rot (sm : Bool) (d : Reg) (a : Reg) (b : Reg)
  /-- Integer minimum, register form. (R140) -/
  | min (sm : Bool) (d : Reg) (a : Reg) (b : Reg)
  /-- Integer maximum, register form. (R140) -/
  | max (sm : Bool) (d : Reg) (a : Reg) (b : Reg)
  /-- Selects A or B lane by lane under the guard mask. (R141) -/
  | sel (sm : Bool) (d : Reg) (a : Reg) (b : Reg)
  /-- Copies a register. (R143) -/
  | mov (sm : Bool) (d : Reg) (a : Reg)
  /-- A mov to a Q register pushes 64 bits to the bound engine and waits until the engine has taken the push. (R258) -/
  | queuePush (sm : Bool) (d : Reg) (a : Reg)
  /-- A mov from a Q register pops the next completion in push order, with variable latency. (R258) -/
  | queuePop (sm : Bool) (d : Reg) (a : Reg)
  /-- Counts the 1 bits of the source. (R143) -/
  | popc (sm : Bool) (d : Reg) (a : Reg)
  /-- Counts the leading zero bits of the source. (R143) -/
  | clz (sm : Bool) (d : Reg) (a : Reg)
  /-- Gives the index of the lowest 1 bit of the source. (R143) -/
  | ffs (sm : Bool) (d : Reg) (a : Reg)
  /-- Reads a vector register chosen by a computed index. (R173) -/
  | rget (sm : Bool) (d : Reg) (a : Reg)
  /-- Writes a vector register chosen by a computed index. (R173) -/
  | rput (sm : Bool) (d : Reg) (a : Reg)
  /-- Loads a sign-extended 16-bit immediate. (R142) -/
  | li (sm : Bool) (d : Reg) (e : BitVec 16)
  /-- Writes the upper bits from a 16-bit immediate and keeps bits 15:0. (R142) -/
  | lih (sm : Bool) (d : Reg) (e : BitVec 16)
  /-- Integer addition of a sign-extended 8-bit immediate. (R140) -/
  | addImm (sm : Bool) (d : Reg) (a : Reg) (e : BitVec 8)
  /-- Integer multiplication by a sign-extended 8-bit immediate. (R140) -/
  | mulImm (sm : Bool) (d : Reg) (a : Reg) (e : BitVec 8)
  /-- Bitwise AND with an immediate. (R140) -/
  | andImm (sm : Bool) (d : Reg) (a : Reg) (e : BitVec 8)
  /-- Bitwise OR with an immediate. (R140) -/
  | orImm (sm : Bool) (d : Reg) (a : Reg) (e : BitVec 8)
  /-- Bitwise exclusive-or with an immediate. (R140) -/
  | xorImm (sm : Bool) (d : Reg) (a : Reg) (e : BitVec 8)
  /-- Shift left by an immediate count. (R140) -/
  | shlImm (sm : Bool) (d : Reg) (a : Reg) (e : BitVec 6)
  /-- Logical shift right by an immediate count. (R140) -/
  | shrImm (sm : Bool) (d : Reg) (a : Reg) (e : BitVec 6)
  /-- Arithmetic shift right by an immediate count. (R140) -/
  | sarImm (sm : Bool) (d : Reg) (a : Reg) (e : BitVec 6)
  /-- Rotate left by an immediate count. (R140) -/
  | rotImm (sm : Bool) (d : Reg) (a : Reg) (e : BitVec 6)
  /-- Integer minimum against an immediate. (R140) -/
  | minImm (sm : Bool) (d : Reg) (a : Reg) (e : BitVec 8)
  /-- Integer maximum against an immediate. (R140) -/
  | maxImm (sm : Bool) (d : Reg) (a : Reg) (e : BitVec 8)
  /-- Typed floating-point addition, rounded once. (R160) -/
  | fadd (sm : Bool) (d : Reg) (a : Reg) (b : Reg)
  /-- Typed floating-point subtraction. (R160) -/
  | fsub (sm : Bool) (d : Reg) (a : Reg) (b : Reg)
  /-- Typed floating-point multiplication. (R160) -/
  | fmul (sm : Bool) (d : Reg) (a : Reg) (b : Reg)
  /-- Fused a × b + D, rounded once. (R160) -/
  | fma (sm : Bool) (d : Reg) (a : Reg) (b : Reg)
  /-- Fused a × b − D, rounded once. (R160) -/
  | fms (sm : Bool) (d : Reg) (a : Reg) (b : Reg)
  /-- Typed floating-point minimum. (R161) -/
  | fmin (sm : Bool) (d : Reg) (a : Reg) (b : Reg)
  /-- Typed floating-point maximum. (R161) -/
  | fmax (sm : Bool) (d : Reg) (a : Reg) (b : Reg)
  /-- Correctly rounded division, variable-latency. (R164) -/
  | div (sm : Bool) (d : Reg) (a : Reg) (b : Reg)
  /-- Inverts the sign bit. (R163) -/
  | fneg (sm : Bool) (d : Reg) (a : Reg)
  /-- Clears the sign bit. (R163) -/
  | fabs (sm : Bool) (d : Reg) (a : Reg)
  /-- Correctly rounded square root, variable-latency. (R163) -/
  | sqrt (sm : Bool) (d : Reg) (a : Reg)
  /-- Correctly rounded reciprocal, variable-latency. (R163) -/
  | rcp (sm : Bool) (d : Reg) (a : Reg)
  /-- Correctly rounded reciprocal square root, variable-latency. (R163) -/
  | rsqrt (sm : Bool) (d : Reg) (a : Reg)
  /-- Converts from the source type in X to the TYPE in mode. (R165) -/
  | cvt (sm : Bool) (d : Reg) (a : Reg) (t : EType)
  /-- Vector-wise equality compare into a mask. (R144) -/
  | ceq (sm : Bool) (d : Reg) (a : Reg) (b : Reg)
  /-- Vector-wise inequality compare into a mask. (R144) -/
  | cne (sm : Bool) (d : Reg) (a : Reg) (b : Reg)
  /-- Vector-wise less-than compare into a mask. (R144) -/
  | clt (sm : Bool) (d : Reg) (a : Reg) (b : Reg)
  /-- Vector-wise less-or-equal compare into a mask. (R144) -/
  | cle (sm : Bool) (d : Reg) (a : Reg) (b : Reg)
  /-- Vector-wise unordered compare into a mask. (R144) -/
  | cun (sm : Bool) (d : Reg) (a : Reg) (b : Reg)
  /-- Scalar equality compare, writing 1 or 0. (R144) -/
  | sceq (sm : Bool) (d : Reg) (a : Reg) (b : Reg)
  /-- Scalar inequality compare. (R144) -/
  | scne (sm : Bool) (d : Reg) (a : Reg) (b : Reg)
  /-- Scalar less-than compare. (R144) -/
  | sclt (sm : Bool) (d : Reg) (a : Reg) (b : Reg)
  /-- Scalar less-or-equal compare. (R144) -/
  | scle (sm : Bool) (d : Reg) (a : Reg) (b : Reg)
  /-- Scalar unordered compare. (R144) -/
  | scun (sm : Bool) (d : Reg) (a : Reg) (b : Reg)
  /-- Bitwise AND of two masks. (R146) -/
  | mand (sm : Bool) (d : Reg) (a : Reg) (b : Reg)
  /-- Bitwise OR of two masks. (R146) -/
  | mor (sm : Bool) (d : Reg) (a : Reg) (b : Reg)
  /-- Bitwise exclusive-or of two masks. (R146) -/
  | mxor (sm : Bool) (d : Reg) (a : Reg) (b : Reg)
  /-- Bitwise NOT of a mask. (R147) -/
  | mnot (sm : Bool) (d : Reg) (a : Reg)
  /-- Copies a mask into an S register. (R147) -/
  | msave (sm : Bool) (d : Reg) (a : Reg)
  /-- Writes a mask from the low 32 bits of an S register. (R147) -/
  | mrest (sm : Bool) (d : Reg) (a : Reg)
  /-- Counts the 1 bits of a mask. (R147) -/
  | mpop (sm : Bool) (d : Reg) (a : Reg)
  /-- Gives the index of the lowest 1 bit of a mask. (R147) -/
  | mffs (sm : Bool) (d : Reg) (a : Reg)
  /-- Sums the active lanes into a scalar. (R171) -/
  | redadd (sm : Bool) (d : Reg) (a : Reg)
  /-- Takes the minimum of the active lanes into a scalar. (R171) -/
  | redmin (sm : Bool) (d : Reg) (a : Reg)
  /-- Takes the maximum of the active lanes into a scalar. (R171) -/
  | redmax (sm : Bool) (d : Reg) (a : Reg)
  /-- Inclusive prefix sum over the active lanes. (R172) -/
  | scan (sm : Bool) (d : Reg) (a : Reg)
  /-- Gathers across lanes by a per-lane source index. (R166) -/
  | shfl (sm : Bool) (d : Reg) (a : Reg) (b : Reg)
  /-- Moves lanes by a fixed pattern and distance. (R167) -/
  | shfi (sm : Bool) (d : Reg) (a : Reg) (p : LanePat) (k : BitVec 5)
  /-- Shifts the lanes up by one, with a scalar carry-in. (R168) -/
  | lsh (sm : Bool) (d : Reg) (a : Reg) (b : Reg)
  /-- Byte-table lookup by the low nibbles. (R169) -/
  | btl (sm : Bool) (d : Reg) (a : Reg) (b : Reg)
  /-- Byte-table lookup by the high nibbles. (R169) -/
  | btlh (sm : Bool) (d : Reg) (a : Reg) (b : Reg)
  /-- Dot product of four 8-bit elements, accumulated into D. (R170) -/
  | dot8 (sm : Bool) (d : Reg) (a : Reg) (b : Reg)
  /-- Dot product of eight 4-bit elements, accumulated into D. (R170) -/
  | dot4 (sm : Bool) (d : Reg) (a : Reg) (b : Reg)
  /-- Loads a byte, base+index form. (R152) -/
  | ldb (sm : Bool) (d : Reg) (a : Reg) (b : Reg)
  /-- Loads a half, base+index form. (R152) -/
  | ldh (sm : Bool) (d : Reg) (a : Reg) (b : Reg)
  /-- Loads a word, base+index form. (R152) -/
  | ldw (sm : Bool) (d : Reg) (a : Reg) (b : Reg)
  /-- Loads a doubleword, base+index form. (R152) -/
  | ldd (sm : Bool) (d : Reg) (a : Reg) (b : Reg)
  /-- Loads a quadword, base+index form. (R152) -/
  | ldq (sm : Bool) (d : Reg) (a : Reg) (b : Reg)
  /-- Stores a byte, base+index form. (R152) -/
  | stb (sm : Bool) (d : Reg) (a : Reg) (b : Reg)
  /-- Stores a half, base+index form. (R152) -/
  | sth (sm : Bool) (d : Reg) (a : Reg) (b : Reg)
  /-- Stores a word, base+index form. (R152) -/
  | stw (sm : Bool) (d : Reg) (a : Reg) (b : Reg)
  /-- Stores a doubleword, base+index form. (R152) -/
  | std (sm : Bool) (d : Reg) (a : Reg) (b : Reg)
  /-- Stores a quadword, base+index form. (R152) -/
  | stq (sm : Bool) (d : Reg) (a : Reg) (b : Reg)
  /-- Loads a byte, base+immediate form. (R81) -/
  | ldbImm (sm : Bool) (d : Reg) (a : Reg) (o : BitVec 5)
  /-- Loads a half, base+immediate form. (R81) -/
  | ldhImm (sm : Bool) (d : Reg) (a : Reg) (o : BitVec 5)
  /-- Loads a word, base+immediate form. (R81) -/
  | ldwImm (sm : Bool) (d : Reg) (a : Reg) (o : BitVec 5)
  /-- Loads a doubleword, base+immediate form. (R81) -/
  | lddImm (sm : Bool) (d : Reg) (a : Reg) (o : BitVec 5)
  /-- Loads a quadword, base+immediate form. (R81) -/
  | ldqImm (sm : Bool) (d : Reg) (a : Reg) (o : BitVec 5)
  /-- Stores a byte, base+immediate form. (R81) -/
  | stbImm (sm : Bool) (d : Reg) (a : Reg) (o : BitVec 5)
  /-- Stores a half, base+immediate form. (R81) -/
  | sthImm (sm : Bool) (d : Reg) (a : Reg) (o : BitVec 5)
  /-- Stores a word, base+immediate form. (R81) -/
  | stwImm (sm : Bool) (d : Reg) (a : Reg) (o : BitVec 5)
  /-- Stores a doubleword, base+immediate form. (R81) -/
  | stdImm (sm : Bool) (d : Reg) (a : Reg) (o : BitVec 5)
  /-- Stores a quadword, base+immediate form. (R81) -/
  | stqImm (sm : Bool) (d : Reg) (a : Reg) (o : BitVec 5)
  /-- Strided word load. (R153) -/
  | lds (sm : Bool) (d : Reg) (a : Reg) (b : Reg)
  /-- Strided word store. (R153) -/
  | sts (sm : Bool) (d : Reg) (a : Reg) (b : Reg)
  /-- Atomic add, non-return form. (R213) -/
  | aadd (sm : Bool) (d : Reg) (a : Reg) (c : Scope)
  /-- Atomic add, return form. (R213) -/
  | aaddR (sm : Bool) (d : Reg) (a : Reg) (c : Scope)
  /-- Atomic minimum, non-return form. (R213) -/
  | amin (sm : Bool) (d : Reg) (a : Reg) (c : Scope)
  /-- Atomic minimum, return form. (R213) -/
  | aminR (sm : Bool) (d : Reg) (a : Reg) (c : Scope)
  /-- Atomic maximum, non-return form. (R213) -/
  | amax (sm : Bool) (d : Reg) (a : Reg) (c : Scope)
  /-- Atomic maximum, return form. (R213) -/
  | amaxR (sm : Bool) (d : Reg) (a : Reg) (c : Scope)
  /-- Atomic AND, non-return form. (R213) -/
  | aand (sm : Bool) (d : Reg) (a : Reg) (c : Scope)
  /-- Atomic AND, return form. (R213) -/
  | aandR (sm : Bool) (d : Reg) (a : Reg) (c : Scope)
  /-- Atomic OR, non-return form. (R213) -/
  | aor (sm : Bool) (d : Reg) (a : Reg) (c : Scope)
  /-- Atomic OR, return form. (R213) -/
  | aorR (sm : Bool) (d : Reg) (a : Reg) (c : Scope)
  /-- Atomic exclusive-or, non-return form. (R213) -/
  | axor (sm : Bool) (d : Reg) (a : Reg) (c : Scope)
  /-- Atomic exclusive-or, return form. (R213) -/
  | axorR (sm : Bool) (d : Reg) (a : Reg) (c : Scope)
  /-- Atomic exchange, non-return form. (R213) -/
  | axch (sm : Bool) (d : Reg) (a : Reg) (c : Scope)
  /-- Atomic exchange, return form. (R213) -/
  | axchR (sm : Bool) (d : Reg) (a : Reg) (c : Scope)
  /-- Atomic compare-and-swap, non-return form. (R213) -/
  | acas (sm : Bool) (d : Reg) (a : Reg) (c : Scope)
  /-- Atomic compare-and-swap, return form. (R213) -/
  | acasR (sm : Bool) (d : Reg) (a : Reg) (c : Scope)
  /-- Atomic floating-point add rounded at the home, non-return form. (R214) -/
  | afadd (sm : Bool) (d : Reg) (a : Reg) (c : Scope)
  /-- Atomic floating-point add, return form. (R214) -/
  | afaddR (sm : Bool) (d : Reg) (a : Reg) (c : Scope)
  /-- Writes a future cell if it is EMPTY, with stat Pending until the answer. (R220) -/
  | fwr (sm : Bool) (d : Reg) (a : Reg)
  /-- Reads a future cell and waits in EVWAIT for the answer. (R221) -/
  | frd (sm : Bool) (d : Reg) (a : Reg)
  /-- Consuming read of a future cell, emptying it. (R221) -/
  | frdC (sm : Bool) (d : Reg) (a : Reg)
  /-- Claims n producer granules of a ring and waits for the ticket. (R225) -/
  | rclaim (sm : Bool) (d : Reg) (a : Reg)
  /-- Commits a producer claim, as a release. (R225) -/
  | rcommit (sm : Bool) (d : Reg) (a : Reg)
  /-- Awaits n committed granules and claims them for the consumer. (R225) -/
  | rawait (sm : Bool) (d : Reg) (a : Reg)
  /-- Retires a consumer claim, freeing its granules in order. (R225) -/
  | rretire (sm : Bool) (d : Reg) (a : Reg)
  /-- Binds the gang as a producer of a ring. (R228) -/
  | rbind (sm : Bool) (a : Reg)
  /-- Arrives at a named barrier and waits for the phase to complete. (R231) -/
  | bar (sm : Bool) (d : Reg) (a : Reg) (n : BitVec 6)
  /-- Arrives at a named barrier without waiting. (R231) -/
  | barar (sm : Bool) (d : Reg) (a : Reg) (n : BitVec 6)
  /-- Waits for the phase of the split's last arrival. (R47) -/
  | barw (sm : Bool) (n : BitVec 6)
  /-- Writes data remotely and then increments an arrival counter. (R232) -/
  | rwr (sm : Bool) (d : Reg) (a : Reg) (b : Reg)
  /-- Waits until a counter reaches a threshold, then subtracts it. (R233) -/
  | rwait (sm : Bool) (d : Reg) (e : BitVec 16)
  /-- Returns the top granules of the top segment to the group pool. (R37) -/
  | give (sm : Bool) (e : BitVec 16)
  /-- Adds a register segment of k granules, or waits in CLAIMWAIT. (R38) -/
  | claim (sm : Bool) (e : BitVec 16)
  /-- Restores bent-shared membership and acquires at bent scope. (R235) -/
  | bjoin (sm : Bool)
  /-- Releases at bent scope and revokes window 3 mappings. (R235) -/
  | bleave (sm : Bool)
  /-- Acquire at the given scope. (R192) -/
  | acq (sm : Bool) (c : Scope)
  /-- Release at the given scope. (R191) -/
  | rel (sm : Bool) (c : Scope)
  /-- Release and then acquire at the given scope. (R217) -/
  | fence (sm : Bool) (c : Scope)
  /-- Sequentially consistent fence: release, wait for the next strike edge, acquire. (R197) -/
  | fsc (sm : Bool) (sys : Bool)
  /-- Waits until no register the split wrote is Pending. (R217) -/
  | xfence (sm : Bool)
  /-- Tests and writes the tile configuration, serialising the matrix unit. (R239) -/
  | tcfg (sm : Bool) (a : Reg)
  /-- Matrix multiply-accumulate onto the accumulator tile. (R244) -/
  | mma (sm : Bool) (d : Reg) (a : Reg) (b : Reg)
  /-- Matrix multiply starting each element from +0. (R244) -/
  | mmc (sm : Bool) (d : Reg) (a : Reg) (b : Reg)
  /-- Zeroes the accumulator tile and any lo tile. (R250) -/
  | mzero (sm : Bool) (d : Reg) (a : Reg)
  /-- Folds lo into hi for each compensated accumulator element. (R250) -/
  | mfin (sm : Bool) (d : Reg) (a : Reg)
  /-- Opens a choice among n alternatives, pushing a brace when n ≥ 2. (R310) -/
  | tryBrace (sm : Bool) (d : Reg) (e : BitVec 16)
  /-- Fails back to the newest brace in each active lane. (R312) -/
  | fail (sm : Bool)
  /-- Resumes every PEND lane of the split. (R313) -/
  | resume (sm : Bool) (d : Reg)
  /-- Discards braces above a given depth and returns the old depth. (R314) -/
  | cut (sm : Bool) (d : Reg) (a : Reg)
  /-- Gives IDLE lanes untried alternatives from the oldest braces of other lanes. (R316) -/
  | steal (sm : Bool)
  /-- Writes the lane bound bnd. (R315) -/
  | bset (sm : Bool) (a : Reg)
  /-- Trailed byte store to the lane-private program area. (R311) -/
  | sttb (sm : Bool) (d : Reg) (a : Reg) (o : BitVec 5)
  /-- Trailed half store. (R311) -/
  | stth (sm : Bool) (d : Reg) (a : Reg) (o : BitVec 5)
  /-- Trailed word store. (R311) -/
  | stt (sm : Bool) (d : Reg) (a : Reg) (o : BitVec 5)
  /-- Offers a value to a min-sense ridge register. (R304) -/
  | rmin (sm : Bool) (d : Reg) (a : Reg)
  /-- Offers a value to a max-sense ridge register. (R304) -/
  | rmax (sm : Bool) (d : Reg) (a : Reg)
  /-- Reads the core's copy of a ridge register, variable-latency. (R305) -/
  | rrd (sm : Bool) (d : Reg) (a : Reg)
  /-- Enqueues one task record per active lane and waits for acceptance. (R317) -/
  | spawn (sm : Bool) (d : Reg)
  /-- Starts a bulk copy on the core's copy engine and returns a handle. (R252) -/
  | cpy (sm : Bool) (d : Reg) (a : Reg) (b : Reg)
  /-- Waits until a named copy, or every copy, is complete. (R256) -/
  | cwait (sm : Bool) (a : Reg)
  /-- Binds, rebinds or unbinds a queue register to an engine after draining it. (R257) -/
  | qbind (sm : Bool) (d : Reg) (a : Reg)
  /-- Waits until a network completion counter reaches a value. (R261) -/
  | nwait (sm : Bool) (d : Reg) (a : Reg)
  /-- A variable-latency result arrives, clears Pending and may release a SEGWAIT or EVWAIT split. (R32) -/
  | resultDelivery (g : Nat) (o : Nat) (k : Nat)
  /-- A fetch fault or a faulting format-block read holds the split and parks it with one report. (R278) -/
  | instructionFetchFault (g : Nat) (sp : Nat)
  /-- On the device OS answer REPLAY, the faulting lanes are re-issued with their kept values. (R276) -/
  | faultReplay (g : Nat) (sp : Nat) (tbl : List PteWrite)
  /-- On the device OS answer DELIVER, the records are delivered to the handler as MEMFAULT. (R277) -/
  | faultDeliver (g : Nat) (sp : Nat)
  /-- The device OS answer writes s32–s37 and stat and releases the waiting split. (R265) -/
  | syscAnswer (g : Nat) (sp : Nat) (vals : List (Fin 6 × Dword)) (st : Option Dword)
  /-- At the strike edge that ends the timeout, the phase is reset and waiters raise BARTIMEOUT. (R48) -/
  | barrierTimeout (gr : Nat) (b : Nat)
  /-- When granules return to a pool, waiting claims are examined in arrival order and served. (R38) -/
  | claimServe (gr : Nat)
  /-- A home acknowledges a write and the gang's unacknowledged-store counter decreases. (R185) -/
  | storeAcknowledge (g : Nat) (o : Nat) (k : Nat)
  /-- A RETIRING gang with no unacknowledged store and no engine operation outstanding retires and releases. (R43) -/
  | gangRetire (g : Nat)
  /-- The home tests a launch wait event at head-of-queue and after each write to its counter. (R324) -/
  | waitEventTest (c : Nat) (q : Nat) (j : Nat)
  /-- A load request is performed at its home slice and answered. (R186) -/
  | homeLoad (g : Nat) (o : Nat) (k : Nat)
  /-- A store request is performed at its home slice and acknowledged. (R186) -/
  | homeStore (g : Nat) (o : Nat) (k : Nat)
  /-- An atomic is performed indivisibly at its home. (R213) -/
  | homeAtomic (g : Nat) (o : Nat) (k : Nat)
  /-- A future write fills an EMPTY cell and answers its deferred reads. (R204) -/
  | homeFutureWrite (g : Nat) (o : Nat) (k : Nat)
  /-- A future read is answered, deferred or refused with RETRY at the home. (R204) -/
  | homeFutureRead (g : Nat) (o : Nat) (k : Nat)
  /-- A ring claim or await is granted, held, or refused at the ring's home. (R225) -/
  | homeRingClaim (g : Nat) (o : Nat) (k : Nat)
  /-- A commit or retire is marked at the ring's home and the counts advance. (R225) -/
  | homeRingCommit (g : Nat) (o : Nat) (k : Nat)
  /-- A waiting ring request refused for a full buffer is sent again after 64 cycles. (R226) -/
  | ringRequestResend (g : Nat) (o : Nat) (k : Nat)
  /-- An rwr request performs its data and then adds to its counter at the home. (R232) -/
  | homeRemoteWrite (g : Nat) (o : Nat)
  /-- A waiting rwait completes when its counter reaches the threshold. (R233) -/
  | homeCounterWait (g : Nat) (o : Nat) (k : Nat)
  /-- A partner that has not issued by the barrier timeout makes the quad instruction fault with QUAD. (R249) -/
  | quadTimeout (g : Nat) (sp : Nat)
  /-- A matrix instruction delivers its accumulator and lo tiles. (R245) -/
  | matrixComplete (g : Nat) (o : Nat)
  /-- At the next strike edge a waiting fsc performs its acquire. (R197) -/
  | fscStrikeEdge (g : Nat) (sp : Nat)
  /-- The copy engine starts once the gang's release completes and moves the bytes. (R255) -/
  | copyEngineRun (g : Nat) (h : Nat) (j : Nat) (n : Nat)
  /-- The copy's clamp entries are removed and the copy is marked complete. (R255) -/
  | copyComplete (g : Nat) (h : Nat)
  /-- The gather engine performs the elements of a queued gather request. (R260) -/
  | gatherRun (g : Nat) (q : Nat) (j : Nat)
  /-- The gather removes its clamp entries and queues its completion for a pop. (R260) -/
  | gatherComplete (g : Nat) (q : Nat)
  /-- The device OS answers an engine element fault with a mapping and the element is performed. (R262) -/
  | engineFaultMap (g : Nat) (h : Nat) (tbl : List PteWrite)
  /-- The device OS declines and the operation completes with an ENGINE fault. (R262) -/
  | engineFaultDecline (g : Nat) (h : Nat)
  /-- A page-table walk completes and yields a translation or a TRANS, PERM or PTE fault. (R289) -/
  | tableWalkComplete (c : Nat) (core : Nat) (vpn : Nat)
  /-- The device OS invalidate command for a context completes. (R289) -/
  | tlbInvalidate (c : Nat) (tbl : List PteWrite)
  /-- The ridge unit applies an arriving offer and broadcasts any change. (R302) -/
  | ridgeOfferAccept (j : Nat)
  /-- A core copy or remote ridge unit applies a broadcast ridge value. (R302) -/
  | ridgeCopyUpdate (j : Nat)
  /-- The device OS configures a ridge register of a context. (R300) -/
  | ridgeConfigure (c : Nat) (k : Fin 16) (r : RidgeCfg)
  /-- The task store accepts or rejects a spawned task record and releases the spawn when all are done. (R317) -/
  | taskAccept (g : Nat) (sp : Nat) (lane : Nat)
  /-- A removal arriving at the task store removes queued tasks with a matching tag. (R318) -/
  | taskRemoval (j : Nat)
  /-- The device OS writes a launch queue descriptor. (R322) -/
  | launchQueueConfigure (c : Nat) (q : Fin 32) (en : Bool) (cls : Fin 4) (quantum : Nat)
  /-- The device OS grants or changes a context's chip-scratchpad carve-out. (R180) -/
  | carveOutGrant (c : Nat) (mib : Nat)
  /-- The device OS starts a FREE context, making it LIVE. (R279) -/
  | contextStart (c : Nat)
  /-- A pre-emption request puts a LIVE context into DRAINING. (R281) -/
  | contextPreempt (c : Nat)
  /-- A group is stopped, its requests drained or withdrawn, and its state written to the save area. (R283) -/
  | groupSave (gr : Nat)
  /-- A DRAINING context with no group resident becomes OUT. (R279) -/
  | drainComplete (c : Nat)
  /-- A drain that passes its deadline kills the context. (R282) -/
  | drainDeadline (c : Nat)
  /-- Switch-in restores saved groups first and returns the context to LIVE. (R284) -/
  | contextSwitchIn (c : Nat)
  /-- A kill request makes every gang of the context KILLED and discards its work. (R285) -/
  | contextKill (c : Nat)
  /-- Once no old-incarnation request remains, L1s are invalidated, a system release is made and the incarnation advances.
  (R208) -/
  | reclaimComplete (c : Nat)
  /-- Every 20 µs the power controller samples power and sensors, marks bents hot and steps supplies. (R335) -/
  | powerSample (watts : Nat) (rd : List (Nat × SensorSample))
  /-- A voted-out sensor within 3 °C of the model for one second is taken back. (R337) -/
  | sensorTakeBack (i : Nat)
  /-- After 64 cycles a bent's draw window closes, its total is kept and the gate reopens. (R333) -/
  | drawWindowClose (bent : Nat)
  /-- A tail write submits records, or stops the queue with reason 1 when out of range. (R345) -/
  | qtailDoorbell (c : Nat) (q : Fin 32) (v : Word)
  /-- A QBASE or QSIZE write, ignored while the queue holds records. (R344) -/
  | queueConfigWrite (c : Nat) (q : Fin 32) (w : QueueCfg)
  /-- A CBASE or CSIZE write, ignored while the completion ring holds records. (R344) -/
  | completionConfigWrite (c : Nat) (w : QueueCfg)
  /-- A write of CHEAD frees completion slots for the device. (R348) -/
  | cheadWrite (c : Nat) (v : Word)
  /-- The device reads the record at QHEAD, advances QHEAD and accepts, refuses or starts it. (R345) -/
  | hostRecordTake (c : Nat) (q : Fin 32) (readErr : Bool)
  /-- A host copy record moves bytes between host and device memory once earlier records have completed. (R347) -/
  | hostCopy (c : Nat) (q : Fin 32)
  /-- A completion record is written once the ring has room, CTAIL advances and the MSI-X vector is signalled. (R348) -/
  | completionRecordWrite (c : Nat)
  /-- The network engine performs an immediate put and then its counter additions. (R356) -/
  | netPuti (g : Nat) (q : Nat)
  /-- The network engine performs a memory put and then its counter additions. (R356) -/
  | netPutm (g : Nat) (q : Nat)
  /-- A received packet is performed in the context joined to its job, or refused. (R349) -/
  | netPacketReceive (p : Packet)
  /-- A selective acknowledgement marks packets as delivered: one that the receiver holds (`none`), or has performed, with its
  answer. (R353) -/
  | netAckReceive (id : Nat) (data : Option (BitVec 128))
  /-- A refusal from a receiver ends the request with a NODE or ENGINE fault. (R350) -/
  | netRefusalReceive (id : Nat) (why : RefusalKind)
  /-- A role change request is tested and, if it passes, begins draining the chip. (R370) -/
  | roleChange (target : Option Profile) (called : Bool)
  /-- The ROM verifies the floor record and slots, boots the chosen slot and Dyrok sets READY. (R363) -/
  | boot (selfTest : BitVec 8)
  /-- A fetched word that decodes to no instruction (unassigned code, reserved sub-field, nonzero Resv field, OP 0x7F) raises
  a precise ILLOP without issuing. (R85) -/
  | undecodableWord (w : Word)
  /-- Dyrok joins a local context to a 16-bit fabric job number, or removes that join, deciding which context performs
  requests that arrive for the job. (R349) -/
  | fabricJobJoin (c : Nat) (job : Option (BitVec 16))
  /-- The device OS creates a context in state FREE and sets its control state, including page-table root, fault threshold,
  deadline, save area and context quantum. (R279) -/
  | contextCreate (c : Nat) (p : CtxParams)
  /-- The daily scrub of HBM4E writes back corrected blocks and marks poison. (R377) -/
  | hbmScrub (bad : List Nat)
  /-- The one-second scrub of L2 SRAM. (R377) -/
  | l2Scrub (bad : List Nat)
  /-- A detected error is given one escalation level and acted on. (R378) -/
  | uncorrectableError (e : ErrSite)
  /-- An SPDM request over DOE or MCTP is answered with signed measurements. (R365) -/
  | spdmRequest (nonce : Nat)
  /-- A PLDM monitoring or FRU request returns sensor or FRU data. (R381) -/
  | pldmMonitorRequest (r : PldmRequest)
  /-- PLDM firmware update over the sideband writes the flash. (R381) -/
  | firmwareUpdate (w : FlashWrite)
  /-- Every 100 ms the management controller checks coolant inlet temperature and flow. (R366) -/
  | coolantCheck (plate : ColdPlate) (flow : Nat)
  /-- The bit-permutation exchange swaps elements with the partner module once credit is granted. (R358) -/
  | netExch (g : Nat) (q : Nat) (partner : ExchOffer)
  /-- The network engine performs a remote get and then its counter addition. (R356) -/
  | netGet (g : Nat) (q : Nat) (data : List FabByte)
  /-- The retransmit timeout resends the unacknowledged packets. (R353) -/
  | netRetransmitTimeout (id : Nat)
  /-- A request whose packets pass the 1 ms lifetime unacknowledged ends as a refusal. (R352) -/
  | netPacketExpiry (id : Nat)
  /-- A write to any other BAR0 register. (R340) -/
  | bar0RegisterWrite (off : Nat) (v : Word)
  /-- The PCIe link retrains to another rate or width. (R339) -/
  | linkRetrain (rate : Nat) (width : Nat)
  /-- A write of the accepted feature vector, ignored while attached. (R342) -/
  | acceptWrite (v : BitVec 256)
  /-- One of the eight Ethernet fabric ports goes down or comes up, changing the paths that packets are sprayed over and
  whether a fabric port is up at attach. (R353) -/
  | fabricPortLinkChange (p : Fin 8) (up : Bool)
  /-- The PTP port gains or loses synchronisation with its grandmaster, setting or clearing the time-synchronised bit and
  deciding whether the module takes part in the fabric under the 100 µs alignment limit. (R383) -/
  | ptpSyncChange (sync : Bool) (aligned : Bool)
  /-- Once drained, the chip holds, flushes, powers and re-enumerates layers and resumes contexts. (R370) -/
  | roleChangeReconfigure (found : Findings)
  /-- An issue that would take the watchdog counter above its limit traps with WATCHDOG instead. (R50) -/
  | watchdogExpiry
  /-- The distributor places a queued group on a core that fits, chosen by arbitration and placement keys. (R23) -/
  | placeGroup
  /-- The distributor places all groups of a frame at once on distinct cores of one bent. (R24) -/
  | placeFrame
  /-- At each chip strike the parked share is computed and may start DRAINING. (R280) -/
  | chipStrike
  /-- A PCIe function-level reset detaches the device and kills every context. (R340) -/
  | functionLevelReset
  /-- A write of ATTACH[0] = 1 attaches if ACCEPT is valid, resetting queues and rings, or sets REFUSED. (R341) -/
  | attachRequest
  /-- A write of ATTACH[0] = 0 detaches when no context is LIVE, DRAINING or OUT. (R342) -/
  | detachRequest
  /-- Dyrok abandons a role change during its drain and the drained contexts return to LIVE. (R371) -/
  | roleChangeAbandon
  /-- After 1 s outside or 60 s within a class, the class in force changes. (R367) -/
  | coolingClassChange
  /-- At 115 °C or low flow, the management controller removes power from the dies and stacks. (R380) -/
  | thermalTrip
  /-- The package is reset, ending every context and attach, and boot runs. (R379) -/
  | moduleReset
  /-- Dyrok silent for 1 s to the management controller's watchdog triggers a module reset. (R378) -/
  | dyrokWatchdog
  /-- No READY within 30 s makes the management controller reset the module and exclude the slot once. (R363) -/
  | bootTimeout
deriving DecidableEq, Repr

end Sys2Proof
end

