-- ==== Sys2Proof/WellFormed.lean ====
section
/-! DEFINITION. What the word alone decides about an instruction (03 R85; 17 Table 17-6, cause 1, reason 0), beyond what
the types of `Instr` already exclude. -/

namespace Sys2Proof

/-- The registers of class V of Table 3-1. -/
def Reg.isV : Reg → Bool
  | .v _ | .lid | .bnd | .alt => true
  | .s _ | .m _ | .q _ | .zr | .role | .mode | .stat | .live => false

/-- The registers of class S of Table 3-1. -/
def Reg.isS : Reg → Bool
  | .s _ | .role | .mode | .stat => true
  | .v _ | .m _ | .q _ | .zr | .lid | .bnd | .alt | .live => false

/-- The registers of class M of Table 3-1. -/
def Reg.isM : Reg → Bool
  | .m _ | .live => true
  | .v _ | .s _ | .q _ | .zr | .lid | .role | .bnd | .alt | .mode | .stat => false

/-- The queue registers. -/
def Reg.isQ : Reg → Bool
  | .q _ => true
  | .v _ | .s _ | .m _ | .zr | .lid | .role | .bnd | .alt | .mode | .stat | .live => false

/-- The class of a register (Table 3-1). -/
def Reg.cls : Reg → RegClass
  | .v _ | .lid | .bnd | .alt => .V
  | .s _ | .role | .mode | .stat => .S
  | .m _ | .live => .M
  | .q _ => .Q
  | .zr => .Z

/-- A `setm` immediate whose TYPE and RND are assigned codes (R72, Table 3-5, Table 3-6). -/
def Instr.setmLegal (e : BitVec 16) : Bool :=
  (e.extractLsb' 0 4).toNat < 14 && (e.extractLsb' 4 3).toNat < 5

/-- k of `give` and `claim` is 1 to 24 (13 R234). -/
def Instr.granulesLegal (e : BitVec 16) : Bool :=
  1 ≤ e.toNat && e.toNat ≤ 24

/-- The word of OP 0x40 to 0x44 is a scalar compare when D is of class S, or when D is zr and no source is of class V
(R58, R80). -/
def Instr.scalarCompare (d a b : Reg) : Bool :=
  d.isS || (d == .zr && !a.isV && !b.isV)

/-- An instruction that its own word makes legal (R85). An event of the part has no word and is always well formed. -/
def Instr.wf : Instr → Bool
  | .nop _ => true
  | .br _ _ => true
  | .brz _ _ _ => true
  | .brnz _ _ _ => true
  | .call _ _ => true
  | .ret _ => true
  | .jr _ _ _ => true
  | .part _ _ _ => true
  | .regang _ => true
  | .yield _ _ _ => true
  | .exit _ => true
  | .setm _ e => Instr.setmLegal e
  | .trap _ _ => true
  | .tret _ => true
  | .sysc _ _ => true
  | .rdsr _ _ _ => true
  | .wrsr _ _ _ => true
  | .add _ _ _ _ => true
  | .sub _ _ _ _ => true
  | .mul _ _ _ _ => true
  | .mulh _ _ _ _ => true
  | .and _ _ _ _ => true
  | .or _ _ _ _ => true
  | .xor _ _ _ _ => true
  | .shl _ _ _ _ => true
  | .shr _ _ _ _ => true
  | .sar _ _ _ _ => true
  | .rot _ _ _ _ => true
  | .min _ _ _ _ => true
  | .max _ _ _ _ => true
  | .sel _ _ _ _ => true
  | .mov _ d a => !d.isQ && !a.isQ
  | .queuePush _ d _ => d.isQ
  | .queuePop _ d a => !d.isQ && a.isQ
  | .popc _ _ _ => true
  | .clz _ _ _ => true
  | .ffs _ _ _ => true
  | .rget _ _ _ => true
  | .rput _ _ _ => true
  | .li _ _ _ => true
  | .lih _ _ _ => true
  | .addImm _ _ _ _ => true
  | .mulImm _ _ _ _ => true
  | .andImm _ _ _ _ => true
  | .orImm _ _ _ _ => true
  | .xorImm _ _ _ _ => true
  | .shlImm _ _ _ _ => true
  | .shrImm _ _ _ _ => true
  | .sarImm _ _ _ _ => true
  | .rotImm _ _ _ _ => true
  | .minImm _ _ _ _ => true
  | .maxImm _ _ _ _ => true
  | .fadd _ _ _ _ => true
  | .fsub _ _ _ _ => true
  | .fmul _ _ _ _ => true
  | .fma _ _ _ _ => true
  | .fms _ _ _ _ => true
  | .fmin _ _ _ _ => true
  | .fmax _ _ _ _ => true
  | .div _ _ _ _ => true
  | .fneg _ _ _ => true
  | .fabs _ _ _ => true
  | .sqrt _ _ _ => true
  | .rcp _ _ _ => true
  | .rsqrt _ _ _ => true
  | .cvt _ _ _ _ => true
  | .ceq _ d a b => !Instr.scalarCompare d a b
  | .cne _ d a b => !Instr.scalarCompare d a b
  | .clt _ d a b => !Instr.scalarCompare d a b
  | .cle _ d a b => !Instr.scalarCompare d a b
  | .cun _ d a b => !Instr.scalarCompare d a b
  | .sceq _ d a b => Instr.scalarCompare d a b
  | .scne _ d a b => Instr.scalarCompare d a b
  | .sclt _ d a b => Instr.scalarCompare d a b
  | .scle _ d a b => Instr.scalarCompare d a b
  | .scun _ d a b => Instr.scalarCompare d a b
  | .mand _ _ _ _ => true
  | .mor _ _ _ _ => true
  | .mxor _ _ _ _ => true
  | .mnot _ _ _ => true
  | .msave _ _ _ => true
  | .mrest _ _ _ => true
  | .mpop _ _ _ => true
  | .mffs _ _ _ => true
  | .redadd _ _ _ => true
  | .redmin _ _ _ => true
  | .redmax _ _ _ => true
  | .scan _ _ _ => true
  | .shfl _ _ _ _ => true
  | .shfi _ _ _ _ _ => true
  | .lsh _ _ _ _ => true
  | .btl _ _ _ _ => true
  | .btlh _ _ _ _ => true
  | .dot8 _ _ _ _ => true
  | .dot4 _ _ _ _ => true
  | .ldb _ _ _ _ => true
  | .ldh _ _ _ _ => true
  | .ldw _ _ _ _ => true
  | .ldd _ _ _ _ => true
  | .ldq _ _ _ _ => true
  | .stb _ _ _ _ => true
  | .sth _ _ _ _ => true
  | .stw _ _ _ _ => true
  | .std _ _ _ _ => true
  | .stq _ _ _ _ => true
  | .ldbImm _ _ _ _ => true
  | .ldhImm _ _ _ _ => true
  | .ldwImm _ _ _ _ => true
  | .lddImm _ _ _ _ => true
  | .ldqImm _ _ _ _ => true
  | .stbImm _ _ _ _ => true
  | .sthImm _ _ _ _ => true
  | .stwImm _ _ _ _ => true
  | .stdImm _ _ _ _ => true
  | .stqImm _ _ _ _ => true
  | .lds _ _ _ _ => true
  | .sts _ _ _ _ => true
  | .aadd _ _ _ _ => true
  | .aaddR _ _ _ _ => true
  | .amin _ _ _ _ => true
  | .aminR _ _ _ _ => true
  | .amax _ _ _ _ => true
  | .amaxR _ _ _ _ => true
  | .aand _ _ _ _ => true
  | .aandR _ _ _ _ => true
  | .aor _ _ _ _ => true
  | .aorR _ _ _ _ => true
  | .axor _ _ _ _ => true
  | .axorR _ _ _ _ => true
  | .axch _ _ _ _ => true
  | .axchR _ _ _ _ => true
  | .acas _ _ _ _ => true
  | .acasR _ _ _ _ => true
  | .afadd _ _ _ _ => true
  | .afaddR _ _ _ _ => true
  | .fwr _ _ _ => true
  | .frd _ _ _ => true
  | .frdC _ _ _ => true
  | .rclaim _ _ _ => true
  | .rcommit _ _ _ => true
  | .rawait _ _ _ => true
  | .rretire _ _ _ => true
  | .rbind _ _ => true
  | .bar _ _ _ _ => true
  | .barar _ _ _ _ => true
  | .barw _ _ => true
  | .rwr _ _ _ _ => true
  | .rwait _ _ e => e != 0
  | .give _ e => Instr.granulesLegal e
  | .claim _ e => Instr.granulesLegal e
  | .bjoin _ => true
  | .bleave _ => true
  | .acq _ _ => true
  | .rel _ _ => true
  | .fence _ _ => true
  | .fsc _ _ => true
  | .xfence _ => true
  | .tcfg _ _ => true
  | .mma _ _ _ _ => true
  | .mmc _ _ _ _ => true
  | .mzero _ _ _ => true
  | .mfin _ _ _ => true
  | .tryBrace _ _ _ => true
  | .fail _ => true
  | .resume _ _ => true
  | .cut _ _ _ => true
  | .steal _ => true
  | .bset _ _ => true
  | .sttb _ _ _ _ => true
  | .stth _ _ _ _ => true
  | .stt _ _ _ _ => true
  | .rmin _ _ _ => true
  | .rmax _ _ _ => true
  | .rrd _ _ _ => true
  | .spawn _ _ => true
  | .cpy _ _ _ _ => true
  | .cwait _ _ => true
  | .qbind _ _ _ => true
  | .nwait _ _ _ => true
  | .watchdogExpiry => true
  | .resultDelivery _ _ _ => true
  | .instructionFetchFault _ _ => true
  | .faultReplay _ _ _ => true
  | .faultDeliver _ _ => true
  | .syscAnswer _ _ _ _ => true
  | .barrierTimeout _ _ => true
  | .claimServe _ => true
  | .storeAcknowledge _ _ _ => true
  | .gangRetire _ => true
  | .placeGroup => true
  | .placeFrame => true
  | .waitEventTest _ _ _ => true
  | .homeLoad _ _ _ => true
  | .homeStore _ _ _ => true
  | .homeAtomic _ _ _ => true
  | .homeFutureWrite _ _ _ => true
  | .homeFutureRead _ _ _ => true
  | .homeRingClaim _ _ _ => true
  | .homeRingCommit _ _ _ => true
  | .ringRequestResend _ _ _ => true
  | .homeRemoteWrite _ _ => true
  | .homeCounterWait _ _ _ => true
  | .quadTimeout _ _ => true
  | .matrixComplete _ _ => true
  | .fscStrikeEdge _ _ => true
  | .copyEngineRun _ _ _ _ => true
  | .copyComplete _ _ => true
  | .gatherRun _ _ _ => true
  | .gatherComplete _ _ => true
  | .engineFaultMap _ _ _ => true
  | .engineFaultDecline _ _ => true
  | .tableWalkComplete _ _ _ => true
  | .tlbInvalidate _ _ => true
  | .ridgeOfferAccept _ => true
  | .ridgeCopyUpdate _ => true
  | .ridgeConfigure _ _ _ => true
  | .taskAccept _ _ _ => true
  | .taskRemoval _ => true
  | .launchQueueConfigure _ _ _ _ _ => true
  | .carveOutGrant _ _ => true
  | .chipStrike => true
  | .contextStart _ => true
  | .contextPreempt _ => true
  | .groupSave _ => true
  | .drainComplete _ => true
  | .drainDeadline _ => true
  | .contextSwitchIn _ => true
  | .contextKill _ => true
  | .reclaimComplete _ => true
  | .powerSample _ _ => true
  | .sensorTakeBack _ => true
  | .drawWindowClose _ => true
  | .functionLevelReset => true
  | .linkRetrain _ _ => true
  | .attachRequest => true
  | .detachRequest => true
  | .acceptWrite _ => true
  | .qtailDoorbell _ _ _ => true
  | .queueConfigWrite _ _ _ => true
  | .completionConfigWrite _ _ => true
  | .cheadWrite _ _ => true
  | .bar0RegisterWrite _ _ => true
  | .hostRecordTake _ _ _ => true
  | .hostCopy _ _ => true
  | .completionRecordWrite _ => true
  | .netPuti _ _ => true
  | .netPutm _ _ => true
  | .netGet _ _ _ => true
  | .netExch _ _ _ => true
  | .netPacketReceive _ => true
  | .netAckReceive _ _ => true
  | .netRefusalReceive _ _ => true
  | .netRetransmitTimeout _ => true
  | .netPacketExpiry _ => true
  | .roleChange _ _ => true
  | .roleChangeReconfigure _ => true
  | .roleChangeAbandon => true
  | .coolantCheck _ _ => true
  | .coolingClassChange => true
  | .uncorrectableError _ => true
  | .hbmScrub _ => true
  | .l2Scrub _ => true
  | .thermalTrip => true
  | .moduleReset => true
  | .dyrokWatchdog => true
  | .boot _ => true
  | .bootTimeout => true
  | .firmwareUpdate _ => true
  | .spdmRequest _ => true
  | .pldmMonitorRequest _ => true
  | .undecodableWord _ => true
  | .fabricPortLinkChange _ _ => true
  | .ptpSyncChange _ _ => true
  | .fabricJobJoin _ _ => true
  | .contextCreate _ _ => true

end Sys2Proof
end

