-- ==== Sys2Proof/Decode.lean ====
section
/-! DEFINITION. The decoder (03 R74 to R86), total on any bytes and rejecting by name, and the encoder written from the
same encoding tables. -/

namespace Sys2Proof

/-- Why a word decodes to no instruction (R85). Each raises the precise trap ILLOP with reason 0. -/
inductive Reject where
  /-- Fewer than four bytes were given. -/
  | truncated
  /-- An unassigned major code (R79, R86). -/
  | unassignedMajor
  /-- An unassigned minor code (Table 3-9). -/
  | unassignedMinor
  /-- A reserved sub-field value (R81, R82, R83). -/
  | reservedSubfield
  /-- A nonzero Resv field (R76). -/
  | resvField
  /-- An immediate outside the range its entry gives. -/
  | immediateRange
deriving DecidableEq, Repr

/-- The register number of a register (Table 3-1). -/
def Reg.num : Reg → BitVec 8
  | .v n => BitVec.ofNat 8 n.val
  | .s n => BitVec.ofNat 8 (192 + n.val)
  | .m n => BitVec.ofNat 8 (232 + n.val)
  | .q n => BitVec.ofNat 8 (240 + n.val)
  | .zr => 248#8
  | .lid => 249#8
  | .role => 250#8
  | .bnd => 251#8
  | .alt => 252#8
  | .mode => 253#8
  | .stat => 254#8
  | .live => 255#8

/-- The register that an 8-bit register number names (R56, Table 3-1). -/
def Reg.ofNum (b : BitVec 8) : Reg :=
  if h : b.toNat < 192 then .v ⟨b.toNat, h⟩
  else if h : b.toNat - 192 < 40 then .s ⟨b.toNat - 192, h⟩
  else if h : b.toNat - 232 < 8 then .m ⟨b.toNat - 232, h⟩
  else if h : b.toNat - 240 < 8 then .q ⟨b.toNat - 240, h⟩
  else match b.toNat with
    | 248 => .zr
    | 249 => .lid
    | 250 => .role
    | 251 => .bnd
    | 252 => .alt
    | 253 => .mode
    | 254 => .stat
    | _ => .live

/-- Table 3-5 read as a code. -/
def EType.ofNum (c : BitVec 4) : Option EType :=
  match c.toNat with
  | 0 => some .fp32
  | 1 => some .fp64
  | 2 => some .fp16
  | 3 => some .bf16
  | 4 => some .e4m3
  | 5 => some .e5m2
  | 6 => some .e2m1
  | 7 => some .cf32
  | 8 => some .i32
  | 9 => some .n32
  | 10 => some .i8
  | 11 => some .n8
  | 12 => some .i4
  | 13 => some .n4
  | _ => none

/-- The code of a type in Table 3-5. -/
def EType.num : EType → BitVec 4
  | .fp32 => 0
  | .fp64 => 1
  | .fp16 => 2
  | .bf16 => 3
  | .e4m3 => 4
  | .e5m2 => 5
  | .e2m1 => 6
  | .cf32 => 7
  | .i32 => 8
  | .n32 => 9
  | .i8 => 10
  | .n8 => 11
  | .i4 => 12
  | .n4 => 13

/-- Table 3-6 read as a code. -/
def RMode.ofNum (c : BitVec 3) : Option RMode :=
  match c.toNat with
  | 0 => some .rne
  | 1 => some .rtz
  | 2 => some .rdn
  | 3 => some .rup
  | 4 => some .rna
  | _ => none

/-- The scope codes of R82. -/
def Scope.ofNum (c : BitVec 3) : Option Scope :=
  match c.toNat with
  | 0 => some .gang
  | 1 => some .core
  | 2 => some .bent
  | 3 => some .chip
  | 4 => some .sys
  | _ => none

/-- The code of a scope (R82). -/
def Scope.num : Scope → BitVec 3
  | .gang => 0
  | .core => 1
  | .bent => 2
  | .chip => 3
  | .sys => 4

/-- The pattern codes of `shfi` (Table 9-5). -/
def LanePat.ofNum (c : BitVec 3) : Option LanePat :=
  match c.toNat with
  | 0 => some .bcast
  | 1 => some .xor
  | 2 => some .rotd
  | 3 => some .down
  | 4 => some .up
  | _ => none

/-- The code of a `shfi` pattern (Table 9-5). -/
def LanePat.num : LanePat → BitVec 3
  | .bcast => 0
  | .xor => 1
  | .rotd => 2
  | .down => 3
  | .up => 4

/-- The fields of a word, S, OP, D, A and B of Table 3-7, read as the instruction they encode (Table 3-8, Table 3-9). -/
def decodeFields (sm : Bool) (op : Nat) (d a b : BitVec 8) : Except Reject Instr :=
  match op with
  | 0x00 =>
    match d.toNat with
    | 0 => if a = 0#8 ∧ b = 0#8 then .ok (.nop sm) else .error .resvField
    | _ => .error .resvField
  | 0x01 => .ok (.br sm (d ++ a ++ b))
  | 0x02 => .ok (.brz sm (Reg.ofNum d) (a ++ b))
  | 0x03 => .ok (.brnz sm (Reg.ofNum d) (a ++ b))
  | 0x04 => .ok (.call sm (d ++ a ++ b))
  | 0x05 =>
    match b.toNat with
    | 0 => if d = 0#8 ∧ a = 0#8 then .ok (.ret sm) else .error .resvField
    | _ => .error .resvField
  | 0x06 =>
    match b.toNat with
    | 0 => .ok (.jr sm (Reg.ofNum d) (Reg.ofNum a))
    | _ => .error .resvField
  | 0x07 =>
    match b.toNat with
    | 0 => .ok (.part sm (Reg.ofNum d) (Reg.ofNum a))
    | _ => .error .resvField
  | 0x08 =>
    match d.toNat with
    | 0 => if a = 0#8 ∧ b = 0#8 then .ok (.regang sm) else .error .resvField
    | _ => .error .resvField
  | 0x09 => .ok (.yield sm (Reg.ofNum d) (a ++ b))
  | 0x0A =>
    match d.toNat with
    | 0 => if a = 0#8 ∧ b = 0#8 then .ok (.exit sm) else .error .resvField
    | _ => .error .resvField
  | 0x0B =>
    match d.toNat with
    | 0 => if Instr.setmLegal (a ++ b) then .ok (.setm sm (a ++ b)) else .error .immediateRange
    | 1 => .ok (.trap sm (a ++ b))
    | 2 => if a = 0#8 ∧ b = 0#8 then .ok (.tret sm) else .error .resvField
    | 3 => .ok (.sysc sm (a ++ b))
    | _ => .error .unassignedMinor
  | 0x0C => .ok (.rdsr sm (Reg.ofNum d) (a ++ b))
  | 0x0D => .ok (.wrsr sm (Reg.ofNum d) (a ++ b))
  | 0x10 => .ok (.add sm (Reg.ofNum d) (Reg.ofNum a) (Reg.ofNum b))
  | 0x11 => .ok (.sub sm (Reg.ofNum d) (Reg.ofNum a) (Reg.ofNum b))
  | 0x12 => .ok (.mul sm (Reg.ofNum d) (Reg.ofNum a) (Reg.ofNum b))
  | 0x13 => .ok (.mulh sm (Reg.ofNum d) (Reg.ofNum a) (Reg.ofNum b))
  | 0x14 => .ok (.and sm (Reg.ofNum d) (Reg.ofNum a) (Reg.ofNum b))
  | 0x15 => .ok (.or sm (Reg.ofNum d) (Reg.ofNum a) (Reg.ofNum b))
  | 0x16 => .ok (.xor sm (Reg.ofNum d) (Reg.ofNum a) (Reg.ofNum b))
  | 0x17 => .ok (.shl sm (Reg.ofNum d) (Reg.ofNum a) (Reg.ofNum b))
  | 0x18 => .ok (.shr sm (Reg.ofNum d) (Reg.ofNum a) (Reg.ofNum b))
  | 0x19 => .ok (.sar sm (Reg.ofNum d) (Reg.ofNum a) (Reg.ofNum b))
  | 0x1A => .ok (.rot sm (Reg.ofNum d) (Reg.ofNum a) (Reg.ofNum b))
  | 0x1B => .ok (.min sm (Reg.ofNum d) (Reg.ofNum a) (Reg.ofNum b))
  | 0x1C => .ok (.max sm (Reg.ofNum d) (Reg.ofNum a) (Reg.ofNum b))
  | 0x1D => .ok (.sel sm (Reg.ofNum d) (Reg.ofNum a) (Reg.ofNum b))
  | 0x1E =>
    match b.toNat with
    | 0 =>
      if (Reg.ofNum d).isQ then .ok (.queuePush sm (Reg.ofNum d) (Reg.ofNum a))
      else if (Reg.ofNum a).isQ then .ok (.queuePop sm (Reg.ofNum d) (Reg.ofNum a))
      else .ok (.mov sm (Reg.ofNum d) (Reg.ofNum a))
    | 1 => .ok (.popc sm (Reg.ofNum d) (Reg.ofNum a))
    | 2 => .ok (.clz sm (Reg.ofNum d) (Reg.ofNum a))
    | 3 => .ok (.ffs sm (Reg.ofNum d) (Reg.ofNum a))
    | _ => .error .unassignedMinor
  | 0x1F =>
    match b.toNat with
    | 0 => .ok (.rget sm (Reg.ofNum d) (Reg.ofNum a))
    | 1 => .ok (.rput sm (Reg.ofNum d) (Reg.ofNum a))
    | _ => .error .unassignedMinor
  | 0x20 => .ok (.li sm (Reg.ofNum d) (a ++ b))
  | 0x21 => .ok (.lih sm (Reg.ofNum d) (a ++ b))
  | 0x22 => .ok (.addImm sm (Reg.ofNum d) (Reg.ofNum a) b)
  | 0x23 => .ok (.mulImm sm (Reg.ofNum d) (Reg.ofNum a) b)
  | 0x24 => .ok (.andImm sm (Reg.ofNum d) (Reg.ofNum a) b)
  | 0x25 => .ok (.orImm sm (Reg.ofNum d) (Reg.ofNum a) b)
  | 0x26 => .ok (.xorImm sm (Reg.ofNum d) (Reg.ofNum a) b)
  | 0x27 =>
    if b.extractLsb' 6 2 = 0#2 then .ok (.shlImm sm (Reg.ofNum d) (Reg.ofNum a) (b.extractLsb' 0 6)) else .error .resvField
  | 0x28 =>
    if b.extractLsb' 6 2 = 0#2 then .ok (.shrImm sm (Reg.ofNum d) (Reg.ofNum a) (b.extractLsb' 0 6)) else .error .resvField
  | 0x29 =>
    if b.extractLsb' 6 2 = 0#2 then .ok (.sarImm sm (Reg.ofNum d) (Reg.ofNum a) (b.extractLsb' 0 6)) else .error .resvField
  | 0x2A =>
    if b.extractLsb' 6 2 = 0#2 then .ok (.rotImm sm (Reg.ofNum d) (Reg.ofNum a) (b.extractLsb' 0 6)) else .error .resvField
  | 0x2B => .ok (.minImm sm (Reg.ofNum d) (Reg.ofNum a) b)
  | 0x2C => .ok (.maxImm sm (Reg.ofNum d) (Reg.ofNum a) b)
  | 0x30 => .ok (.fadd sm (Reg.ofNum d) (Reg.ofNum a) (Reg.ofNum b))
  | 0x31 => .ok (.fsub sm (Reg.ofNum d) (Reg.ofNum a) (Reg.ofNum b))
  | 0x32 => .ok (.fmul sm (Reg.ofNum d) (Reg.ofNum a) (Reg.ofNum b))
  | 0x33 => .ok (.fma sm (Reg.ofNum d) (Reg.ofNum a) (Reg.ofNum b))
  | 0x34 => .ok (.fms sm (Reg.ofNum d) (Reg.ofNum a) (Reg.ofNum b))
  | 0x35 => .ok (.fmin sm (Reg.ofNum d) (Reg.ofNum a) (Reg.ofNum b))
  | 0x36 => .ok (.fmax sm (Reg.ofNum d) (Reg.ofNum a) (Reg.ofNum b))
  | 0x37 => .ok (.div sm (Reg.ofNum d) (Reg.ofNum a) (Reg.ofNum b))
  | 0x38 =>
    match b.toNat with
    | 0 => .ok (.fneg sm (Reg.ofNum d) (Reg.ofNum a))
    | 1 => .ok (.fabs sm (Reg.ofNum d) (Reg.ofNum a))
    | 2 => .ok (.sqrt sm (Reg.ofNum d) (Reg.ofNum a))
    | 3 => .ok (.rcp sm (Reg.ofNum d) (Reg.ofNum a))
    | 4 => .ok (.rsqrt sm (Reg.ofNum d) (Reg.ofNum a))
    | _ => .error .unassignedMinor
  | 0x39 =>
    if b.extractLsb' 4 4 = 0#4 then match EType.ofNum (b.extractLsb' 0 4) with
      | some t => .ok (.cvt sm (Reg.ofNum d) (Reg.ofNum a) t)
      | none => .error .reservedSubfield
      else .error .resvField
  | 0x40 =>
    if Instr.scalarCompare (Reg.ofNum d) (Reg.ofNum a) (Reg.ofNum b) then .ok (.sceq sm (Reg.ofNum d) (Reg.ofNum a) (Reg.ofNum b))
    else .ok (.ceq sm (Reg.ofNum d) (Reg.ofNum a) (Reg.ofNum b))
  | 0x41 =>
    if Instr.scalarCompare (Reg.ofNum d) (Reg.ofNum a) (Reg.ofNum b) then .ok (.scne sm (Reg.ofNum d) (Reg.ofNum a) (Reg.ofNum b))
    else .ok (.cne sm (Reg.ofNum d) (Reg.ofNum a) (Reg.ofNum b))
  | 0x42 =>
    if Instr.scalarCompare (Reg.ofNum d) (Reg.ofNum a) (Reg.ofNum b) then .ok (.sclt sm (Reg.ofNum d) (Reg.ofNum a) (Reg.ofNum b))
    else .ok (.clt sm (Reg.ofNum d) (Reg.ofNum a) (Reg.ofNum b))
  | 0x43 =>
    if Instr.scalarCompare (Reg.ofNum d) (Reg.ofNum a) (Reg.ofNum b) then .ok (.scle sm (Reg.ofNum d) (Reg.ofNum a) (Reg.ofNum b))
    else .ok (.cle sm (Reg.ofNum d) (Reg.ofNum a) (Reg.ofNum b))
  | 0x44 =>
    if Instr.scalarCompare (Reg.ofNum d) (Reg.ofNum a) (Reg.ofNum b) then .ok (.scun sm (Reg.ofNum d) (Reg.ofNum a) (Reg.ofNum b))
    else .ok (.cun sm (Reg.ofNum d) (Reg.ofNum a) (Reg.ofNum b))
  | 0x45 => .ok (.mand sm (Reg.ofNum d) (Reg.ofNum a) (Reg.ofNum b))
  | 0x46 => .ok (.mor sm (Reg.ofNum d) (Reg.ofNum a) (Reg.ofNum b))
  | 0x47 => .ok (.mxor sm (Reg.ofNum d) (Reg.ofNum a) (Reg.ofNum b))
  | 0x48 =>
    match b.toNat with
    | 0 => .ok (.mnot sm (Reg.ofNum d) (Reg.ofNum a))
    | 1 => .ok (.msave sm (Reg.ofNum d) (Reg.ofNum a))
    | 2 => .ok (.mrest sm (Reg.ofNum d) (Reg.ofNum a))
    | 3 => .ok (.mpop sm (Reg.ofNum d) (Reg.ofNum a))
    | 4 => .ok (.mffs sm (Reg.ofNum d) (Reg.ofNum a))
    | 8 => .ok (.redadd sm (Reg.ofNum d) (Reg.ofNum a))
    | 9 => .ok (.redmin sm (Reg.ofNum d) (Reg.ofNum a))
    | 10 => .ok (.redmax sm (Reg.ofNum d) (Reg.ofNum a))
    | 11 => .ok (.scan sm (Reg.ofNum d) (Reg.ofNum a))
    | _ => .error .unassignedMinor
  | 0x49 => .ok (.shfl sm (Reg.ofNum d) (Reg.ofNum a) (Reg.ofNum b))
  | 0x4A =>
    match LanePat.ofNum (b.extractLsb' 5 3) with
    | some p => .ok (.shfi sm (Reg.ofNum d) (Reg.ofNum a) p (b.extractLsb' 0 5))
    | none => .error .reservedSubfield
  | 0x4B => .ok (.lsh sm (Reg.ofNum d) (Reg.ofNum a) (Reg.ofNum b))
  | 0x4C => .ok (.btl sm (Reg.ofNum d) (Reg.ofNum a) (Reg.ofNum b))
  | 0x4D => .ok (.btlh sm (Reg.ofNum d) (Reg.ofNum a) (Reg.ofNum b))
  | 0x4E => .ok (.dot8 sm (Reg.ofNum d) (Reg.ofNum a) (Reg.ofNum b))
  | 0x4F => .ok (.dot4 sm (Reg.ofNum d) (Reg.ofNum a) (Reg.ofNum b))
  | 0x50 => .ok (.ldb sm (Reg.ofNum d) (Reg.ofNum a) (Reg.ofNum b))
  | 0x51 => .ok (.ldh sm (Reg.ofNum d) (Reg.ofNum a) (Reg.ofNum b))
  | 0x52 => .ok (.ldw sm (Reg.ofNum d) (Reg.ofNum a) (Reg.ofNum b))
  | 0x53 => .ok (.ldd sm (Reg.ofNum d) (Reg.ofNum a) (Reg.ofNum b))
  | 0x54 => .ok (.ldq sm (Reg.ofNum d) (Reg.ofNum a) (Reg.ofNum b))
  | 0x55 => .ok (.stb sm (Reg.ofNum d) (Reg.ofNum a) (Reg.ofNum b))
  | 0x56 => .ok (.sth sm (Reg.ofNum d) (Reg.ofNum a) (Reg.ofNum b))
  | 0x57 => .ok (.stw sm (Reg.ofNum d) (Reg.ofNum a) (Reg.ofNum b))
  | 0x58 => .ok (.std sm (Reg.ofNum d) (Reg.ofNum a) (Reg.ofNum b))
  | 0x59 => .ok (.stq sm (Reg.ofNum d) (Reg.ofNum a) (Reg.ofNum b))
  | 0x5A =>
    match (b.extractLsb' 5 3).toNat with
    | 0 => .ok (.ldbImm sm (Reg.ofNum d) (Reg.ofNum a) (b.extractLsb' 0 5))
    | 1 => .ok (.ldhImm sm (Reg.ofNum d) (Reg.ofNum a) (b.extractLsb' 0 5))
    | 2 => .ok (.ldwImm sm (Reg.ofNum d) (Reg.ofNum a) (b.extractLsb' 0 5))
    | 3 => .ok (.lddImm sm (Reg.ofNum d) (Reg.ofNum a) (b.extractLsb' 0 5))
    | 4 => .ok (.ldqImm sm (Reg.ofNum d) (Reg.ofNum a) (b.extractLsb' 0 5))
    | _ => .error .reservedSubfield
  | 0x5B =>
    match (b.extractLsb' 5 3).toNat with
    | 0 => .ok (.stbImm sm (Reg.ofNum d) (Reg.ofNum a) (b.extractLsb' 0 5))
    | 1 => .ok (.sthImm sm (Reg.ofNum d) (Reg.ofNum a) (b.extractLsb' 0 5))
    | 2 => .ok (.stwImm sm (Reg.ofNum d) (Reg.ofNum a) (b.extractLsb' 0 5))
    | 3 => .ok (.stdImm sm (Reg.ofNum d) (Reg.ofNum a) (b.extractLsb' 0 5))
    | 4 => .ok (.stqImm sm (Reg.ofNum d) (Reg.ofNum a) (b.extractLsb' 0 5))
    | _ => .error .reservedSubfield
  | 0x5C => .ok (.lds sm (Reg.ofNum d) (Reg.ofNum a) (Reg.ofNum b))
  | 0x5D => .ok (.sts sm (Reg.ofNum d) (Reg.ofNum a) (Reg.ofNum b))
  | 0x60 =>
    match Scope.ofNum (b.extractLsb' 4 3) with
    | none => .error .reservedSubfield
    | some c =>
      match (b.extractLsb' 0 4).toNat, b.getLsbD 7 with
      | 0, false => .ok (.aadd sm (Reg.ofNum d) (Reg.ofNum a) c)
      | 0, true => .ok (.aaddR sm (Reg.ofNum d) (Reg.ofNum a) c)
      | 1, false => .ok (.amin sm (Reg.ofNum d) (Reg.ofNum a) c)
      | 1, true => .ok (.aminR sm (Reg.ofNum d) (Reg.ofNum a) c)
      | 2, false => .ok (.amax sm (Reg.ofNum d) (Reg.ofNum a) c)
      | 2, true => .ok (.amaxR sm (Reg.ofNum d) (Reg.ofNum a) c)
      | 3, false => .ok (.aand sm (Reg.ofNum d) (Reg.ofNum a) c)
      | 3, true => .ok (.aandR sm (Reg.ofNum d) (Reg.ofNum a) c)
      | 4, false => .ok (.aor sm (Reg.ofNum d) (Reg.ofNum a) c)
      | 4, true => .ok (.aorR sm (Reg.ofNum d) (Reg.ofNum a) c)
      | 5, false => .ok (.axor sm (Reg.ofNum d) (Reg.ofNum a) c)
      | 5, true => .ok (.axorR sm (Reg.ofNum d) (Reg.ofNum a) c)
      | 6, false => .ok (.axch sm (Reg.ofNum d) (Reg.ofNum a) c)
      | 6, true => .ok (.axchR sm (Reg.ofNum d) (Reg.ofNum a) c)
      | 7, false => .ok (.acas sm (Reg.ofNum d) (Reg.ofNum a) c)
      | 7, true => .ok (.acasR sm (Reg.ofNum d) (Reg.ofNum a) c)
      | 8, false => .ok (.afadd sm (Reg.ofNum d) (Reg.ofNum a) c)
      | 8, true => .ok (.afaddR sm (Reg.ofNum d) (Reg.ofNum a) c)
      | _, _ => .error .reservedSubfield
  | 0x61 =>
    match b.toNat with
    | 0 => .ok (.fwr sm (Reg.ofNum d) (Reg.ofNum a))
    | 1 => .ok (.frd sm (Reg.ofNum d) (Reg.ofNum a))
    | 2 => .ok (.frdC sm (Reg.ofNum d) (Reg.ofNum a))
    | _ => .error .unassignedMinor
  | 0x62 =>
    match b.toNat with
    | 0 => .ok (.rclaim sm (Reg.ofNum d) (Reg.ofNum a))
    | 1 => .ok (.rcommit sm (Reg.ofNum d) (Reg.ofNum a))
    | 2 => .ok (.rawait sm (Reg.ofNum d) (Reg.ofNum a))
    | 3 => .ok (.rretire sm (Reg.ofNum d) (Reg.ofNum a))
    | 4 => if d = 0#8 then .ok (.rbind sm (Reg.ofNum a)) else .error .resvField
    | _ => .error .unassignedMinor
  | 0x68 =>
    if b.extractLsb' 6 2 = 0#2 then .ok (.bar sm (Reg.ofNum d) (Reg.ofNum a) (b.extractLsb' 0 6)) else .error .resvField
  | 0x69 =>
    if b.extractLsb' 6 2 = 0#2 then .ok (.barar sm (Reg.ofNum d) (Reg.ofNum a) (b.extractLsb' 0 6)) else .error .resvField
  | 0x6A =>
    if d = 0#8 ∧ a = 0#8 ∧ b.extractLsb' 6 2 = 0#2 then .ok (.barw sm (b.extractLsb' 0 6)) else .error .resvField
  | 0x6B => .ok (.rwr sm (Reg.ofNum d) (Reg.ofNum a) (Reg.ofNum b))
  | 0x6C => if (a ++ b) ≠ 0#16 then .ok (.rwait sm (Reg.ofNum d) (a ++ b)) else .error .immediateRange
  | 0x6D =>
    match d.toNat with
    | 0 => if Instr.granulesLegal (a ++ b) then .ok (.give sm (a ++ b)) else .error .immediateRange
    | 1 => if Instr.granulesLegal (a ++ b) then .ok (.claim sm (a ++ b)) else .error .immediateRange
    | 2 => if a = 0#8 ∧ b = 0#8 then .ok (.bjoin sm) else .error .resvField
    | 3 => if a = 0#8 ∧ b = 0#8 then .ok (.bleave sm) else .error .resvField
    | _ => .error .unassignedMinor
  | 0x6E =>
    match d.toNat with
    | 0 => if a = 0#8 ∧ b.extractLsb' 3 5 = 0#5 then
      match Scope.ofNum (b.extractLsb' 0 3) with
      | some c => .ok (.acq sm c)
      | none => .error .reservedSubfield
      else .error .resvField
    | 1 => if a = 0#8 ∧ b.extractLsb' 3 5 = 0#5 then
      match Scope.ofNum (b.extractLsb' 0 3) with
      | some c => .ok (.rel sm c)
      | none => .error .reservedSubfield
      else .error .resvField
    | 2 => if a = 0#8 ∧ b.extractLsb' 3 5 = 0#5 then
      match Scope.ofNum (b.extractLsb' 0 3) with
      | some c => .ok (.fence sm c)
      | none => .error .reservedSubfield
      else .error .resvField
    | 3 => if a = 0#8 ∧ b.extractLsb' 3 5 = 0#5 then
      match Scope.ofNum (b.extractLsb' 0 3) with
      | some .chip => .ok (.fsc sm false)
      | some .sys => .ok (.fsc sm true)
      | some .gang | some .core | some .bent | none => .error .reservedSubfield
      else .error .resvField
    | 4 => if a = 0#8 ∧ b = 0#8 then .ok (.xfence sm) else .error .resvField
    | _ => .error .unassignedMinor
  | 0x70 =>
    match b.toNat with
    | 0 => if d = 0#8 then .ok (.tcfg sm (Reg.ofNum a)) else .error .resvField
    | _ => .error .resvField
  | 0x71 => .ok (.mma sm (Reg.ofNum d) (Reg.ofNum a) (Reg.ofNum b))
  | 0x72 => .ok (.mmc sm (Reg.ofNum d) (Reg.ofNum a) (Reg.ofNum b))
  | 0x73 =>
    match b.toNat with
    | 0 => .ok (.mzero sm (Reg.ofNum d) (Reg.ofNum a))
    | _ => .error .resvField
  | 0x74 =>
    match b.toNat with
    | 0 => .ok (.mfin sm (Reg.ofNum d) (Reg.ofNum a))
    | _ => .error .resvField
  | 0x78 => .ok (.tryBrace sm (Reg.ofNum d) (a ++ b))
  | 0x79 =>
    match b.toNat with
    | 0 => if d = 0#8 ∧ a = 0#8 then .ok (.fail sm) else .error .resvField
    | 1 => if a = 0#8 then .ok (.resume sm (Reg.ofNum d)) else .error .resvField
    | 2 => .ok (.cut sm (Reg.ofNum d) (Reg.ofNum a))
    | 3 => if d = 0#8 ∧ a = 0#8 then .ok (.steal sm) else .error .resvField
    | 4 => if d = 0#8 then .ok (.bset sm (Reg.ofNum a)) else .error .resvField
    | _ => .error .unassignedMinor
  | 0x7A =>
    match (b.extractLsb' 5 3).toNat with
    | 0 => .ok (.sttb sm (Reg.ofNum d) (Reg.ofNum a) (b.extractLsb' 0 5))
    | 1 => .ok (.stth sm (Reg.ofNum d) (Reg.ofNum a) (b.extractLsb' 0 5))
    | 2 => .ok (.stt sm (Reg.ofNum d) (Reg.ofNum a) (b.extractLsb' 0 5))
    | _ => .error .reservedSubfield
  | 0x7B =>
    match b.toNat with
    | 0 => .ok (.rmin sm (Reg.ofNum d) (Reg.ofNum a))
    | 1 => .ok (.rmax sm (Reg.ofNum d) (Reg.ofNum a))
    | 2 => .ok (.rrd sm (Reg.ofNum d) (Reg.ofNum a))
    | 3 => if a = 0#8 then .ok (.spawn sm (Reg.ofNum d)) else .error .resvField
    | _ => .error .unassignedMinor
  | 0x7C => .ok (.cpy sm (Reg.ofNum d) (Reg.ofNum a) (Reg.ofNum b))
  | 0x7D =>
    match b.toNat with
    | 0 => if d = 0#8 then .ok (.cwait sm (Reg.ofNum a)) else .error .resvField
    | _ => .error .resvField
  | 0x7E =>
    match b.toNat with
    | 0 => .ok (.qbind sm (Reg.ofNum d) (Reg.ofNum a))
    | 1 => .ok (.nwait sm (Reg.ofNum d) (Reg.ofNum a))
    | _ => .error .unassignedMinor
  | _ => .error .unassignedMajor

/-- The instruction of a 32-bit word (R74, R79 to R86). -/
def decode (w : Word) : Except Reject Instr :=
  decodeFields w.msb (w.extractLsb' 24 7).toNat (w.extractLsb' 16 8) (w.extractLsb' 8 8) (w.extractLsb' 0 8)

/-- A word from its four bytes, lowest address first (R7, R74). -/
def wordOfBytes (b0 b1 b2 b3 : Byte) : Word := b3 ++ b2 ++ b1 ++ b0

/-- The four bytes of a word, lowest address first (R7, R74). -/
def bytesOfWord (w : Word) : List Byte :=
  [w.extractLsb' 0 8, w.extractLsb' 8 8, w.extractLsb' 16 8, w.extractLsb' 24 8]

/-- The instruction at the front of a list of bytes, and the bytes that follow it. -/
def decodeBytes : List Byte → Except Reject (Instr × List Byte)
  | b0 :: b1 :: b2 :: b3 :: rest =>
    match decode (wordOfBytes b0 b1 b2 b3) with
    | .ok i => .ok (i, rest)
    | .error e => .error e
  | _ => .error .truncated

/-- The instruction of a word numbered as the opcode table numbers its bits. Every instruction of this part is one
32-bit word stored little-endian (R74). -/
def decodeTableWord (nbits w : Nat) : Option Instr :=
  match decodeBytes (bytesOfWord (BitVec.ofNat 32 (w % 2 ^ nbits))) with
  | .ok (i, []) => some i
  | _ => none

/-- A word put together from the fields S, OP, D, A and B (Table 3-7). -/
def wordOf (sm : Bool) (op : BitVec 7) (d a b : BitVec 8) : Word :=
  BitVec.ofBool sm ++ op ++ d ++ a ++ b

/-- A word of format RRR. -/
def encRRR (sm : Bool) (op : BitVec 7) (d a b : Reg) : Word := wordOf sm op d.num a.num b.num

/-- A word of format RRX or RRI, with its last field given. -/
def encRRX (sm : Bool) (op : BitVec 7) (d a : Reg) (x : BitVec 8) : Word := wordOf sm op d.num a.num x

/-- A word of format RI. -/
def encRI (sm : Bool) (op : BitVec 7) (d : Reg) (e : BitVec 16) : Word :=
  wordOf sm op d.num (e.extractLsb' 8 8) (e.extractLsb' 0 8)

/-- A word of format SYS. -/
def encSYS (sm : Bool) (op : BitVec 7) (x : BitVec 8) (e : BitVec 16) : Word :=
  wordOf sm op x (e.extractLsb' 8 8) (e.extractLsb' 0 8)

/-- A word of format J. -/
def encJ (sm : Bool) (op : BitVec 7) (o : BitVec 24) : Word :=
  wordOf sm op (o.extractLsb' 16 8) (o.extractLsb' 8 8) (o.extractLsb' 0 8)

/-- X of the atomic group (Table 3-9): return form, scope, operation. -/
def atomX (ret : Bool) (c : Scope) (o : BitVec 4) : BitVec 8 := BitVec.ofBool ret ++ c.num ++ o

/-- The word of an instruction; an event of the part has none. -/
def encode : Instr → Option Word
  | .nop sm => some (encSYS sm 0x00#7 0x00#8 0#16)
  | .br sm o => some (encJ sm 0x01#7 o)
  | .brz sm d e => some (encRI sm 0x02#7 d e)
  | .brnz sm d e => some (encRI sm 0x03#7 d e)
  | .call sm o => some (encJ sm 0x04#7 o)
  | .ret sm => some (wordOf sm 0x05#7 0x00#8 0x00#8 0x00#8)
  | .jr sm d a => some (encRRX sm 0x06#7 d a 0x00#8)
  | .part sm d a => some (encRRX sm 0x07#7 d a 0x00#8)
  | .regang sm => some (encSYS sm 0x08#7 0x00#8 0#16)
  | .yield sm d e => some (encRI sm 0x09#7 d e)
  | .exit sm => some (encSYS sm 0x0A#7 0x00#8 0#16)
  | .setm sm e => some (encSYS sm 0x0B#7 0x00#8 e)
  | .trap sm e => some (encSYS sm 0x0B#7 0x01#8 e)
  | .tret sm => some (encSYS sm 0x0B#7 0x02#8 0#16)
  | .sysc sm e => some (encSYS sm 0x0B#7 0x03#8 e)
  | .rdsr sm d e => some (encRI sm 0x0C#7 d e)
  | .wrsr sm d e => some (encRI sm 0x0D#7 d e)
  | .add sm d a b => some (encRRR sm 0x10#7 d a b)
  | .sub sm d a b => some (encRRR sm 0x11#7 d a b)
  | .mul sm d a b => some (encRRR sm 0x12#7 d a b)
  | .mulh sm d a b => some (encRRR sm 0x13#7 d a b)
  | .and sm d a b => some (encRRR sm 0x14#7 d a b)
  | .or sm d a b => some (encRRR sm 0x15#7 d a b)
  | .xor sm d a b => some (encRRR sm 0x16#7 d a b)
  | .shl sm d a b => some (encRRR sm 0x17#7 d a b)
  | .shr sm d a b => some (encRRR sm 0x18#7 d a b)
  | .sar sm d a b => some (encRRR sm 0x19#7 d a b)
  | .rot sm d a b => some (encRRR sm 0x1A#7 d a b)
  | .min sm d a b => some (encRRR sm 0x1B#7 d a b)
  | .max sm d a b => some (encRRR sm 0x1C#7 d a b)
  | .sel sm d a b => some (encRRR sm 0x1D#7 d a b)
  | .mov sm d a => some (encRRX sm 0x1E#7 d a 0x00#8)
  | .queuePush sm d a => some (encRRX sm 0x1E#7 d a 0x00#8)
  | .queuePop sm d a => some (encRRX sm 0x1E#7 d a 0x00#8)
  | .popc sm d a => some (encRRX sm 0x1E#7 d a 0x01#8)
  | .clz sm d a => some (encRRX sm 0x1E#7 d a 0x02#8)
  | .ffs sm d a => some (encRRX sm 0x1E#7 d a 0x03#8)
  | .rget sm d a => some (encRRX sm 0x1F#7 d a 0x00#8)
  | .rput sm d a => some (encRRX sm 0x1F#7 d a 0x01#8)
  | .li sm d e => some (encRI sm 0x20#7 d e)
  | .lih sm d e => some (encRI sm 0x21#7 d e)
  | .addImm sm d a e => some (encRRX sm 0x22#7 d a e)
  | .mulImm sm d a e => some (encRRX sm 0x23#7 d a e)
  | .andImm sm d a e => some (encRRX sm 0x24#7 d a e)
  | .orImm sm d a e => some (encRRX sm 0x25#7 d a e)
  | .xorImm sm d a e => some (encRRX sm 0x26#7 d a e)
  | .shlImm sm d a e => some (encRRX sm 0x27#7 d a (0#2 ++ e))
  | .shrImm sm d a e => some (encRRX sm 0x28#7 d a (0#2 ++ e))
  | .sarImm sm d a e => some (encRRX sm 0x29#7 d a (0#2 ++ e))
  | .rotImm sm d a e => some (encRRX sm 0x2A#7 d a (0#2 ++ e))
  | .minImm sm d a e => some (encRRX sm 0x2B#7 d a e)
  | .maxImm sm d a e => some (encRRX sm 0x2C#7 d a e)
  | .fadd sm d a b => some (encRRR sm 0x30#7 d a b)
  | .fsub sm d a b => some (encRRR sm 0x31#7 d a b)
  | .fmul sm d a b => some (encRRR sm 0x32#7 d a b)
  | .fma sm d a b => some (encRRR sm 0x33#7 d a b)
  | .fms sm d a b => some (encRRR sm 0x34#7 d a b)
  | .fmin sm d a b => some (encRRR sm 0x35#7 d a b)
  | .fmax sm d a b => some (encRRR sm 0x36#7 d a b)
  | .div sm d a b => some (encRRR sm 0x37#7 d a b)
  | .fneg sm d a => some (encRRX sm 0x38#7 d a 0x00#8)
  | .fabs sm d a => some (encRRX sm 0x38#7 d a 0x01#8)
  | .sqrt sm d a => some (encRRX sm 0x38#7 d a 0x02#8)
  | .rcp sm d a => some (encRRX sm 0x38#7 d a 0x03#8)
  | .rsqrt sm d a => some (encRRX sm 0x38#7 d a 0x04#8)
  | .cvt sm d a t => some (encRRX sm 0x39#7 d a (0#4 ++ t.num))
  | .ceq sm d a b => some (encRRR sm 0x40#7 d a b)
  | .cne sm d a b => some (encRRR sm 0x41#7 d a b)
  | .clt sm d a b => some (encRRR sm 0x42#7 d a b)
  | .cle sm d a b => some (encRRR sm 0x43#7 d a b)
  | .cun sm d a b => some (encRRR sm 0x44#7 d a b)
  | .sceq sm d a b => some (encRRR sm 0x40#7 d a b)
  | .scne sm d a b => some (encRRR sm 0x41#7 d a b)
  | .sclt sm d a b => some (encRRR sm 0x42#7 d a b)
  | .scle sm d a b => some (encRRR sm 0x43#7 d a b)
  | .scun sm d a b => some (encRRR sm 0x44#7 d a b)
  | .mand sm d a b => some (encRRR sm 0x45#7 d a b)
  | .mor sm d a b => some (encRRR sm 0x46#7 d a b)
  | .mxor sm d a b => some (encRRR sm 0x47#7 d a b)
  | .mnot sm d a => some (encRRX sm 0x48#7 d a 0x00#8)
  | .msave sm d a => some (encRRX sm 0x48#7 d a 0x01#8)
  | .mrest sm d a => some (encRRX sm 0x48#7 d a 0x02#8)
  | .mpop sm d a => some (encRRX sm 0x48#7 d a 0x03#8)
  | .mffs sm d a => some (encRRX sm 0x48#7 d a 0x04#8)
  | .redadd sm d a => some (encRRX sm 0x48#7 d a 0x08#8)
  | .redmin sm d a => some (encRRX sm 0x48#7 d a 0x09#8)
  | .redmax sm d a => some (encRRX sm 0x48#7 d a 0x0A#8)
  | .scan sm d a => some (encRRX sm 0x48#7 d a 0x0B#8)
  | .shfl sm d a b => some (encRRR sm 0x49#7 d a b)
  | .shfi sm d a p k => some (encRRX sm 0x4A#7 d a (p.num ++ k))
  | .lsh sm d a b => some (encRRR sm 0x4B#7 d a b)
  | .btl sm d a b => some (encRRR sm 0x4C#7 d a b)
  | .btlh sm d a b => some (encRRR sm 0x4D#7 d a b)
  | .dot8 sm d a b => some (encRRR sm 0x4E#7 d a b)
  | .dot4 sm d a b => some (encRRR sm 0x4F#7 d a b)
  | .ldb sm d a b => some (encRRR sm 0x50#7 d a b)
  | .ldh sm d a b => some (encRRR sm 0x51#7 d a b)
  | .ldw sm d a b => some (encRRR sm 0x52#7 d a b)
  | .ldd sm d a b => some (encRRR sm 0x53#7 d a b)
  | .ldq sm d a b => some (encRRR sm 0x54#7 d a b)
  | .stb sm d a b => some (encRRR sm 0x55#7 d a b)
  | .sth sm d a b => some (encRRR sm 0x56#7 d a b)
  | .stw sm d a b => some (encRRR sm 0x57#7 d a b)
  | .std sm d a b => some (encRRR sm 0x58#7 d a b)
  | .stq sm d a b => some (encRRR sm 0x59#7 d a b)
  | .ldbImm sm d a o => some (encRRX sm 0x5A#7 d a (0#3 ++ o))
  | .ldhImm sm d a o => some (encRRX sm 0x5A#7 d a (1#3 ++ o))
  | .ldwImm sm d a o => some (encRRX sm 0x5A#7 d a (2#3 ++ o))
  | .lddImm sm d a o => some (encRRX sm 0x5A#7 d a (3#3 ++ o))
  | .ldqImm sm d a o => some (encRRX sm 0x5A#7 d a (4#3 ++ o))
  | .stbImm sm d a o => some (encRRX sm 0x5B#7 d a (0#3 ++ o))
  | .sthImm sm d a o => some (encRRX sm 0x5B#7 d a (1#3 ++ o))
  | .stwImm sm d a o => some (encRRX sm 0x5B#7 d a (2#3 ++ o))
  | .stdImm sm d a o => some (encRRX sm 0x5B#7 d a (3#3 ++ o))
  | .stqImm sm d a o => some (encRRX sm 0x5B#7 d a (4#3 ++ o))
  | .lds sm d a b => some (encRRR sm 0x5C#7 d a b)
  | .sts sm d a b => some (encRRR sm 0x5D#7 d a b)
  | .aadd sm d a c => some (encRRX sm 0x60#7 d a (atomX false c 0#4))
  | .aaddR sm d a c => some (encRRX sm 0x60#7 d a (atomX true c 0#4))
  | .amin sm d a c => some (encRRX sm 0x60#7 d a (atomX false c 1#4))
  | .aminR sm d a c => some (encRRX sm 0x60#7 d a (atomX true c 1#4))
  | .amax sm d a c => some (encRRX sm 0x60#7 d a (atomX false c 2#4))
  | .amaxR sm d a c => some (encRRX sm 0x60#7 d a (atomX true c 2#4))
  | .aand sm d a c => some (encRRX sm 0x60#7 d a (atomX false c 3#4))
  | .aandR sm d a c => some (encRRX sm 0x60#7 d a (atomX true c 3#4))
  | .aor sm d a c => some (encRRX sm 0x60#7 d a (atomX false c 4#4))
  | .aorR sm d a c => some (encRRX sm 0x60#7 d a (atomX true c 4#4))
  | .axor sm d a c => some (encRRX sm 0x60#7 d a (atomX false c 5#4))
  | .axorR sm d a c => some (encRRX sm 0x60#7 d a (atomX true c 5#4))
  | .axch sm d a c => some (encRRX sm 0x60#7 d a (atomX false c 6#4))
  | .axchR sm d a c => some (encRRX sm 0x60#7 d a (atomX true c 6#4))
  | .acas sm d a c => some (encRRX sm 0x60#7 d a (atomX false c 7#4))
  | .acasR sm d a c => some (encRRX sm 0x60#7 d a (atomX true c 7#4))
  | .afadd sm d a c => some (encRRX sm 0x60#7 d a (atomX false c 8#4))
  | .afaddR sm d a c => some (encRRX sm 0x60#7 d a (atomX true c 8#4))
  | .fwr sm d a => some (encRRX sm 0x61#7 d a 0x00#8)
  | .frd sm d a => some (encRRX sm 0x61#7 d a 0x01#8)
  | .frdC sm d a => some (encRRX sm 0x61#7 d a 0x02#8)
  | .rclaim sm d a => some (encRRX sm 0x62#7 d a 0x00#8)
  | .rcommit sm d a => some (encRRX sm 0x62#7 d a 0x01#8)
  | .rawait sm d a => some (encRRX sm 0x62#7 d a 0x02#8)
  | .rretire sm d a => some (encRRX sm 0x62#7 d a 0x03#8)
  | .rbind sm a => some (wordOf sm 0x62#7 0x00#8 a.num 0x04#8)
  | .bar sm d a n => some (encRRX sm 0x68#7 d a (0#2 ++ n))
  | .barar sm d a n => some (encRRX sm 0x69#7 d a (0#2 ++ n))
  | .barw sm n => some (wordOf sm 0x6A#7 0x00#8 0x00#8 (0#2 ++ n))
  | .rwr sm d a b => some (encRRR sm 0x6B#7 d a b)
  | .rwait sm d e => some (encRI sm 0x6C#7 d e)
  | .give sm e => some (encSYS sm 0x6D#7 0x00#8 e)
  | .claim sm e => some (encSYS sm 0x6D#7 0x01#8 e)
  | .bjoin sm => some (encSYS sm 0x6D#7 0x02#8 0#16)
  | .bleave sm => some (encSYS sm 0x6D#7 0x03#8 0#16)
  | .acq sm c => some (encSYS sm 0x6E#7 0x00#8 (0#13 ++ c.num))
  | .rel sm c => some (encSYS sm 0x6E#7 0x01#8 (0#13 ++ c.num))
  | .fence sm c => some (encSYS sm 0x6E#7 0x02#8 (0#13 ++ c.num))
  | .fsc sm sys => some (encSYS sm 0x6E#7 0x03#8 (0#13 ++ (if sys then Scope.sys else Scope.chip).num))
  | .xfence sm => some (encSYS sm 0x6E#7 0x04#8 0#16)
  | .tcfg sm a => some (wordOf sm 0x70#7 0x00#8 a.num 0x00#8)
  | .mma sm d a b => some (encRRR sm 0x71#7 d a b)
  | .mmc sm d a b => some (encRRR sm 0x72#7 d a b)
  | .mzero sm d a => some (encRRX sm 0x73#7 d a 0x00#8)
  | .mfin sm d a => some (encRRX sm 0x74#7 d a 0x00#8)
  | .tryBrace sm d e => some (encRI sm 0x78#7 d e)
  | .fail sm => some (wordOf sm 0x79#7 0x00#8 0x00#8 0x00#8)
  | .resume sm d => some (wordOf sm 0x79#7 d.num 0x00#8 0x01#8)
  | .cut sm d a => some (encRRX sm 0x79#7 d a 0x02#8)
  | .steal sm => some (wordOf sm 0x79#7 0x00#8 0x00#8 0x03#8)
  | .bset sm a => some (wordOf sm 0x79#7 0x00#8 a.num 0x04#8)
  | .sttb sm d a o => some (encRRX sm 0x7A#7 d a (0#3 ++ o))
  | .stth sm d a o => some (encRRX sm 0x7A#7 d a (1#3 ++ o))
  | .stt sm d a o => some (encRRX sm 0x7A#7 d a (2#3 ++ o))
  | .rmin sm d a => some (encRRX sm 0x7B#7 d a 0x00#8)
  | .rmax sm d a => some (encRRX sm 0x7B#7 d a 0x01#8)
  | .rrd sm d a => some (encRRX sm 0x7B#7 d a 0x02#8)
  | .spawn sm d => some (wordOf sm 0x7B#7 d.num 0x00#8 0x03#8)
  | .cpy sm d a b => some (encRRR sm 0x7C#7 d a b)
  | .cwait sm a => some (wordOf sm 0x7D#7 0x00#8 a.num 0x00#8)
  | .qbind sm d a => some (encRRX sm 0x7E#7 d a 0x00#8)
  | .nwait sm d a => some (encRRX sm 0x7E#7 d a 0x01#8)
  | .watchdogExpiry => none
  | .resultDelivery _ _ _ => none
  | .instructionFetchFault _ _ => none
  | .faultReplay _ _ _ => none
  | .faultDeliver _ _ => none
  | .syscAnswer _ _ _ _ => none
  | .barrierTimeout _ _ => none
  | .claimServe _ => none
  | .storeAcknowledge _ _ _ => none
  | .gangRetire _ => none
  | .placeGroup => none
  | .placeFrame => none
  | .waitEventTest _ _ _ => none
  | .homeLoad _ _ _ => none
  | .homeStore _ _ _ => none
  | .homeAtomic _ _ _ => none
  | .homeFutureWrite _ _ _ => none
  | .homeFutureRead _ _ _ => none
  | .homeRingClaim _ _ _ => none
  | .homeRingCommit _ _ _ => none
  | .ringRequestResend _ _ _ => none
  | .homeRemoteWrite _ _ => none
  | .homeCounterWait _ _ _ => none
  | .quadTimeout _ _ => none
  | .matrixComplete _ _ => none
  | .fscStrikeEdge _ _ => none
  | .copyEngineRun _ _ _ _ => none
  | .copyComplete _ _ => none
  | .gatherRun _ _ _ => none
  | .gatherComplete _ _ => none
  | .engineFaultMap _ _ _ => none
  | .engineFaultDecline _ _ => none
  | .tableWalkComplete _ _ _ => none
  | .tlbInvalidate _ _ => none
  | .ridgeOfferAccept _ => none
  | .ridgeCopyUpdate _ => none
  | .ridgeConfigure _ _ _ => none
  | .taskAccept _ _ _ => none
  | .taskRemoval _ => none
  | .launchQueueConfigure _ _ _ _ _ => none
  | .carveOutGrant _ _ => none
  | .chipStrike => none
  | .contextStart _ => none
  | .contextPreempt _ => none
  | .groupSave _ => none
  | .drainComplete _ => none
  | .drainDeadline _ => none
  | .contextSwitchIn _ => none
  | .contextKill _ => none
  | .reclaimComplete _ => none
  | .powerSample _ _ => none
  | .sensorTakeBack _ => none
  | .drawWindowClose _ => none
  | .functionLevelReset => none
  | .linkRetrain _ _ => none
  | .attachRequest => none
  | .detachRequest => none
  | .acceptWrite _ => none
  | .qtailDoorbell _ _ _ => none
  | .queueConfigWrite _ _ _ => none
  | .completionConfigWrite _ _ => none
  | .cheadWrite _ _ => none
  | .bar0RegisterWrite _ _ => none
  | .hostRecordTake _ _ _ => none
  | .hostCopy _ _ => none
  | .completionRecordWrite _ => none
  | .netPuti _ _ => none
  | .netPutm _ _ => none
  | .netGet _ _ _ => none
  | .netExch _ _ _ => none
  | .netPacketReceive _ => none
  | .netAckReceive _ _ => none
  | .netRefusalReceive _ _ => none
  | .netRetransmitTimeout _ => none
  | .netPacketExpiry _ => none
  | .roleChange _ _ => none
  | .roleChangeReconfigure _ => none
  | .roleChangeAbandon => none
  | .coolantCheck _ _ => none
  | .coolingClassChange => none
  | .uncorrectableError _ => none
  | .hbmScrub _ => none
  | .l2Scrub _ => none
  | .thermalTrip => none
  | .moduleReset => none
  | .dyrokWatchdog => none
  | .boot _ => none
  | .bootTimeout => none
  | .firmwareUpdate _ => none
  | .spdmRequest _ => none
  | .pldmMonitorRequest _ => none
  | .undecodableWord _ => none
  | .fabricPortLinkChange _ _ => none
  | .ptpSyncChange _ _ => none
  | .fabricJobJoin _ _ => none
  | .contextCreate _ _ => none

end Sys2Proof
end

