-- ==== Sys2Proof/Machine/Float.lean ====
section
/-! DEFINITION. Number formats and arithmetic (05): values on paper, `Round` (R114 to R120), conversions (R121 to R123),
typed operations (R124, R125). -/

namespace Sys2Proof.Machine

/-- A value on paper: NaN, an infinity, or the signed dyadic number (-1)^neg x m x 2^e; m = 0 is a zero with a sign. -/
inductive FV where
  | nan
  | inf (neg : Bool)
  | fin (neg : Bool) (m : Nat) (e : Int)
deriving DecidableEq, Repr

/-- A floating-point format of Table 5-2. -/
structure Fmt where
  ebits : Nat
  mbits : Nat
  bias  : Nat
  /-- Infinities exist. -/
  infs  : Bool
  /-- NaN codes exist. -/
  nans  : Bool
  /-- FLUSH applies to it (R117). -/
  flush : Bool
  /-- Largest finite code. -/
  maxCode : Nat
  /-- Canonical NaN. -/
  nanCode : Nat
deriving DecidableEq, Repr

def fp32 : Fmt := ⟨8, 23, 127, true, true, true, 0x7F7FFFFF, 0x7FC00000⟩
def fp64 : Fmt := ⟨11, 52, 1023, true, true, true, 0x7FEFFFFFFFFFFFFF, 0x7FF8000000000000⟩
def fp16 : Fmt := ⟨5, 10, 15, true, true, true, 0x7BFF, 0x7E00⟩
def bf16 : Fmt := ⟨8, 7, 127, true, true, true, 0x7F7F, 0x7FC0⟩
def e4m3 : Fmt := ⟨4, 3, 7, false, true, false, 0x7E, 0x7F⟩
def e5m2 : Fmt := ⟨5, 2, 15, true, true, false, 0x7B, 0x7E⟩
def e2m1 : Fmt := ⟨2, 1, 1, false, false, false, 0x7, 0x0⟩

/-- Bits of a code. -/
def Fmt.bits (f : Fmt) : Nat := 1 + f.ebits + f.mbits

end Sys2Proof.Machine

namespace Sys2Proof

open Machine

/-- The floating-point format of a type; CF32 has parts in FP32 (R107). -/
def EType.fmt : EType → Option Fmt
  | .fp32 => some Machine.fp32
  | .fp64 => some Machine.fp64
  | .fp16 => some Machine.fp16
  | .bf16 => some Machine.bf16
  | .e4m3 => some Machine.e4m3
  | .e5m2 => some Machine.e5m2
  | .e2m1 => some Machine.e2m1
  | .cf32 => some Machine.fp32
  | .i32 | .n32 | .i8 | .n8 | .i4 | .n4 => none

/-- Width and signedness of an integer type (Table 5-1). -/
def EType.int : EType → Option (Nat × Bool)
  | .i32 => some (32, true)
  | .n32 => some (32, false)
  | .i8 => some (8, true)
  | .n8 => some (8, false)
  | .i4 => some (4, true)
  | .n4 => some (4, false)
  | .fp32 | .fp64 | .fp16 | .bf16 | .e4m3 | .e5m2 | .e2m1 | .cf32 => none

/-- The types whose integer operations are unsigned (03 R72). -/
def EType.unsigned : EType → Bool
  | .n32 | .n8 | .n4 => true
  | .fp32 | .fp64 | .fp16 | .bf16 | .e4m3 | .e5m2 | .e2m1 | .cf32 | .i32 | .i8 | .i4 => false

end Sys2Proof

namespace Sys2Proof.Machine

/-- The value of a code (R103, R104). Bits above the format's width are ignored (R109). -/
def Fmt.value (f : Fmt) (code : Nat) : FV :=
  let c := code % 2 ^ f.bits
  let neg := decide (2 ^ (f.ebits + f.mbits) ≤ c)
  let e := c / 2 ^ f.mbits % 2 ^ f.ebits
  let m := c % 2 ^ f.mbits
  if e = 2 ^ f.ebits - 1 && f.infs then
    if m = 0 then .inf neg else .nan
  else if f.nans && !f.infs && c % 2 ^ (f.ebits + f.mbits) = f.nanCode then .nan
  else if e = 0 then .fin neg m (1 - (f.bias : Int) - f.mbits)
  else .fin neg (2 ^ f.mbits + m) ((e : Int) - f.bias - f.mbits)

/-- An operand as read under FLUSH: a subnormal of a flushed format reads as a zero of its sign (R117). -/
def Fmt.operand (f : Fmt) (flush : Bool) (code : Nat) : FV :=
  match f.value code with
  | .nan => .nan
  | .inf n => .inf n
  | .fin n m e => if flush && f.flush && decide (m < 2 ^ f.mbits) then .fin n 0 e else .fin n m e

/-- The sign bit of a format. -/
def Fmt.signBit (f : Fmt) (neg : Bool) : Nat := if neg then 2 ^ (f.ebits + f.mbits) else 0

/-- Whether a magnitude is rounded away from zero, from its remainder r below 2^s and the last bit kept (R114 step 4). -/
def roundsUp (rm : RMode) (neg odd : Bool) (r s : Nat) : Bool :=
  match rm with
  | .rne => decide (2 ^ s < 2 * r) || (decide (2 * r = 2 ^ s) && odd)
  | .rna => decide (2 ^ s ≤ 2 * r)
  | .rtz => false
  | .rdn => neg && decide (r ≠ 0)
  | .rup => !neg && decide (r ≠ 0)

/-- m x 2^e as a multiple of 2^q, rounded to an integer multiple, and whether it was exact. -/
def roundTo (rm : RMode) (neg : Bool) (m : Nat) (e q : Int) : Nat × Bool :=
  if q ≤ e then (m * 2 ^ (e - q).toNat, true)
  else
    let s := (q - e).toNat
    let n := m / 2 ^ s
    let r := m % 2 ^ s
    ((if roundsUp rm neg (n % 2 = 1) r s then n + 1 else n), decide (r = 0))

/-- The result of an overflow (R115, Table 5-5), as a code. -/
def Fmt.overflow (f : Fmt) (rm : RMode) (sat neg : Bool) : Nat :=
  let max := f.maxCode + f.signBit neg
  let toInf : Bool := match rm with
    | .rne | .rna => true
    | .rtz => false
    | .rdn => neg
    | .rup => !neg
  if sat || !toInf then max
  else if f.infs then (2 ^ f.ebits - 1) * 2 ^ f.mbits + f.signBit neg
  else if f.nans then f.nanCode + f.signBit neg
  else max

/-- `Round` of a nonzero finite value (R114 steps 4 to 7), with whether the delivered value differs from it. -/
def Fmt.roundFin (f : Fmt) (rm : RMode) (sat flush neg : Bool) (m : Nat) (e : Int) : Nat × Bool :=
  let top : Int := e + Nat.log2 m
  let emin : Int := 1 - (f.bias : Int)
  let q : Int := max top emin - f.mbits
  let (n, exact) := roundTo rm neg m e q
  let (n, q) := if n = 2 ^ (f.mbits + 1) then (2 ^ f.mbits, q + 1) else (n, q)
  if n < 2 ^ f.mbits then
    if flush && f.flush && decide (n ≠ 0) then (f.signBit neg, true)
    else if n = 0 && !f.nans then (0, !exact)
    else (n + f.signBit neg, !exact)
  else
    let ef : Int := q + f.mbits + f.bias
    let code := ef.toNat * 2 ^ f.mbits + (n - 2 ^ f.mbits)
    if code > f.maxCode then (f.overflow rm sat neg, true) else (code + f.signBit neg, !exact)

/-- `Round(x, fmt, rm)` (R114 to R118), and whether the delivered value differs from x (R120). An exact infinity that E4M3
without SAT delivers as NaN sets INEXACT: R120 both sets it where the value differs and leaves it at a NaN delivered in a format
that has NaN (DESIGN CHOICE, log 37). -/
def Fmt.round (f : Fmt) (rm : RMode) (sat flush : Bool) : FV → Nat × Bool
  | .nan => (f.nanCode, !f.nans)
  | .inf neg =>
    if f.infs then ((2 ^ f.ebits - 1) * 2 ^ f.mbits + f.signBit neg, false)
    else if f.nans then
      if sat then (f.maxCode + f.signBit neg, true) else (f.nanCode + f.signBit neg, true)
    else (f.maxCode + f.signBit neg, true)
  | .fin neg m e =>
    if m = 0 then (if f.nans then f.signBit neg else 0, false) else f.roundFin rm sat flush neg m e

/-! ## Exact operations -/

/-- Negation. -/
def FV.neg : FV → FV
  | .nan => .nan
  | .inf n => .inf !n
  | .fin n m e => .fin (!n) m e

/-- The exact product (R118, R119). -/
def FV.mul : FV → FV → FV
  | .nan, _ => .nan
  | _, .nan => .nan
  | .inf a, .inf b => .inf (a != b)
  | .inf a, .fin b m _ => if m = 0 then .nan else .inf (a != b)
  | .fin a m _, .inf b => if m = 0 then .nan else .inf (a != b)
  | .fin a m e, .fin b n f => .fin (a != b) (m * n) (e + f)

/-- The signed integer of a finite value at exponent q, q at most its own. -/
def scaled (neg : Bool) (m : Nat) (e q : Int) : Int :=
  let v : Int := (m * 2 ^ (e - q).toNat : Nat)
  if neg then -v else v

/-- The exact sum; an exact zero has the sign of R119 under the rounding mode. -/
def FV.add (rm : RMode) : FV → FV → FV
  | .nan, _ => .nan
  | _, .nan => .nan
  | .inf a, .inf b => if a = b then .inf a else .nan
  | .inf a, .fin _ _ _ => .inf a
  | .fin _ _ _, .inf b => .inf b
  | .fin a m e, .fin b n f =>
    if m = 0 && n = 0 then .fin (if a = b then a else decide (rm = .rdn)) 0 0
    else
      let q := min e f
      let v := scaled a m e q + scaled b n f q
      if v = 0 then .fin (decide (rm = .rdn)) 0 0 else .fin (decide (v < 0)) v.natAbs q

/-- Extra quotient and root bits, more than any format needs. -/
def guardBits : Nat := 64

/-- The quotient (R125), to `guardBits` bits and a last bit that is 1 when it is not exact. -/
def FV.div : FV → FV → FV
  | .nan, _ => .nan
  | _, .nan => .nan
  | .inf _, .inf _ => .nan
  | .inf a, .fin b _ _ => .inf (a != b)
  | .fin a _ _, .inf b => .fin (a != b) 0 0
  | .fin a m e, .fin b n f =>
    if n = 0 then (if m = 0 then .nan else .inf (a != b))
    else if m = 0 then .fin (a != b) 0 0
    else
      let k := guardBits + Nat.log2 n + 2
      let x := m * 2 ^ k
      .fin (a != b) (2 * (x / n) + (if x % n = 0 then 0 else 1)) (e - f - k - 1)

/-- The integer square root, by its bits from bit i downward. -/
def isqrtBits (n : Nat) : Nat → Nat → Nat
  | 0, r => r
  | i + 1, r => isqrtBits n i (if (r + 2 ^ i) * (r + 2 ^ i) ≤ n then r + 2 ^ i else r)

/-- The integer square root. -/
def isqrt (n : Nat) : Nat := isqrtBits n (Nat.log2 n / 2 + 1) 0

/-- The square root (R118, R119, R125). -/
def FV.sqrt : FV → FV
  | .nan => .nan
  | .inf n => if n then .nan else .inf false
  | .fin n m e =>
    if m = 0 then .fin n 0 0
    else if n then .nan
    else
      let k := 2 * guardBits + (if (e % 2 = 0) then 0 else 1)
      let x := m * 2 ^ k
      let r := isqrt x
      .fin false (2 * r + (if r * r = x then 0 else 1)) ((e - k) / 2 - 1)

/-- The value 1. -/
def FV.one : FV := .fin false 1 0

/-- The reciprocal (R125). -/
def FV.rcp (x : FV) : FV := FV.div FV.one x

/-- The reciprocal square root (R118, R125). -/
def FV.rsqrt : FV → FV
  | .nan => .nan
  | .inf n => if n then .nan else .fin false 0 0
  | .fin n m e =>
    if m = 0 then .inf n
    else if n then .nan
    else
      let k0 := 2 * guardBits + 2 * (Nat.log2 m + 1)
      let k := k0 + (if (e % 2 = 0) then 0 else 1)
      let r := isqrt (2 ^ k / m)
      .fin false (2 * r + (if r * r * m = 2 ^ k then 0 else 1)) ((-e - k) / 2 - 1)

/-- Comparison of two values that are not NaN; both zeros are equal (07 Table 7-7). -/
def FV.compare : FV → FV → Ordering
  | .nan, _ => .eq
  | _, .nan => .eq
  | .inf a, .inf b => if a = b then .eq else if a then .lt else .gt
  | .inf a, .fin _ _ _ => if a then .lt else .gt
  | .fin _ _ _, .inf b => if b then .gt else .lt
  | .fin a m e, .fin b n f =>
    let q := min e f
    let x := scaled a m e q
    let y := scaled b n f q
    if x < y then .lt else if x = y then .eq else .gt

/-- Whether a value is NaN. -/
def FV.isNan : FV → Bool
  | .nan => true
  | .inf _ | .fin _ _ _ => false

/-- Whether a value is NaN or infinite. -/
def FV.special : FV → Bool
  | .nan | .inf _ => true
  | .fin _ _ _ => false

/-! ## Conversions (R121 to R123) -/

/-- Rounds a finite value to an integer, with whether it was exact (R122). -/
def intRound (rm : RMode) (neg : Bool) (m : Nat) (e : Int) : Int × Bool :=
  let (n, exact) := roundTo rm neg m e 0
  ((if neg then -(n : Int) else n), exact)

/-- Least and greatest values of an integer type (Table 5-1). -/
def intRange (w : Nat) (signed : Bool) : Int × Int :=
  if signed then (-(2 ^ (w - 1) : Int), 2 ^ (w - 1) - 1) else (0, 2 ^ w - 1)

/-- The code of an integer in a type of width w. -/
def intCode (w : Nat) (x : Int) : Nat := (x % (2 ^ w : Int)).toNat

/-- The integer indefinite of R122. -/
def intIndef (w : Nat) (signed : Bool) : Nat := if signed then 2 ^ (w - 1) else 2 ^ w - 1

/-- A floating-point value to an integer type (R122), with INEXACT (R120). -/
def fvToInt (rm : RMode) (sat : Bool) (w : Nat) (signed : Bool) : FV → Nat × Bool
  | .nan => (if sat then 0 else intIndef w signed, true)
  | .inf neg =>
    let (lo, hi) := intRange w signed
    (if sat then intCode w (if neg then lo else hi) else intIndef w signed, true)
  | .fin neg m e =>
    let (x, exact) := intRound rm neg m e
    let (lo, hi) := intRange w signed
    if lo ≤ x ∧ x ≤ hi then (intCode w x, !exact)
    else (if sat then intCode w (if x < lo then lo else hi) else intIndef w signed, true)

/-- An integer to an integer type (R123), with INEXACT (R120). -/
def intToInt (sat : Bool) (w : Nat) (signed : Bool) (x : Int) : Nat × Bool :=
  let (lo, hi) := intRange w signed
  if lo ≤ x ∧ x ≤ hi then (intCode w x, false)
  else (if sat then intCode w (if x < lo then lo else hi) else intCode w x, true)

/-- The value of an integer code of a type. -/
def intValue (w : Nat) (signed : Bool) (code : Nat) : Int :=
  let c := code % 2 ^ w
  if signed && decide (2 ^ (w - 1) ≤ c) then (c : Int) - 2 ^ w else c

/-- An integer as a value on paper. -/
def FV.ofInt (x : Int) : FV := .fin (decide (x < 0)) x.natAbs 0

/-- The extension of a result of width w into 64 bits (R109): copies of the sign bit for i types, zeros otherwise. -/
def extendInt (w : Nat) (signed : Bool) (code : Nat) : Dword :=
  BitVec.ofInt 64 (intValue w signed code)

/-- RN into a format. -/
def Fmt.rn (f : Fmt) (v : FV) : Nat := (f.round .rne false false v).1

end Sys2Proof.Machine
end

