-- ==== Sys2Proof/Config.lean ====
section
/-! DEFINITION. Free values: what the spec leaves open, as constants without a body (log 4, log 6). -/

namespace Sys2Proof.Config

/-- A free choice, numbered by `State.fresh`: which lane of a store wins (07 R154, 03 R70), which entry of a differing run
translates (17 R288), whether a request had left the core (19 R307), which sector or TLB entry is evicted (11 R182). -/
opaque freeChoice : Nat → Nat

/-- A free byte, numbered by `State.fresh`: a byte of a block copied with a poison mark (17 R255). -/
opaque freeByte : Nat → Byte

/-- The slice hash of a profile on the 128-byte lines of a location's key (11 R186, 25 R373: the device's own). -/
opaque sliceHash : Profile → Nat → Nat

/-- The lowest supply target of a bent, in steps of 10 mV below nominal (21 R335). -/
opaque lowestSteps : Nat

/-- SHAKE256 of an image or of a stage (23 R362, R365). -/
opaque shake256 : Nat → Nat

/-- ML-DSA-65 verification of a signature over a digest with a public key (23 R362, R363). -/
opaque mldsaVerify : Nat → Nat → Signature → Bool

/-- The public key whose digest the mask ROM holds (23 R361). -/
opaque anchorKey : Nat

/-- The identity key pair that the ROM derives from the SRAM PUF response of the part and the helper data (23 R364). -/
opaque identityKey : List Byte → Nat

/-- The ROM's signing service with the identity key, over a nonce and the measurement log (23 R364, R365). -/
opaque identitySign : Nat → Nat → List Nat → Nat

/-- The window budget that the power controller gives a bent, numbered by `State.fresh` (21 R333). -/
opaque windowBudget : Nat → Nat

/-- Stack and pseudo-channel of a block of HBM4E, as bits 22 to 13 of a location field, by its key (25 Table 25-6). -/
opaque hbmLocation : Nat → Nat

/-- The time of the management controller's clock at a chip strike, in seconds and nanoseconds (25 R383). -/
opaque time1588 : Nat → Nat × Nat

/-- The bytes of a header without its signature, as a number: the versions, the length, the image's digest. The layout of the
header belongs to the part (23 R362). -/
opaque headerBytes : BitVec 64 → BitVec 32 → Nat → Nat → Nat

/-- The bytes of the floor record without its signature, as a number (23 R362). -/
opaque floorBytes : BitVec 32 → Nat

end Sys2Proof.Config
end

