-- ==== Sys2Proof/Machine/State.lean ====
section
/-! DEFINITION. The state of one Edrum module as plain data, and the module at power-on. INVENTORY.md lists every field
with the rule that names it and its reset value. -/

namespace Sys2Proof.Machine

/-- A finite map from numbers, held as pairs with rising keys. -/
abbrev KV (α : Type) := List (Nat × α)

/-! ## Memory -/

/-- Memory behind every home (11 R176), each place at its own range of keys (`Place.key`): bytes that are not 0, future
cells that are FULL (11 R203, cell = key / 8), blocks that carry a poison mark (17 R290, block = key / 32). Bytes read 0,
cells EMPTY and blocks clear where nothing is listed (25 R379). -/
structure Memory where
  bytes  : List Host.Cell
  full   : List Nat
  poison : List Nat
deriving DecidableEq, Repr

/-- A place of Table 11-1. -/
inductive Place where
  /-- Global memory of the own node, a physical address (17 R287). -/
  | hbm (pa : Nat)
  /-- The chip scratchpad carve-out of a context (11 R180). -/
  | carve (c off : Nat)
  /-- The core scratchpad of a group (11 R177). -/
  | scratch (gr off : Nat)
  /-- The bent-shared share of a group (11 R178). -/
  | share (gr off : Nat)
  /-- The lane-private region of a lane (03 R67). -/
  | priv (g lane off : Nat)
  /-- A byte of the gang's vector registers (03 R68). -/
  | reg (off : Nat)
  /-- Another module's memory (11 R181). -/
  | remote (va : Dword)
deriving DecidableEq, Repr

/-- A leaf of the page tables as a TLB holds it for one 4 KiB page (17 Table 17-14, R288). -/
structure Leaf where
  base : Nat
  noL1 : Bool
  r    : Bool
  w    : Bool
  x    : Bool
  /-- The page that the leaf maps has 2^bits bytes. -/
  bits : Nat := 12
deriving DecidableEq, Repr

/-! ## Outstanding instructions -/

/-- Where an access of an outstanding instruction stands (11 R183 to R185, 17 R271, R272). -/
inductive AccSt where
  /-- At the core, waiting for a translation (17 R289). -/
  | xlate
  /-- Translated, on its way to its home. -/
  | ready
  /-- Held at its home (11 R204, 13 R226, R233). -/
  | waiting
  /-- Refused by a full buffer, to be sent again (13 R226). -/
  | refused
  /-- Sent to another module, under a packet identifier (23 R349). -/
  | sent (id : Nat)
  /-- Performed at its home; its result or acknowledgement is on its way back. -/
  | performed
  /-- Faulted with a cause of Table 17-9. -/
  | fault (cause : Nat)
deriving DecidableEq, Repr

/-- One access of an outstanding instruction with its kept address and data (17 R271). Lane 32 is the one access of a
scalar-wise instruction. -/
structure Acc where
  lane   : Nat
  va     : Dword
  size   : Nat
  data   : BitVec 128
  cmp    : Dword
  place  : Option Place
  st     : AccSt
  ans    : BitVec 128
  /-- The status code of the answer; 256 set: the bytes carried a poison mark. -/
  code   : Nat
  /-- Its response is discarded: a lane cancelled or a gang ended after it left the core. -/
  orphan : Bool
  /-- Memory type 1: loads bypass the L1 (17 R289). -/
  noL1   : Bool
  /-- The page on which it met a translation or permission fault has 2^page bytes (17 R272, R288). -/
  page   : Nat := 12
deriving DecidableEq, Repr

/-- What an outstanding instruction does at its home and on delivery. -/
inductive OpKind where
  /-- A plain load of `size` bytes, `lds` included (07 R152, R153). -/
  | load
  /-- A plain store, `sts` and `stt` included. -/
  | store
  /-- An atomic (13 R213); `ret` is the return form. -/
  | atomic (op : AtomicOp) (signed ret : Bool)
  | fwr
  | frd (consume : Bool)
  | rclaim
  | rcommit
  | rawait
  | rretire
  /-- `rbind` whose fifth binding faults (13 R229). -/
  | rbind
  /-- `rwr`; its last access is the counter (13 R232). -/
  | rwr
  | rwait
  /-- `div`, `sqrt`, `rcp`, `rsqrt`: the result stands in the access, whose code is 1 when it is
  inexact (09 R163, R164). -/
  | calc
  /-- `rrd` of ridge register k (19 R305). -/
  | rrd (k : Nat)
  /-- `steal`, whose copies land at delivery (19 R316). -/
  | steal
  /-- A pop of queue register q (17 R258). -/
  | pop (q : Nat)
  /-- A matrix instruction in the matrix pipe (15 R245). -/
  | matrix
  /-- A read of a format block that faulted before its matrix instruction issued (15 R247, 17 R278). -/
  | format
  /-- A fetch that faulted (17 R278). -/
  | fetch
  /-- A refused or faulted engine operation or wait, with its handle or request address (17 R254, R260, R262). -/
  | engine (h : Dword)
  /-- An `nwait` whose counter faults (17 R261). -/
  | nwait
deriving DecidableEq, Repr

/-- The four matrix instructions that name tiles (15 R244, R250). -/
inductive MatKind where
  | mma | mmc | mzero | mfin
deriving DecidableEq, Repr

/-- What a matrix instruction took at its issue (15 R244, R245): sizes, format block, tiles, and its active rows. -/
structure Mat where
  kind  : MatKind
  m     : Nat
  n     : Nat
  k     : Nat
  comp  : Bool
  /-- The format block and its address. -/
  fb    : List Byte
  fbVa  : Dword
  /-- The active rows in which its tile is still Pending. -/
  rows  : Word
  vC    : Nat
  /-- The A and B tiles, by register offset in the tile x 32 + lane. -/
  tileA : KV Word
  tileB : KV Word
  /-- Scale and outlier bytes as read, by block x 32 (the scale) or block x 32 + 1 + j (byte j of the record), those of B
  at 2^40. -/
  sides : KV Byte
  /-- Accumulator and lo rows as they stood when the oldest still Pending instruction on the tile issued (Table 15-7). -/
  orig  : KV Word
  quad  : Bool
  /-- Strike edges waited for its quad partners (15 R249); `none` once assembled. -/
  waited : Option Nat
  /-- The quarters of B of the other gangs, by quadrant, with their scale and outlier bytes, once assembled (15 R248). -/
  quarters : List (Nat × KV Word × KV Byte)
  done  : Bool
  /-- In the record of chained accumulators, which `tcfg` discards (15 R239). -/
  chained : Bool := true
  /-- A replay is to read its scales and outlier records again (15 R247), behind the earlier stores of its gang (07 R154). -/
  reread : Bool := false
deriving DecidableEq, Repr

/-- One outstanding instruction of a gang. Its split is the one that holds any of `slices`. -/
structure Op where
  kind   : OpKind
  instr  : Instr
  pc     : Dword
  slices : BitVec 8
  mode   : BitVec 16
  dest   : Reg
  /-- The scope at which it is a release (Table 11-3), and whether that release has completed. -/
  rel    : Option Scope
  /-- Whether its delivery is an acquire, and at which scope. -/
  acq    : Option Scope
  accs   : KV Acc
  /-- An engine fault that is reported only after its operation's completion wait (17 R262). -/
  held   : Bool
  mat    : Option Mat
  /-- Of a store, the ranges of keys that its lanes have written in marked blocks (17 R290). -/
  cover  : List (Nat × Nat) := []
deriving DecidableEq, Repr

/-! ## Gangs -/

/-- The states of a gang (01 Table 1-6) once it is placed. -/
inductive GangState where
  | resident | trap | saved | retiring | retired | killed
deriving DecidableEq, Repr

/-- The states of a split (01 Table 1-7). -/
inductive SplitState where
  | ready | segwait | barwait | regang | claimwait | evwait | yield | faultpark
deriving DecidableEq, Repr

/-- The wait tag of a split: what ends its wait. -/
inductive Wait where
  | none
  /-- A segment marker or `xfence` (01 R32). -/
  | marker
  /-- `acq`, or the acquire half of `fence` (11 R192). -/
  | acq (sc : Scope)
  /-- `rel`, or the release half of `fence` and `fsc` (11 R191). -/
  | rel (sc : Scope)
  | fence (sc : Scope)
  /-- The acquire half of `fence`, once its release has completed. -/
  | fenceAcq (sc : Scope)
  | fsc (sys : Bool)
  /-- `fsc` whose release has completed, before its strike edge and, when `due`, at it (11 R197). -/
  | fscEdge (sys due : Bool)
  /-- The acquire of `fsc` at its strike edge. -/
  | fscAcq (sys : Bool)
  /-- `exit` (03 R78). -/
  | exit
  /-- `bar` and `barar`, whose release comes before the arrival (13 R231). -/
  | barRel (b : Nat) (m : Word) (n : Nat) (waits : Bool)
  /-- `bar` or `barw` waiting on a phase (01 R47). -/
  | bar (b : Nat)
  | regang
  | claim (k : Nat)
  | give (k : Nat)
  /-- The outstanding instruction whose result is awaited. -/
  | op (o : Nat)
  /-- `cwait` on the copies its handle named (17 R256). -/
  | cwait (hs : List Nat)
  /-- `yield` on the copies its handle named, with its continuation PC (07 R138). -/
  | yield (hs : List Nat) (pc : Dword)
  /-- The outstanding `nwait`. -/
  | nwait (o : Nat)
  /-- A queue push and its instruction (17 R258). -/
  | push (q : Fin 8) (w : Dword) (i : Instr)
  /-- A push whose request is being read after a fault (17 R260). -/
  | reqRead (q : Fin 8) (w : Dword)
  | qbind (q : Fin 8) (w base : Dword)
  /-- `sysc` before its release has completed, and then until the answer (17 R265). -/
  | sysc (n : BitVec 16) (sent : Bool)
  /-- `spawn` with the lanes still to be accepted, those malformed and those rejected for their queue (19 R317). -/
  | spawn (base : Nat) (todo mal bad : Word)
  /-- `bleave` before its release, `bjoin` before its acquire (13 R235). -/
  | bleave
  /-- An acquire at a scope that is no report point: `bjoin`, a barrier's completion, `sysc` answered (11 R192). -/
  | acqQuiet (sc : Scope)
  /-- `tcfg` (15 R239). -/
  | tcfg (desc : Dword)
  /-- A matrix instruction of a quad waiting for its partners (15 R248). -/
  | quad
deriving DecidableEq, Repr

/-- A fault record (17 Table 17-8) and the outstanding instruction it names. -/
structure FaultRec where
  addr  : Dword
  pc    : Dword
  lanes : Word
  word  : Word
  cause : Nat
  rd    : Bool
  wr    : Bool
  rmw   : Bool
  eng   : Bool
  op    : Nat
deriving DecidableEq, Repr

/-- One entry of the split table (01 R27). -/
structure Split where
  slices : BitVec 8
  pc     : Dword
  /-- The address of the instruction it waits in. -/
  ipc    : Dword
  st     : SplitState
  wait   : Wait
  /-- The S bit of a waiting instruction, to take effect once the wait ends (03 R77). -/
  seg    : Bool
  age    : Nat
  /-- The report of a FAULTPARK split, oldest record first (17 R274). -/
  recs   : List FaultRec
  /-- Whether the report waits for the device OS (17 R275) or for the handler. -/
  toOs   : Bool
  /-- The report is that of a fetch (17 R278). -/
  fetch  : Bool
  /-- The device OS's answer to the report, given while the group was saved or being saved: REPLAY or DELIVER (17 R284,
  Table 17-13). -/
  answer : Option Bool
  /-- The scope of an acquire whose read was delivered while its split stood at a report point: it completes there (11
  R192). -/
  acqAfter : Option Scope := none
deriving DecidableEq, Repr

/-- The trap registers of Table 17-5. -/
structure TrapRegs where
  split  : Nat
  cause  : Nat
  tpc    : Dword
  tmode  : BitVec 16
  tmask  : Word
  tinfo  : Dword
  tslice : BitVec 8
  tfsel  : BitVec 5
  replay : Bool
  recs   : List FaultRec
  /-- The wait at whose report point the faults were delivered, executed again before the split goes on at TPC (11 R198, 13
  R217), and the S bit that was to follow it. -/
  again  : Wait
  seg    : Bool
deriving DecidableEq, Repr

/-- The causes of Table 17-6 with what TINFO gives of each. -/
inductive Trap where
  | illop (reason : Nat)
  | illreg (num field : Nat)
  | regbound (n : Nat)
  | hazard (n : Nat)
  | slicemix (sl : BitVec 8)
  | regangmix (at_ : Word)
  | maskmismatch (b : Nat)
  | clamp (lo : Word)
  | partialLanes (lanes : Word)
  | searchovf (lanes : Word)
  | watchdog (limit : Nat)
  | bartimeout (b : Nat)
  | trap (code : BitVec 16)
  | memfault (n : Nat)
deriving DecidableEq, Repr

/-- A trap held for a split while its gang is in TRAP by another (17 R270): a precise one with its word and TPC, or its
reported memory faults. -/
inductive HeldTrap where
  | precise (sp : Nat) (t : Trap) (word : Word) (tpc : Dword)
  | memFault (sp : Nat)
deriving DecidableEq, Repr

/-- The arrival of a slice at a named barrier (01 R47). -/
structure Arrival where
  phase     : Nat
  discarded : Bool
deriving DecidableEq, Repr

/-- The tile configuration (15 R238). -/
structure Tile where
  m : Nat
  n : Nat
  k : Nat
deriving DecidableEq, Repr

/-- An outstanding bulk copy (17 R253 to R255). -/
structure Copy where
  dst     : Dword
  src     : Dword
  len     : Nat
  /-- The instruction it came from, for its fault record. -/
  pc      : Dword
  word    : Word
  slices  : BitVec 8
  /-- Outstanding instructions issued before it have this bound (the release of Table 11-3). -/
  before  : Nat
  /-- Bytes moved, as disjoint rising ranges. -/
  moved   : List (Nat × Nat)
  /-- Bytes stopped by a translation or permission fault, awaiting the device OS (17 R262). -/
  stopped : List (Nat × Nat)
  /-- Bytes the device OS declined, and the address that the lowest of them met. -/
  declined : List (Nat × Nat)
  at_     : Option Dword := none
  /-- The lowest byte that now stands stopped, and the address that it met. -/
  met     : Option (Nat × Dword) := none
deriving DecidableEq, Repr

/-- How a request in a queue register stands (17 R258 to R260, 23 R355, R356). -/
inductive ReqSt where
  /-- Its 32 bytes could not be read: a translation fault on the request (17 R260). -/
  | reading
  | queued
  /-- Sent to another module and not yet acknowledged. -/
  | sent
  /-- Its bytes are performed; its counter additions remain (23 R356). -/
  | moved
  | done
deriving DecidableEq, Repr

/-- A request pushed through a queue register. -/
structure Req where
  id      : Nat
  /-- What the pop delivers. -/
  tag     : Dword
  /-- The words of a network request, or the four doublewords of a gather request. -/
  words   : List Dword
  st      : ReqSt
  malformed : Bool
  refused : Bool
  pops    : Bool
  pc      : Dword
  word    : Word
  slices  : BitVec 8
  before  : Nat
  moved   : List (Nat × Nat)
  stopped : List (Nat × Nat)
  declined : List (Nat × Nat)
  /-- A fault found, by cause, reported at the report point after its completion wait. -/
  fault   : Option (Nat × Dword)
  /-- The lowest element that now stands stopped, and the address that it met. -/
  met     : Option (Nat × Dword) := none
deriving DecidableEq, Repr

/-- A queue register (17 R257). -/
structure QReg where
  /-- 0 unbound, 1 gather, 2 network. -/
  engine : Nat
  base   : Dword
  /-- Words of a request being framed (23 R355). -/
  frame  : List Dword
  reqs   : List Req
deriving DecidableEq, Repr

/-- The search state of a lane (19 Table 19-1). -/
inductive SearchSt where
  | run | pend | idle
deriving DecidableEq, Repr

/-- One gang. -/
structure Gang where
  ctx    : Nat
  inc    : BitVec 12
  group  : Nat
  idx    : Nat
  slot   : Nat
  core   : Nat
  st     : GangState
  /-- Of its launch (01 Table 1-2): protected, hardware slices, lane-private bytes, handler, watchdog limit, the scope
  bound to level 3. -/
  prot   : Bool
  nslices : Nat
  privBytes : Nat
  handler : Dword
  limit  : Nat
  scope  : Scope
  live   : Word
  role   : BitVec 2
  segs   : List (Nat × Nat)
  priv   : List Nat
  s      : KV Dword
  m      : KV Word
  v      : KV Word
  bnd    : KV Word
  alt    : KV Word
  mode   : BitVec 16
  stat   : Dword
  /-- Pending registers, by register number x 32 + lane, with the instruction that delivers each. -/
  pend   : KV Nat
  ops    : KV Op
  nextOp : Nat
  splits : KV Split
  arrs   : KV Arrival
  wd     : Nat
  trap   : Option TrapRegs
  held   : List HeldTrap
  tile   : Option Tile
  seq    : BitVec 32
  copies : KV Copy
  queues : KV QReg
  member : Bool
  /-- Bound rings: the address named and, once the home has it, the control block's key (13 R228). -/
  binds  : List (Dword × Option Nat)
  tt     : KV Nat
  bt     : KV Nat
  search : KV SearchSt
  ridge  : Option (Fin 16)
  /-- The tag of the lane that spawned it (19 R318), when it is a task. -/
  tag    : Option Word
  /-- Of a protected gang, the primary's and the shadow's copies differ, as the next comparison will find (17 R293, R294). -/
  differs : Bool := false
deriving DecidableEq, Repr

/-! ## Groups, launches, contexts -/

/-- A named barrier of a group (01 R45 to R48). -/
structure Barrier where
  phase   : Nat
  m       : Word
  n       : Nat
  /-- Lanes that have arrived, by gang. -/
  arrived : KV Word
  /-- Strike edges counted since the first arrival. -/
  strikes : Nat
deriving DecidableEq, Repr

/-- One level descriptor (01 Table 1-3). -/
structure Level where
  domain : Nat
  scope  : Scope
  extent : Nat
deriving DecidableEq, Repr

/-- A wait event of a launch (21 R324): where its counter lies, its threshold, whether it is satisfied. -/
structure WaitEvt where
  key : Nat
  thr : Nat
  sat : Bool
deriving DecidableEq, Repr

/-- A launch record as accepted, or what a task takes from its parent (01 Table 1-2, 19 R318). -/
structure LaunchParams where
  prot     : Bool
  queue    : Nat
  levels   : List Level
  entry    : Dword
  handler  : Dword
  vregs    : Nat
  pool     : Nat
  priv     : Nat
  barriers : Nat
  scratch  : Nat
  shared   : Nat
  watchdog : Nat
  timeout  : Nat
  bound    : Word
  ridge    : Option (Fin 16)
  roles    : List (Nat × Nat)
  args     : List Dword
deriving DecidableEq, Repr

/-- A launch or a task (01 R44, 19 R317 to R319). -/
structure Launch where
  ctx     : Nat
  inc     : BitVec 12
  params  : LaunchParams
  events  : List WaitEvt
  /-- The tag of a task. -/
  tag     : Option Word
  task    : Bool
  /-- The launch it descends from; a host launch descends from itself. -/
  root    : Nat
  /-- The gang that spawned a task. -/
  parent  : Option Nat
  /-- For a host launch, its queue and the QHEAD value at which it was taken (23 R348). -/
  host    : Option (Nat × BitVec 32)
  /-- Groups in all, placed, retired. -/
  total   : Nat
  placed  : Nat
  retired : Nat
  /-- The layer of each instance that a layer level confines, once its first group is placed (01 R24). -/
  pins    : KV Nat
  completed : Bool
deriving DecidableEq, Repr

/-- A group (01 R14, R23, R44). -/
structure Group where
  ctx     : Nat
  inc     : BitVec 12
  launch  : Nat
  /-- Its frame, and its level-4 index in it; a group without a frame stands alone. -/
  frame   : Option Nat
  index   : Nat
  /-- Its number among the groups of its launch. -/
  serial  : Nat
  core    : Nat
  quads   : List Nat
  bars    : List Nat
  gangs   : List Nat
  pool    : List Nat
  scratch : List Nat
  share   : List Nat
  claims  : List (Nat × Nat)
  barriers : KV Barrier
  abandoned : Bool
  /-- Strike edges passed while resident, for its charge (21 R327). -/
  strikes : Nat
  saved   : Bool
  saving  : Bool
  retired : Bool
  /-- Where in the context's save area its state lies while it is saved: offset and size (17 R283). -/
  saveAt  : Nat × Nat := (0, 0)
deriving DecidableEq, Repr

/-- The states of a context (17 Table 17-11). -/
inductive CtxState where
  | free | live | draining | out | killing
deriving DecidableEq, Repr

/-- A launch queue (21 Table 21-1) and the units in it. -/
structure Queue where
  enable  : Bool
  cls     : Fin 4
  quantum : Nat
  deficit : Int
  units   : List Nat
deriving DecidableEq, Repr

/-- A ridge register (19 R300, Table 19-4) and its value at the ridge unit. -/
structure Ridge where
  cfg : RidgeCfg
  val : Word
deriving DecidableEq, Repr

/-- A context (17 Table 17-10). -/
structure Ctx where
  created   : Bool
  st        : CtxState
  inc       : BitVec 12
  root      : Nat
  threshold : Nat
  deadline  : Nat
  /-- The strike at which the drain began. -/
  drainAt   : Nat
  saveAddr  : Nat
  saveSize  : Nat
  carve     : Nat
  quantum   : Nat
  deficit   : Int
  queues    : KV Queue
  ridges    : KV Ridge
  job       : Option (BitVec 16)
  /-- LIVE before the role change in progress (25 R370). -/
  wasLive   : Bool
  /-- Saved groups stand to be restored before new groups (17 R284). -/
  restore   : Bool
deriving DecidableEq, Repr

/-! ## Cores, bents, homes -/

/-- A clamp-table entry (11 R199): its context, the gang and operation it belongs to, its range. -/
structure Clamp where
  ctx   : Nat
  gang  : Nat
  /-- The copy handle, or 2^32 + the request identifier. -/
  own   : Nat
  isDst : Bool
  lo    : Nat
  len   : Nat
deriving DecidableEq, Repr

/-- A core. -/
structure Core where
  /-- Granules of 256 to 2,047 that a group owns (01 R22). -/
  owned  : List Nat
  /-- Contexts that have held a group here since their last reclaim-complete (11 R208). -/
  held   : List Nat
  bars   : List Nat
  quads  : List Nat
  /-- L1 sectors by physical sector number (11 R182). -/
  l1     : KV (BitVec 256)
  clamps : List Clamp
  tlb    : KV Leaf
  /-- Ridge copies by context x 16 + k (19 R302). -/
  ridge  : KV Word
  /-- Window sums of the four quadrants (21 R331). -/
  wsum   : KV Nat
deriving DecidableEq, Repr

/-- A plumb-pair sensor (21 R337). -/
structure Sensor where
  /-- Reading and model estimate in quarter degrees. -/
  reading : Int
  model   : Int
  voted   : Bool
  same    : Nat
  first   : Int
  inBand  : Nat
deriving DecidableEq, Repr

/-- A bent. -/
structure Bent where
  tlb    : KV Leaf
  sum    : Nat
  last   : Nat
  budget : Nat
  /-- Cycles of the window that have passed. -/
  cycle  : Nat
  /-- Supply target in steps of 10 mV below nominal (21 R335). -/
  steps  : Nat
  /-- The sample at which it was marked hot. -/
  hot    : Option Nat
deriving DecidableEq, Repr

/-- A claim of a ring at its home (13 R223, R225): ticket, granules, marked done, the claimer's gang. -/
structure RingClaim where
  t    : Nat
  n    : Nat
  mark : Bool
  gang : Nat
  /-- The module of the gang, when it is another one (23 R349). -/
  sender : Option (BitVec 12)
deriving DecidableEq, Repr

/-- The claim lists of a ring (13 R223). -/
structure RingHome where
  prod : List RingClaim
  cons : List RingClaim
deriving DecidableEq, Repr

/-- An access held at its home, in order of arrival (11 R204, 13 R226, R233). -/
structure Deferred where
  g : Nat
  o : Nat
  k : Nat
  /-- The key of the cell, ring or counter. -/
  key : Nat
  slice : Nat
  /-- What it asks, and the n of a ring request or the threshold of a counter wait. -/
  kind : OpKind
  n   : Nat
  /-- A request of another module, answered by this identifier. -/
  ext : Option Packet
deriving DecidableEq, Repr

/-- Where a ridge value is bound (19 R302). -/
inductive RidgeDest where
  /-- An offer to this module's ridge unit. -/
  | offer
  /-- A change accepted by the ridge unit, to the copy of a core. -/
  | copy (core : Nat)
  /-- A change accepted by another module's ridge unit, to this one's. -/
  | peer
deriving DecidableEq, Repr

/-- A ridge value on its way (19 R302). -/
structure RidgeMsg where
  ctx  : Nat
  k    : Fin 16
  val  : Word
  dest : RidgeDest
deriving DecidableEq, Repr

/-- A removal of queued tasks on its way to the task store (19 R318). -/
structure Removal where
  ctx : Nat
  tag : Word
deriving DecidableEq, Repr

/-! ## Host, fabric, management -/

/-- A host queue's registers (23 Table 23-1). -/
structure HostQueue where
  base    : Dword
  size    : Word
  head    : Word
  tail    : Word
  stopped : Bool
  reason  : BitVec 4
  /-- A host copy record taken and not completed, by its bytes (23 R347). -/
  copy    : Option (List Byte × Word)
deriving DecidableEq, Repr

/-- A completion record not yet written (23 R348). -/
structure Completion where
  head   : Word
  queue  : Nat
  status : Nat
  inc    : BitVec 12
  strike : Nat
deriving DecidableEq, Repr

/-- A completion ring's registers (23 Table 23-1) and the records waiting for room. -/
structure CompRing where
  base  : Dword
  size  : Word
  tail  : Word
  head  : Word
  vec   : BitVec 6
  waiting : List Completion
deriving DecidableEq, Repr

/-- What a packet that left this module carries. -/
inductive PacketFor where
  | acc (g o k : Nat)
  /-- Elements of a network request. -/
  | req (g q id : Nat) (spans : List (Nat × Nat))
  | ridge (c : Nat) (k : Fin 16) (v : Word)
  /-- The break of a ring of another module by a gang of a context (13 R228). -/
  | ringBreak (c : Nat)
  /-- The withdrawal of the request of access k of instruction o of gang g, sent under the packet `id` (13 R222). -/
  | withdraw (g o k id : Nat)
deriving DecidableEq, Repr

/-- A packet sent and not yet acknowledged (23 R349, R352, R353). -/
structure PacketOut where
  job   : BitVec 16
  dest  : Nat
  stamp : Nat
  what  : PacketFor
  /-- What it asks of the other module. -/
  op    : RemoteOp
  /-- Times it was sent again. -/
  again : Nat
  /-- It travels as traffic class 0 (21 R338, 23 R349). -/
  cls0  : Bool := false
  /-- It has left the module: one formed while the module takes no part in the fabric leaves once it does (23 R352). -/
  left  : Bool := true
  /-- Its receipt has been acknowledged, apart from the answer that is still to come (23 R352, R353). -/
  received : Bool := false
deriving DecidableEq, Repr

/-- The packet withdraws the request that another packet carries. -/
def PacketOut.withdraws (p : PacketOut) (id : Nat) : Bool :=
  match p.what with
  | .withdraw _ _ _ old => old == id
  | .acc _ _ _ | .req _ _ _ _ | .ridge _ _ _ | .ringBreak _ => false

/-- A management error record (25 Table 25-6). -/
structure ErrRec where
  level  : Nat
  source : Nat
  loc    : Nat
  pa     : Nat
  ctx    : Option (Nat × BitVec 12)
  count  : Nat
  /-- The IEEE 1588 time of detection: seconds and nanoseconds. -/
  time   : Nat × Nat
  synced : Bool
  logged : Bool
  strike : Nat
  detail : Nat
deriving DecidableEq, Repr

/-- What the module sends to the outside: a record of outputs, oldest first. -/
inductive Output where
  /-- An MSI-X vector signalled (23 R348). -/
  | msix (vec : BitVec 6)
  /-- The answer to a request of another module (23 R349, R350): the packet's module and number. -/
  | answer (sender : BitVec 12) (seq : Nat) (ok : Bool) (data : BitVec 128)
  /-- The receipt of a request of another module that its home holds (23 R353, 13 R226). -/
  | receipt (sender : BitVec 12) (seq : Nat)
  /-- The bytes of a remote read (23 R356). -/
  | answerBytes (sender : BitVec 12) (seq : Nat) (data : List FabByte)
  /-- A translation or permission fault returned to another module (23 R351). -/
  | answerFault (sender : BitVec 12) (seq : Nat) (cause : Nat)
  /-- An answer to SPDM (23 R365): the nonce and the signed log. -/
  | spdm (nonce : Nat) (log : List Nat) (sig : Nat)
  /-- An answer to PLDM (25 R381). -/
  | pldm (r : PldmRequest) (v : List Int)
  /-- An engine element fault recorded for the device OS (17 R262): the operation, and the 32 bytes of its record. -/
  | osFault (g : Nat) (h : Nat) (bytes : List Dword)
  /-- A split's report to the device OS (17 R275): its records, and the 32 bytes of each. -/
  | osReport (g sp : Nat) (recs : List FaultRec) (bytes : List (List Dword))
  /-- A service request (17 R265): the number, the gang, s32 to s37. -/
  | sysc (n : BitVec 16) (g : Nat) (vals : List Dword)
  /-- A gang halt reported to the device OS (17 R292): the gang and its place (core, slot, index in its group), the cause, and
  the block of a poison. -/
  | osHalt (g core slot idx : Nat) (why : Nat) (block : Nat)
  /-- Exchange credit granted to a partner: the job, target and parameter word of the own request (23 R360). -/
  | exchange (dest : Nat) (job : BitVec 16) (target param : Dword)
  /-- An error record as the management controller sends it: the 64 bytes of a PLDM platform event message (25 R382). -/
  | pldmEvent (bytes : List Byte)
  /-- The copy of an error record that Dyrok receives at the same time (25 R382). -/
  | dyrokRecord (r : ErrRec)
deriving DecidableEq, Repr

/-- The flash of Table 23-9, by its records. -/
structure Flash where
  floor : Option FloorRec
  slotA : Option SlotImage
  slotB : Option SlotImage
  /-- Layers marked failed (25 R375), bit 4 x tower + position. -/
  marks : BitVec 8
  /-- The PUF helper data and the identity certificate of the control block (23 R364). -/
  helper : List Byte
  cert  : List Byte
  /-- The boot and error log: 1 MiB of 64-byte records, circular (25 R382). -/
  log   : List ErrRec
deriving DecidableEq, Repr

/-- A role change in progress (25 R370). -/
structure RoleChange where
  target : Profile
  old    : Profile
deriving DecidableEq, Repr

/-- Host link and module-wide registers (23 R339 to R344). -/
structure HostIf where
  ready    : Bool
  attached : Bool
  /-- ATTACH[0] as last written (23 Table 23-1). -/
  attach   : Bool
  refusedAttach : Bool
  slotB    : Bool
  accept   : BitVec 256
  /-- The features in force since attach, and those offered at it (23 Table 23-2). -/
  feat     : BitVec 256
  offer    : BitVec 256 := 0
  rate     : Nat
  width    : Nat
  queues   : KV HostQueue
  rings    : KV CompRing
deriving DecidableEq, Repr

/-- Fabric state (23 R349 to R353, R383). -/
structure Fabric where
  ports   : BitVec 8
  synced  : Bool
  aligned : Bool
  /-- Modules present beside the own one (11 R181). -/
  present : List Nat
  packets : KV PacketOut
  nextId  : Nat
  /-- Requests of other modules received and held during a role change (25 R370). -/
  held    : List Packet
  /-- Packets of other modules that have been received, by module, number and stamp: one sent again is answered again and not
  performed again (23 R353). -/
  seen    : List (Nat × Nat × Nat)
deriving DecidableEq, Repr

/-- Power and management state (21 R335 to R337, 25 R366 to R383). -/
structure Mgmt where
  samples : Nat
  watts   : Nat
  sensors : KV Sensor
  fruClass : CoolClass
  cls     : CoolClass
  /-- Coolant inlet temperature in degrees, flow in tenths of a litre per minute. -/
  inlet   : Nat
  flow    : Nat
  /-- Checks of 100 ms in a row within and outside class B, within and outside class A. -/
  inB     : Nat
  outB    : Nat
  inA     : Nat
  outA    : Nat
  records : List ErrRec
  role    : Option RoleChange
  /-- Sensors that read 115 degrees or more at the last sample (25 R380). -/
  hot115  : List Nat
  /-- A condition of a thermal trip has held (25 R380). -/
  trip    : Bool
  /-- Power removed by a thermal trip. -/
  dead    : Bool
  /-- A module reset is pending (25 Table 25-2). -/
  resetPending : Bool
  /-- The slot the next boot excludes (23 R363). -/
  exclude : Option Bool
  booted  : Bool
  /-- The slot that the boot in course chose, slot B as true (23 R363). -/
  running : Option Bool
  /-- The identity key pair that the ROM derived at the last boot, kept in base-die SRAM (23 R364). -/
  idKey   : Nat
  measLog : List Nat
  flash   : Flash
  /-- By location and source, the system strike of the last record of level 1 and the errors counted since (25 Table 25-5). -/
  corrected : KV (Nat × Nat) := []
  /-- A boot has looked for a slot since the last reset (23 R363). -/
  tried   : Bool := false
deriving DecidableEq, Repr

/-- What happens next, as the outside world and the timing of the part supply it (log 1). -/
inductive Agenda where
  /-- An event of the part happens. -/
  | event (i : Instr)
  /-- A consequence of an earlier step happens next, unless what has happened since has removed its cause. -/
  | due (i : Instr)
  /-- A cycle of one quadrant in which split `sp` of gang `g` fetches and issues its next instruction. -/
  | issue (g sp : Nat)
  /-- A cycle of one quadrant: its scheduler chooses (21 R331). -/
  | cycle (core quad : Nat)
deriving DecidableEq, Repr

/-- The machine. -/
structure State where
  mem      : Memory
  host     : Memory
  gangs    : KV Gang
  groups   : KV Group
  launches : KV Launch
  ctxs     : KV Ctx
  cores    : KV Core
  bents    : KV Bent
  rings    : KV RingHome
  deferred : List Deferred
  ridgeMsgs : List RidgeMsg
  removals : List Removal
  /-- Round pointers of the distributor (21 R326), by class: over contexts, and by class and context over queues. -/
  ctxPtr   : KV Nat
  queuePtr : KV Nat
  nextGang : Nat
  nextGroup : Nat
  nextLaunch : Nat
  nextReq  : Nat
  strike   : Dword
  sstrike  : Dword
  /-- Chip strikes into the current pair of system strikes (00 Table 0-6, log 12). -/
  phase    : Nat
  node     : BitVec 12
  profile  : Profile
  hostif   : HostIf
  fabric   : Fabric
  mgmt     : Mgmt
  out      : List Output
  /-- MODEL: the agenda, the split whose instruction is being executed, the free-value counter (log 1, 4). -/
  agenda   : List Agenda
  cur      : Option (Nat × Nat)
  fresh    : Nat
deriving DecidableEq, Repr

/-- The reason a step stops. It comes from the model, not from the part (log 5). -/
inductive Fault where
  /-- An instruction word was given to `exec` with no split selected to execute it. Raised by every word meaning. The part
  never does this, so stopping is safe. -/
  | noSplit
deriving DecidableEq, Repr

/-- The reasons the model gives no meaning. -/
inductive Refusal where
  /-- An instruction that the model does not cover. Raised only by `exec`. Safe: the model stops. -/
  | notModelled (mnemonic : String)
deriving DecidableEq, Repr

/-! ## Initial values -/

/-- Memory with nothing written (25 R379). -/
def Memory.empty : Memory := { bytes := [], full := [], poison := [] }

/-- A queue as the device OS has not written it (log 3). -/
def Queue.init : Queue := { enable := false, cls := 0, quantum := 1024, deficit := 0, units := [] }

/-- A ridge register as the device OS has not configured it (log 3). -/
def Ridge.init : Ridge := { cfg := { enable := false, isMax := false, system := false, start := 0 }, val := 0 }

/-- A context that has not been created (log 3; threshold 32 at creation, Table 17-10). -/
def Ctx.init : Ctx :=
  { created := false, st := .free, inc := 0, root := 0, threshold := 32, deadline := 0, drainAt := 0, saveAddr := 0,
    saveSize := 0, carve := 0, quantum := 1024, deficit := 0, queues := [], ridges := [], job := none, wasLive := false,
    restore := false }

/-- A core with nothing placed on it. -/
def Core.init : Core :=
  { owned := [], held := [], bars := [], quads := [], l1 := [], clamps := [], tlb := [], ridge := [], wsum := [] }

/-- A bent at power-on (log 3: budget 131,072). -/
def Bent.init : Bent :=
  { tlb := [], sum := 0, last := 0, budget := 131072, cycle := 0, steps := 0, hot := none }

/-- A sensor at power-on: 40 degrees, in service (log 3). -/
def Sensor.init : Sensor := { reading := 160, model := 160, voted := false, same := 0, first := 160, inBand := 0 }

/-- A ring home with no claim. -/
def RingHome.init : RingHome := { prod := [], cons := [] }

/-- A queue's registers after a module reset (23 R344). While the device is detached every queue is stopped with reason 3
besides (23 R343). -/
def HostQueue.init : HostQueue :=
  { base := 0, size := 0, head := 0, tail := 0, stopped := false, reason := 0, copy := none }

/-- A completion ring's registers after a module reset (23 R344). -/
def CompRing.init : CompRing := { base := 0, size := 0, tail := 0, head := 0, vec := 0, waiting := [] }

/-- A queue register at placement: unbound (03 R64). -/
def QReg.init : QReg := { engine := 0, base := 0, frame := [], reqs := [] }

/-- The module right after reset, before boot (log 2, log 3). -/
def State.reset : State :=
  { mem := Memory.empty, host := Memory.empty, gangs := [], groups := [], launches := [], ctxs := [], cores := [],
    bents := [], rings := [], deferred := [], ridgeMsgs := [], removals := [], ctxPtr := [], queuePtr := [],
    nextGang := 0, nextGroup := 0, nextLaunch := 0, nextReq := 0, strike := 0, sstrike := 0, phase := 0, node := 0,
    profile := .c2m2,
    hostif :=
      { ready := false, attached := false, attach := false, refusedAttach := false, slotB := false, accept := 0, feat := 0, rate := 128,
        width := 16, queues := [], rings := [] },
    fabric := { ports := 0, synced := false, aligned := false, present := [], packets := [], nextId := 0, held := [], seen := [] },
    mgmt :=
      { samples := 0, watts := 0, sensors := [], fruClass := .a, cls := .a, inlet := 0, flow := 0, inB := 0,
        outB := 0, inA := 0, outA := 0, records := [], role := none, hot115 := [], trip := false, dead := false, resetPending := false, exclude := none,
        booted := false, running := none, idKey := 0, measLog := [],
        flash :=
          { floor := none, slotA := none, slotB := none, marks := 0, helper := [], cert := [], log := [] } },
    out := [], agenda := [], cur := none, fresh := 0 }

end Sys2Proof.Machine
end

