-- ==== Sys2Proof/Machine/Ops.lean ====
section
/-! DEFINITION. The named operations over the state: finite maps, memory, registers, lanes, launching a trap and
returning from it, halting a gang. -/

namespace Sys2Proof.Machine

/-! ## Finite maps and sets of numbers -/

/-- The value at a key. -/
def KV.find {α : Type} : KV α → Nat → Option α
  | [], _ => none
  | (k', v) :: r, k => if k = k' then some v else KV.find r k

/-- The value at a key, or a default. -/
def KV.get {α : Type} (m : KV α) (k : Nat) (d : α) : α := (KV.find m k).getD d

/-- Sets the value at a key, keeping the keys rising. -/
def KV.set {α : Type} : KV α → Nat → α → KV α
  | [], k, v => [(k, v)]
  | (k', v') :: r, k, v =>
    if k < k' then (k, v) :: (k', v') :: r
    else if k = k' then (k, v) :: r
    else (k', v') :: KV.set r k v

/-- Removes a key. -/
def KV.del {α : Type} : KV α → Nat → KV α
  | [], _ => []
  | (k', v') :: r, k => if k = k' then KV.del r k else (k', v') :: KV.del r k

/-- Sets the value at a key of a total map, whose default is not listed. -/
def KV.put {α : Type} [DecidableEq α] (d : α) (m : KV α) (k : Nat) (v : α) : KV α :=
  if v = d then KV.del m k else KV.set m k v

/-- Keys rise strictly. -/
def KV.sorted {α : Type} : KV α → Bool
  | [] => true
  | [_] => true
  | (k, _) :: (k', v) :: r => decide (k < k') && KV.sorted ((k', v) :: r)

/-- Applies a function to the value at a key, where there is one. -/
def KV.mod {α : Type} (m : KV α) (k : Nat) (f : α → α) : KV α :=
  match KV.find m k with
  | some v => KV.set m k (f v)
  | none => m

/-- Inserts a number into a rising list. -/
def insertNat : List Nat → Nat → List Nat
  | [], k => [k]
  | k' :: r, k => if k < k' then k :: k' :: r else if k = k' then k :: r else k' :: insertNat r k

/-- Removes a number from a rising list. -/
def eraseNat : List Nat → Nat → List Nat
  | [], _ => []
  | k' :: r, k => if k = k' then r else k' :: eraseNat r k

/-- A list of numbers rises strictly. -/
def risingNat : List Nat → Bool
  | [] => true
  | [_] => true
  | a :: b :: r => decide (a < b) && risingNat (b :: r)

/-! ## Memory -/

/-- The key of a place's first byte in `Memory`; registers and other modules have none. -/
def Place.key : Place → Option Nat
  | .hbm pa => some (pa % 2 ^ 52)
  | .carve c off => some ((c * 8 + 1) * 2 ^ 52 + off % 2 ^ 52)
  | .scratch gr off => some ((gr * 8 + 2) * 2 ^ 52 + off % 2 ^ 52)
  | .share gr off => some ((gr * 8 + 3) * 2 ^ 52 + off % 2 ^ 52)
  | .priv g lane off => some (((g * 32 + lane) * 8 + 4) * 2 ^ 52 + off % 2 ^ 52)
  | .reg _ => none
  | .remote _ => none

/-- The byte at a key; 0 where nothing is listed (25 R379). -/
def Memory.byte (m : Memory) (k : Nat) : Byte := KV.get m.bytes k 0

/-- Writes one byte. -/
def Memory.setByte (m : Memory) (k : Nat) (b : Byte) : Memory := { m with bytes := KV.put 0 m.bytes k b }

/-- The n bytes at a key as a number, least significant byte first (00 R7). -/
def Memory.read (m : Memory) (k : Nat) : Nat → Nat
  | 0 => 0
  | n + 1 => (m.byte k).toNat + 256 * Memory.read m (k + 1) n

/-- Writes the low n bytes of a number, least significant byte first (00 R7). -/
def Memory.write (m : Memory) (k : Nat) : Nat → Nat → Memory
  | 0, _ => m
  | n + 1, v => Memory.write (m.setByte k (BitVec.ofNat 8 v)) (k + 1) n (v / 256)

/-- Whether any of n bytes lies in a poisoned block (17 R290). -/
def Memory.poisoned (m : Memory) (k n : Nat) : Bool :=
  m.poison.any fun b => decide (b * 32 < k + n) && decide (k < b * 32 + 32)

/-- Clears the marks of blocks that n bytes at k cover whole (17 R290). -/
def Memory.clearWhole (m : Memory) (k n : Nat) : Memory :=
  { m with poison := m.poison.filter fun b => !(decide (k ≤ b * 32) && decide (b * 32 + 32 ≤ k + n)) }

/-- A store of n bytes: written, and marks of blocks it covers whole cleared (17 R290). -/
def Memory.store (m : Memory) (k n v : Nat) : Memory := (m.write k n v).clearWhole k n

/-- Gives n bytes at a key the values of a function, and clears the marks of blocks that they cover whole. -/
def Memory.fill (m : Memory) (k n : Nat) (f : Nat → Byte) : Memory :=
  let below := m.bytes.filter fun c : Host.Cell => decide (c.1 < k)
  let above := m.bytes.filter fun c : Host.Cell => decide (k + n ≤ c.1)
  let new : List Host.Cell := ((List.range n).map fun j => (k + j, f j)).filter fun c => c.2 != 0
  { m with bytes := below ++ new ++ above }.clearWhole k n

/-- Marks the block of a key as poisoned (17 R290). -/
def Memory.mark (m : Memory) (k : Nat) : Memory := { m with poison := insertNat m.poison (k / 32) }

/-- Whether the future cell of a key is FULL (11 R203). -/
def Memory.isFull (m : Memory) (k : Nat) : Bool := m.full.contains (k / 8)

/-- Makes the future cell of a key FULL or EMPTY (11 R204). -/
def Memory.setFull (m : Memory) (k : Nat) (b : Bool) : Memory :=
  { m with full := if b then insertNat m.full (k / 8) else eraseNat m.full (k / 8) }

/-- The canonical form of memory: rising keys, no byte equal to what an unlisted key reads as, rising marks. -/
def Memory.wf (m : Memory) : Bool :=
  KV.sorted m.bytes && m.bytes.all (fun c => c.2 != 0) && risingNat m.full && risingNat m.poison

/-! ## Parts of the state -/

/-- A gang by its identifier. -/
def State.gang (s : State) (g : Nat) : Option Gang := KV.find s.gangs g

/-- A gang that is not saved (17 R283). -/
def State.onChip (s : State) (g : Nat) : Option Gang :=
  match s.gang g with
  | some G => if G.st = .saved then none else some G
  | none => none

/-- Replaces a gang. -/
def State.setGang (s : State) (g : Nat) (G : Gang) : State := { s with gangs := KV.set s.gangs g G }

/-- Active cores of a profile (00 Table 0-2). -/
def activeCores : Profile → Nat
  | .c2m2 => 128
  | .c3m1 => 192
  | .c1m3 => 64

/-- Layers in the compute role, as numbers k of 25 R373: the lowest. -/
def computeLayers (p : Profile) : Nat := activeCores p / 32

/-- L2 slices of a profile: 16 of a compute layer, 24 of a memory layer (00 Table 0-2). -/
def l2Slices : Profile → Nat
  | .c2m2 => 160
  | .c3m1 => 144
  | .c1m3 => 176

/-- The home slice of a key: one of the slices of the profile in force, the compute layers' first, the same for a whole line
of 128 bytes (11 R186, 25 R373). -/
def State.sliceOf (s : State) (key : Nat) : Nat := Config.sliceHash s.profile (key / 128) % l2Slices s.profile

/-- Applies a function to a gang, where it exists. -/
def State.modGang (s : State) (g : Nat) (f : Gang → Gang) : State := { s with gangs := KV.mod s.gangs g f }

/-- A group by its identifier. -/
def State.group (s : State) (gr : Nat) : Option Group := KV.find s.groups gr

/-- Replaces a group. -/
def State.setGroup (s : State) (gr : Nat) (G : Group) : State := { s with groups := KV.set s.groups gr G }

/-- Applies a function to a group, where it exists. -/
def State.modGroup (s : State) (gr : Nat) (f : Group → Group) : State := { s with groups := KV.mod s.groups gr f }

/-- A context; one never created is `Ctx.init`. -/
def State.ctx (s : State) (c : Nat) : Ctx := KV.get s.ctxs c Ctx.init

/-- Replaces a context. -/
def State.setCtx (s : State) (c : Nat) (C : Ctx) : State := { s with ctxs := KV.set s.ctxs c C }

/-- A core by its chip-wide number. -/
def State.core (s : State) (c : Nat) : Core := KV.get s.cores c Core.init

/-- Replaces a core. -/
def State.setCore (s : State) (c : Nat) (C : Core) : State := { s with cores := KV.set s.cores c C }

/-- The bent of a core (25 R373): chip-wide number 8 x layer order x 4 + bent. -/
def bentOf (core : Nat) : Nat := core / 8

/-- A bent. -/
def State.bent (s : State) (b : Nat) : Bent := KV.get s.bents b Bent.init

/-- Replaces a bent. -/
def State.setBent (s : State) (b : Nat) (B : Bent) : State := { s with bents := KV.set s.bents b B }

/-- A queue of a context. -/
def Ctx.queue (c : Ctx) (q : Nat) : Queue := KV.get c.queues q Queue.init

/-- A ridge register of a context. -/
def Ctx.ridge (c : Ctx) (k : Nat) : Ridge := KV.get c.ridges k Ridge.init

/-- A queue register of a gang. -/
def Gang.queue (g : Gang) (q : Nat) : QReg := KV.get g.queues q QReg.init

/-- Sends something outside. -/
def State.emit (s : State) (o : Output) : State := { s with out := s.out ++ [o] }

/-- Numbers one more free value (log 4). -/
def State.tick (s : State) : State := { s with fresh := s.fresh + 1 }

/-! ## Lanes -/

/-- Lanes of a slice that the program sees (01 R14; 17 R293 for a protected launch). -/
def Gang.lanesPerSlice (g : Gang) : Nat := if g.prot then 2 else 4

/-- The slice of a lane (01 R15). -/
def Gang.sliceOf (g : Gang) (lane : Nat) : Nat := lane / g.lanesPerSlice

/-- Whether a lane belongs to a set of slices. -/
def Gang.inSlices (g : Gang) (sl : BitVec 8) (lane : Nat) : Bool := sl.getLsbD (g.sliceOf lane)

/-- The lanes of a gang in increasing order. -/
def lanes32 : List Nat := List.range 32

/-- The word whose bit i is `f i`. -/
def maskOf (f : Nat → Bool) : Word :=
  lanes32.foldl (fun w i => if f i then w ||| BitVec.twoPow 32 i else w) 0

/-- The lanes of a mask in increasing order. -/
def lanesOf (w : Word) : List Nat := lanes32.filter fun i => w.getLsbD i

/-- The number of 1 bits of a word. -/
def popcount (w : Word) : Nat := (lanesOf w).length

/-- The lanes of a set of slices, as a mask. -/
def Gang.sliceMask (g : Gang) (sl : BitVec 8) : Word := maskOf fun i => g.inSlices sl i

/-- A mask register. -/
def Gang.mreg (g : Gang) (n : Nat) : Word := KV.get g.m n 0

/-- The guard condition of a lane: `m<g>[i] xor mode[11]`, true when no guard is selected (00 R11). -/
def Gang.guard (g : Gang) (i : Nat) : Bool :=
  let sel := (g.mode.extractLsb' 8 3).toNat
  sel == 0 || ((g.mreg sel).getLsbD i != g.mode.getLsbD 11)

/-- `Active(i)` for the lanes of the executing split (00 R11). -/
def Gang.activeLane (g : Gang) (sl : BitVec 8) (i : Nat) : Bool :=
  g.inSlices sl i && g.live.getLsbD i && (g.mreg 0).getLsbD i && g.guard i

/-- The active lanes of the executing split. -/
def Gang.active (g : Gang) (sl : BitVec 8) : Word := maskOf fun i => g.activeLane sl i

/-- The lanes of a split that are live. -/
def Gang.liveOf (g : Gang) (sl : BitVec 8) : Word := g.live &&& g.sliceMask sl

/-! ## Registers -/

/-- A vector register of one lane. -/
def Gang.vreg (g : Gang) (n lane : Nat) : Word := KV.get g.v (n * 32 + lane) 0

/-- Writes a vector register of one lane. -/
def Gang.setV (g : Gang) (n lane : Nat) (w : Word) : Gang := { g with v := KV.put 0 g.v (n * 32 + lane) w }

/-- A scalar register. -/
def Gang.sreg (g : Gang) (n : Nat) : Dword := KV.get g.s n 0

/-- Writes a scalar register. -/
def Gang.setS (g : Gang) (n : Nat) (w : Dword) : Gang := { g with s := KV.put 0 g.s n w }

/-- Writes a mask register. -/
def Gang.setM (g : Gang) (n : Nat) (w : Word) : Gang := { g with m := KV.put 0 g.m n w }

/-- Writes the bits of a mask register that lie in `lanes`, and keeps the others (07 R133). -/
def Gang.writeM (g : Gang) (n : Nat) (lanes w : Word) : Gang :=
  g.setM n ((g.mreg n &&& ~~~lanes) ||| (w &&& lanes))

/-- The per-lane bound. -/
def Gang.bound (g : Gang) (lane : Nat) : Word := KV.get g.bnd lane 0

/-- Writes the per-lane bound. -/
def Gang.setBnd (g : Gang) (lane : Nat) (w : Word) : Gang := { g with bnd := KV.put 0 g.bnd lane w }

/-- Writes the per-lane alternative index. -/
def Gang.setAlt (g : Gang) (lane : Nat) (w : Word) : Gang := { g with alt := KV.put 0 g.alt lane w }

/-- The granules a gang holds (01 R36). -/
def Gang.granules (g : Gang) : Nat := (g.segs.map Prod.snd).sum

/-- The gang's register bound, 8 x granules held (01 R36). -/
def Gang.regBound (g : Gang) : Nat := 8 * g.granules

/-- Trail base TB = 16 x floor(L / 32) (19 R295). -/
def Gang.tb (g : Gang) : Nat := 16 * (g.privBytes / 32)

/-- Trail top of a lane (19 R295). -/
def Gang.ttOf (g : Gang) (lane : Nat) : Nat := KV.get g.tt lane g.tb

/-- Brace top of a lane (19 R295). -/
def Gang.btOf (g : Gang) (lane : Nat) : Nat := KV.get g.bt lane g.privBytes

/-- Search state of a lane (19 R296). -/
def Gang.searchOf (g : Gang) (lane : Nat) : SearchSt := KV.get g.search lane .run

/-- Writes stat[7:0] and clears the rest (03 R63). -/
def Gang.setStat (g : Gang) (code : Nat) : Gang := { g with stat := BitVec.ofNat 64 (code % 256) }

/-! ## Pending registers -/

/-- The key of a register of a lane in `pend`; a register held once per gang uses lane 0. -/
def pendKey (r : Reg) (lane : Nat) : Nat :=
  r.num.toNat * 32 + (if r.isV then lane else 0)

/-- `Pending(reg)` in a lane (01 R32). -/
def Gang.isPending (g : Gang) (r : Reg) (lane : Nat) : Bool := (KV.find g.pend (pendKey r lane)).isSome

/-- Sets a register Pending for an instruction; zr never becomes Pending (03 R57). -/
def Gang.setPending (g : Gang) (r : Reg) (lane o : Nat) : Gang :=
  if r = .zr then g else { g with pend := KV.set g.pend (pendKey r lane) o }

/-- Clears Pending of a register of a lane, when instruction `o` set it. -/
def Gang.clearPending (g : Gang) (r : Reg) (lane o : Nat) : Gang :=
  if KV.find g.pend (pendKey r lane) = some o then { g with pend := KV.del g.pend (pendKey r lane) } else g

/-! ## Outstanding instructions -/

/-- Whether an access writes at its home (11 R185). -/
def OpKind.writes : OpKind → Bool
  | .store | .atomic _ _ _ | .fwr | .rcommit | .rretire | .rwr => true
  | .load | .frd _ | .rclaim | .rawait | .rbind | .rwait | .calc | .rrd _ | .steal | .pop _ | .matrix | .format | .fetch
  | .engine _ | .nwait => false

/-- Whether the instruction makes registers Pending or holds its split until its result arrives (01 R32). -/
def OpKind.varLat : OpKind → Bool
  | .load | .fwr | .frd _ | .rclaim | .rawait | .rretire | .rwait | .calc | .rrd _ | .steal | .pop _ | .matrix => true
  | .atomic _ _ ret => ret
  | .store | .rcommit | .rbind | .rwr | .format | .fetch | .engine _ | .nwait => false

/-- Whether its delivery is a memory result (11 R191). Of a matrix instruction these are its reads of the format block, the
scales and the outliers: those that a fault holds stand in its accesses (15 R247). -/
def OpKind.memResult : OpKind → Bool
  | .load | .fwr | .frd _ | .rclaim | .rawait | .rretire | .pop _ | .matrix | .format => true
  | .atomic _ _ ret => ret
  | .store | .rcommit | .rbind | .rwr | .rwait | .calc | .rrd _ | .steal | .fetch | .engine _ | .nwait => false

/-- Whether an instruction is an engine operation for its record. -/
def OpKind.isEngine : OpKind → Option Dword
  | .engine h => some h
  | .load | .store | .atomic _ _ _ | .fwr | .frd _ | .rclaim | .rcommit | .rawait | .rretire | .rbind | .rwr | .rwait
  | .calc | .rrd _ | .steal | .pop _ | .matrix | .format | .fetch | .nwait => none

/-- Whether an access is held by a fault (17 R272). -/
def AccSt.isFault : AccSt → Bool
  | .fault _ => true
  | .xlate | .ready | .waiting | .refused | .sent _ | .performed => false

/-- An access has not reached its home. -/
def AccSt.onWay : AccSt → Bool
  | .xlate | .ready | .refused | .sent _ => true
  | .waiting | .performed | .fault _ => false

/-- The accesses of an instruction that no fault holds. -/
def Op.goodAccs (o : Op) : KV Acc := o.accs.filter fun p => !p.2.st.isFault

/-- The accesses of an instruction that a fault holds. -/
def Op.badAccs (o : Op) : KV Acc := o.accs.filter fun p => p.2.st.isFault

/-- Whether an instruction was issued by the split that holds the slices `sl`. -/
def Op.ofSplit (o : Op) (sl : BitVec 8) : Bool := o.slices &&& sl != 0

/-- An access of a lane of the slices `sl`, or of an instruction as a whole (17 R293: a slice of a protected gang has two
visible lanes). -/
def Gang.owns (g : Gang) (sl : BitVec 8) (a : Acc) : Bool := decide (32 ≤ a.lane) || g.inSlices sl a.lane

/-- An instruction in the lanes of the slices `sl`: a split that has divided answers for its own lanes (01 R29, 17 R273). -/
def Gang.within (g : Gang) (sl : BitVec 8) (o : Op) : Op :=
  if o.mat.isSome then o else { o with accs := o.accs.filter fun p => g.owns sl p.2 }

/-- The instructions whose faults in the lanes of `sl` the handler has been given and has not yet answered (17 R269). -/
def Gang.inHandler (G : Gang) (sl : BitVec 8) : List Nat :=
  match G.trap with
  | some t => if t.tslice &&& sl = 0 then [] else t.recs.map FaultRec.op
  | none => []

/-- The accesses of an instruction for which a release or an acquire of the split with slices `sl` waits. Those that faulted
and are in the hands of the split's handler come behind it: they are issued again, if at all, at `tret` (17 R276; log 8). -/
def Gang.counted (g : Gang) (sl : BitVec 8) (p : Nat × Op) : KV Acc :=
  if (g.inHandler sl).contains p.1 then p.2.goodAccs else p.2.accs

/-- A store to window 0 or 1, which the unacknowledged-store counter leaves out (11 R185). -/
def Acc.inCore (a : Acc) : Bool := a.va.getLsbD 63 && decide ((a.va.extractLsb' 60 3).toNat ≤ 1)

/-- A faulted access whose home has answered it: one that another module refused (23 R350), and one that the home of a ring
found with cause RING (13 R229; log 8). It counts as acknowledged. -/
def Acc.answeredFault (a : Acc) : Bool :=
  match a.st, a.place with
  | .fault c, some (.remote _) => c == 6 || c == 7
  | .fault c, _ => c == 7
  | _, _ => false

/-- A write that is not acknowledged, held by a fault before its home or not (11 R185). -/
def Acc.unacked (a : Acc) : Bool := !a.inCore && !a.answeredFault

/-- The writes of an instruction that are not acknowledged. -/
def Op.unacked (o : Op) : Nat := if o.kind.writes then (o.accs.filter fun p => p.2.unacked).length else 0

/-- The unacknowledged-store counter of a gang (11 R185). -/
def Gang.unacked (g : Gang) : Nat := (g.ops.map fun p => p.2.unacked).sum

/-- Whether a write of the gang issued before instruction `o` is unacknowledged, for a release of the split with slices `sl`. -/
def Gang.unackedBefore (g : Gang) (sl : BitVec 8) (o : Nat) : Bool :=
  g.ops.any fun p => decide (p.1 < o) && p.2.kind.writes && (g.counted sl p).any fun q => q.2.unacked

/-- An access whose delivery is a memory result; a QUAD fault (cause 8) holds the accumulator of a quad instruction, which
is none (11 R191, 15 R249). -/
def Acc.isResult (a : Acc) : Bool := a.st != .fault 8

/-- Scales and outlier records are still to be read again (15 R247). -/
def Op.rereads (o : Op) : Bool := (o.mat.map Mat.reread).getD false

/-- Whether a memory result of the split, of an instruction before `o`, is not delivered (11 R191); one that a fault holds
is not (17 R272). -/
def Gang.resultsBefore (g : Gang) (sl : BitVec 8) (o : Nat) : Bool :=
  g.ops.any fun p => decide (p.1 < o) && p.2.kind.memResult && p.2.ofSplit sl &&
    (p.2.rereads || (g.counted sl p).any fun q => q.2.isResult)

/-- The release of R191 at a scope, of everything the split issued before instruction `o`, has completed. -/
def Gang.released (g : Gang) (sl : BitVec 8) (sc : Scope) (o : Nat) : Bool :=
  !g.resultsBefore sl o && (sc == .gang || !g.unackedBefore sl o)

/-- Adds an outstanding instruction and gives its number. -/
def Gang.addOp (g : Gang) (o : Op) : Gang := { g with ops := KV.set g.ops g.nextOp o, nextOp := g.nextOp + 1 }

/-- Removes an access of an instruction, and the instruction with its last access. -/
def Gang.dropAcc (g : Gang) (o k : Nat) : Gang :=
  match KV.find g.ops o with
  | none => g
  | some op =>
    let accs := KV.del op.accs k
    if accs.isEmpty then { g with ops := KV.del g.ops o } else { g with ops := KV.set g.ops o { op with accs := accs } }

/-- Replaces an access of an instruction. -/
def Gang.setAcc (g : Gang) (o k : Nat) (a : Acc) : Gang :=
  { g with ops := KV.mod g.ops o fun op => { op with accs := KV.set op.accs k a } }

/-- An access of an instruction. -/
def Gang.acc (g : Gang) (o k : Nat) : Option (Op × Acc) :=
  match KV.find g.ops o with
  | none => none
  | some op => (KV.find op.accs k).map fun a => (op, a)

/-! ## Error records (25 R382) -/

/-- The location field of a core (25 Table 25-6; R373 gives layer order from position and tower). -/
def locOf (core : Nat) : Nat :=
  let k := core / 32
  (k % 2) + 2 * (k / 2) + 8 * (core / 8 % 4) + 32 * (core % 8)

/-- The layer of an L2 slice and its number there: the compute layers' 16 each come first, then the memory layers' 24 each (00
Table 0-2, 25 R373). -/
def sliceLayer (p : Profile) (sl : Nat) : Nat × Nat :=
  let n := computeLayers p
  if sl < 16 * n then (sl / 16, sl % 16) else (n + (sl - 16 * n) / 24, (sl - 16 * n) % 24)

/-- The location field of an L2 slice (25 Table 25-6). -/
def sliceLoc (p : Profile) (sl : Nat) : Nat := locOf (32 * (sliceLayer p sl).1) + 2 ^ 8 * (sliceLayer p sl).2

/-- n bytes of a number, least significant first (00 R7). -/
def leBytes (v : Nat) : Nat → List Byte
  | 0 => []
  | n + 1 => BitVec.ofNat 8 v :: leBytes (v / 256) n

/-- The 64 bytes of an error record (25 Table 25-6). -/
def ErrRec.bytes (r : ErrRec) : List Byte :=
  let whose := match r.ctx with
    | some (c, inc) => 2 ^ 31 + c % 64 * 2 ^ 12 + inc.toNat
    | none => 0
  let flags := (if r.synced then 1 else 0) + (if r.logged then 2 else 0)
  leBytes 1 2 ++ leBytes r.level 1 ++ leBytes r.source 1 ++ leBytes r.loc 4 ++ leBytes r.pa 8 ++ leBytes whose 4 ++
    leBytes r.count 4 ++ leBytes r.time.1 6 ++ leBytes r.time.2 4 ++ leBytes flags 1 ++ leBytes 0 1 ++
    leBytes r.strike 8 ++ leBytes r.detail 2 ++ leBytes 0 18

/-- The source of an error record for a block by its key: HBM4E, L2, store (25 Table 25-6). -/
def poisonSource (key : Nat) : Nat :=
  match key / 2 ^ 52 % 8 with
  | 0 => 5
  | 1 => 4
  | _ => 2

/-- The location field of a block by its key, for an error of a source: the L2 slice that is its home in the profile in force, the
stack of HBM4E, or the core of the group or gang that it belongs to (25 Table 25-6). -/
def State.blockLoc (s : State) (source key : Nat) : Nat :=
  let owner := key / 2 ^ 52 / 8
  match source with
  | 4 => sliceLoc s.profile (s.sliceOf key)
  | 5 => Config.hbmLocation key % 2 ^ 10 * 2 ^ 13
  | _ =>
    if key / 2 ^ 52 % 8 = 4 then locOf (((s.gang (owner / 32)).map Gang.core).getD 0)
    else locOf (((s.group owner).map Group.core).getD 0)

/-- The physical address of a block in an error record, 0 for one that has none (25 Table 25-6). -/
def blockPa (key : Nat) : Nat := if key < 2 ^ 52 then key / 32 * 32 else 0

/-- Records an error, stamped at its detection: the last 256 are kept, those of level 2 or above are also appended to the flash
log, whose 1 MiB holds 16,384 records of 64 bytes (23 Table 23-9), and each is sent at once as a PLDM event message and to
Dyrok, so in order of detection (25 R382, R383). -/
def State.logErrs (s : State) (count level source loc pa : Nat) (ctx : Option Nat) (detail : Nat) : State :=
  let r : ErrRec :=
    { level := level, source := source, loc := loc, pa := pa,
      ctx := ctx.map fun c => (c, (s.ctx c).inc), count := count, time := Config.time1588 s.strike.toNat
      synced := s.fabric.synced, logged := decide (2 ≤ level), strike := s.strike.toNat, detail := detail }
  let m := s.mgmt
  let kept := m.records ++ [r]
  let m := { m with records := kept.drop (kept.length - 256) }
  let log := m.flash.log ++ [r]
  let m := if 2 ≤ level then { m with flash := { m.flash with log := log.drop (log.length - 16384) } } else m
  { s with mgmt := m, out := s.out ++ [.pldmEvent r.bytes, .dyrokRecord r] }

/-- Records one error. -/
def State.logErr (s : State) (level source loc pa : Nat) (ctx : Option Nat) (detail : Nat) : State :=
  s.logErrs 1 level source loc pa ctx detail

/-- Counts an error of level 1: one record of a location and source in a second, counted in system strikes, carries the number of
those since the record before it (25 Table 25-5; log 6). -/
def State.logCorrected (s : State) (source loc pa detail : Nat) : State :=
  let key := loc * 16 + source
  let now := s.sstrike.toNat
  let (last, n) := KV.get s.mgmt.corrected key (now, 0)
  if (KV.find s.mgmt.corrected key).isSome && decide (last ≤ now) && decide (now < last + 500000) then
    { s with mgmt := { s.mgmt with corrected := KV.set s.mgmt.corrected key (last, n + 1) } }
  else
    ({ s with mgmt := { s.mgmt with corrected := KV.set s.mgmt.corrected key (now, 0) } } : State).logErrs (n + 1) 1 source loc pa
      none detail

/-! ## Waits that end -/

/-- A split whose wait has ended is READY, or enters SEGWAIT when its instruction carried S (03 R77). -/
def Split.finish (sp : Split) : Split :=
  if sp.seg then { sp with st := .segwait, wait := .marker, seg := false, acqAfter := none }
  else { sp with st := .ready, wait := .none, acqAfter := none }

/-- Replaces a split of a gang. -/
def Gang.setSplit (g : Gang) (k : Nat) (sp : Split) : Gang := { g with splits := KV.set g.splits k sp }

/-- Ends the wait of a split. -/
def Gang.finishSplit (g : Gang) (k : Nat) : Gang := { g with splits := KV.mod g.splits k Split.finish }

/-- An acquire at a scope by a gang of a core invalidates the whole L1 at bent, chip or system scope (11 R192). -/
def State.acquire (s : State) (core : Nat) : Scope → State
  | .gang | .core => s
  | .bent | .chip | .sys => s.setCore core { s.core core with l1 := [] }

/-! ## Launch wait events (21 R324) -/

/-- Whether a wait event is satisfied by its counter as it stands, or already was. -/
def WaitEvt.test (e : WaitEvt) (m : Memory) : WaitEvt := { e with sat := e.sat || decide (e.thr ≤ m.read e.key 8) }

/-- The launches at the heads of queues. -/
def State.headUnits (s : State) : List Nat :=
  s.ctxs.flatMap fun p => p.2.queues.filterMap fun q => q.2.units.head?

/-- Homes test the wait events of launches at the heads of their queues, as they do after every write to a counter. -/
def State.testWaits (s : State) : State :=
  s.headUnits.foldl (fun s l =>
    { s with launches := KV.mod s.launches l fun L => { L with events := L.events.map fun e => e.test s.mem } }) s

/-! ## Rings that break (11 R205, 13 R228) -/

/-- Whether BROKEN is set in the control block at a key (13 Table 13-7). -/
def State.ringBroken (s : State) (key : Nat) : Bool := (s.mem.byte (key + 12)).getLsbD 0

/-- Ends the wait of an access held at its home with an answer and a status code. -/
def State.answerAcc (s : State) (g o k : Nat) (ans : BitVec 128) (code : Nat) : State :=
  s.modGang g fun G =>
    match G.acc o k with
    | none => G
    | some (_, a) => G.setAcc o k { a with st := .performed, ans := ans, code := code }

/-- Whether a held request is an `rclaim`, or an `rawait`. -/
def Deferred.ringWaiter (d : Deferred) : Option Bool :=
  match d.kind with
  | .rclaim => some true
  | .rawait => some false
  | .load | .store | .atomic _ _ _ | .fwr | .frd _ | .rcommit | .rretire | .rbind | .rwr | .rwait | .calc | .rrd _
  | .steal | .pop _ | .matrix | .format | .fetch | .engine _ | .nwait => none

/-- Answers a held request: to the access that waits, or to the module that sent it. -/
def State.answerHeld (s : State) (d : Deferred) (ans : BitVec 128) (code : Nat) : State :=
  match d.ext with
  | some p => s.emit (.answer p.sender p.seq true ((ans &&& 0xFFFFFFFFFFFFFFFF#128) ||| BitVec.ofNat 128 (code * 2 ^ 64)))
  | none => s.answerAcc d.g d.o d.k ans code

/-- Answers every `rclaim` and `rawait` waiting on a broken ring: the ticket of all ones, or ORPHAN. -/
def State.answerBroken (s : State) (key : Nat) : State :=
  let mine := s.deferred.filter fun d => d.key == key
  let s' := mine.foldl (fun t d =>
    match d.ringWaiter with
    | some true => t.answerHeld d 0xFFFFFFFFFFFFFFFF#128 0
    | some false => t.answerHeld d 0 5
    | none => t) s
  { s' with deferred := s'.deferred.filter fun d => !(d.key == key && d.ringWaiter.isSome) }

/-- A gang, of the own module or of another, holds a producer claim of a ring that is not yet committed, apart from claims
whose tickets `past` names. -/
def State.holdsClaim (s : State) (key g : Nat) (sender : Option (BitVec 12)) (past : Nat → Bool) : Bool :=
  (KV.get s.rings key RingHome.init).prod.any fun c => c.gang == g && c.sender == sender && !c.mark && !past c.t

/-- BROKEN is set in the control block and the waiters are answered (11 R205, 13 R228). -/
def State.breakRing (s : State) (key : Nat) : State :=
  (({ s with mem := s.mem.setByte (key + 12) (s.mem.byte (key + 12) ||| 1) } : State).testWaits).answerBroken key

/-! ## Packets to other modules (23 R349) -/

/-- The module of a global address. -/
def nodeNum (va : Dword) : Nat := (va.extractLsb' 48 12).toNat

/-- The launch queue of a gang is of priority class 0, so that its packets travel as traffic class 0 (21 R338). -/
def State.class0 (s : State) (G : Gang) : Bool :=
  match (s.group G.group).bind fun gr => KV.find s.launches gr.launch with
  | some L => ((s.ctx G.ctx).queue L.params.queue).cls == 0
  | none => false

/-- A packet of a request to another module: the job it carries, its traffic class, its stamp, and what it asks (23 R349).
Without a job there is no receiver. While the module takes no part in the fabric the packet does not leave (23 R352). -/
def State.send (s : State) (c dest : Nat) (cls0 : Bool) (what : PacketFor) (op : RemoteOp) : Option (Nat × State) :=
  match (s.ctx c).job with
  | none => none
  | some job =>
    let F := s.fabric
    let p : PacketOut :=
      { job := job, dest := dest, stamp := s.sstrike.toNat, what := what, op := op, again := 0, cls0 := cls0
        left := F.aligned }
    some (F.nextId, { s with fabric := { F with packets := KV.set F.packets F.nextId p, nextId := F.nextId + 1 } })

/-- The low n bytes of a number, least significant first, as they travel. -/
def numBytes (v : Nat) : Nat → List FabByte
  | 0 => []
  | n + 1 => some (BitVec.ofNat 8 v) :: numBytes (v / 256) n

/-- What an access of gang g asks of another module. -/
def OpKind.remoteOp (x : OpKind) (g : Nat) (a : Acc) : RemoteOp :=
  let d : Dword := a.data.setWidth 64
  match x with
  | .store => .store a.va a.size a.data
  | .atomic op sg _ => .atomic op sg a.va a.size d a.cmp
  | .fwr => .futureWrite a.va d
  | .frd c => .futureRead a.va c
  | .rclaim => .ringClaim a.va d g
  | .rawait => .ringAwait a.va d g
  | .rcommit => .ringCommit a.va d
  | .rretire => .ringRetire a.va d
  | .rbind => .ringBind a.va
  | .rwr => .write [(a.va, numBytes a.data.toNat a.size)] none
  | .rwait => .counterWait a.va (a.data.toNat % 2 ^ 16)
  | .load | .calc | .rrd _ | .steal | .pop _ | .matrix | .format | .fetch | .engine _ | .nwait => .load a.va a.size

/-- The break of a ring of another module, as its own packet. -/
def State.sendBreak (s : State) (g : Nat) (G : Gang) (va : Dword) : State :=
  match s.send G.ctx (nodeNum va) (s.class0 G) (.ringBreak G.ctx) (.ringBreak va g) with
  | some (_, s) => s
  | none => s

/-! ## Rings that a gang breaks (13 R228) -/

/-- A commit of the claim with ticket t of a bound ring has been issued and is on its way to the ring's home: the break
comes there behind it (11 R206; log 29). -/
def Gang.committing (g : Gang) (b : Dword × Option Nat) (t : Nat) : Bool :=
  g.ops.any fun p => p.2.kind = .rcommit && p.2.accs.any fun q =>
    (q.2.va == b.1 || q.2.place.bind Place.key == b.2) && q.2.data.toNat % 2 ^ 64 == t && q.2.st != .performed && !q.2.st.isFault

/-- A bound ring is broken while the gang holds a producer claim of it not yet committed (13 R228). -/
def State.breakBound (s : State) (g : Nat) (G : Gang) (b : Dword × Option Nat) (key : Nat) : State :=
  if s.holdsClaim key g none fun x => G.committing b x then s.breakRing key else s

/-- The break follows an `rbind` that is still on its way to the ring's home, where it takes effect once the ring is bound
(13 R228, 11 R206): code 1 of its access. -/
def Gang.breakAfter (G : Gang) (va : Dword) : Gang :=
  { G with ops := G.ops.map fun p =>
      if p.2.kind = .rbind then
        (p.1, { p.2 with accs := p.2.accs.map fun q => if q.2.va == va then (q.1, { q.2 with code := 1 }) else q })
      else p }

/-- Breaks every ring the gang has bound while it holds a producer claim not yet committed (13 R228). The home of a ring of
another module is told, and tests the claims itself. -/
def State.breakRings (s : State) (g : Nat) : State :=
  match s.gang g with
  | none => s
  | some G =>
    G.binds.foldl (fun t b =>
      if !b.1.getLsbD 63 && b.1.extractLsb' 48 12 != s.node then t.sendBreak g G b.1
      else
        match b.2 with
        | none => t.modGang g fun H => H.breakAfter b.1
        | some key => t.breakBound g G b key) s

/-! ## Gang halt (17 R292, 01 R49) -/

/-- A split that waits for a barrier's phase. -/
def Split.atBarrier (sp : Split) : Bool :=
  match sp.wait with
  | .bar _ => true
  | .none | .marker | .acq _ | .rel _ | .fence _ | .fenceAcq _ | .fsc _ | .fscEdge _ _ | .fscAcq _ | .exit | .barRel _ _ _ _
  | .regang | .claim _ | .give _ | .op _ | .cwait _ | .yield _ _ | .nwait _ | .push _ _ _ | .reqRead _ _ | .qbind _ _ _
  | .sysc _ _ | .spawn _ _ _ _ | .bleave | .acqQuiet _ | .tcfg _ | .quad => false

/-- Puts an event at the head of the agenda: it happens next. -/
def State.soon (s : State) (i : Instr) : State := { s with agenda := .due i :: s.agenda }

/-- Every sibling split waiting at a barrier completes with ABANDONED, and later arrivals do not wait (01 R49, 13
R231). -/
def State.abandon (s : State) (gr : Nat) : State :=
  match s.group gr with
  | none => s
  | some G =>
    let s := s.setGroup gr { G with abandoned := true }
    G.gangs.foldl (fun t g =>
      t.modGang g fun H =>
        H.splits.foldl (fun H p => if p.2.atBarrier then (H.setStat 6).setSplit p.1 p.2.finish else H) H) s

/-- The release that an instruction makes has completed (11 R191). -/
def Gang.relDone (g : Gang) (o : Nat) (op : Op) : Bool :=
  match op.rel with
  | some sc => g.released op.slices sc o
  | none => true

/-- Whether a place is one whose accesses have left the core at issue: windows 0, 1 and 2 (19 R307). -/
def Place.leftAtIssue : Place → Bool
  | .priv _ _ _ | .reg _ | .scratch _ _ => true
  | .hbm _ | .carve _ _ | .share _ _ | .remote _ => false

/-- Whether a request has left the core when its gang ends or its lane is cancelled (11 Table 11-4, 17 R292, 19 R307): a release
that has not completed holds it back; one to windows 0 to 2 left at its issue; of the others on their way, whether they have left
is `left` (log 27). -/
def Gang.hasLeft (g : Gang) (o : Nat) (op : Op) (left : Bool) (a : Acc) : Bool :=
  match a.st with
  | .performed | .waiting | .sent _ => true
  | .ready =>
    (left || (a.place.map Place.leftAtIssue).getD false) && !(op.kind = .rwr && op.accs.any fun p => p.2.st = .xlate || p.2.st.isFault) && g.relDone o op
  | .xlate | .refused | .fault _ => false

/-- Requests that their home may hold: future reads, ring claims and awaits, counter waits (13 R222, R226, R233). -/
def OpKind.withdrawn : OpKind → Bool
  | .frd _ | .rclaim | .rawait | .rwait => true
  | .load | .store | .atomic _ _ _ | .fwr | .rcommit | .rretire | .rbind | .rwr | .calc | .rrd _ | .steal | .pop _ | .matrix
  | .format | .fetch | .engine _ | .nwait => false

/-- The outstanding instructions left when a gang halts or is killed: requests with an effect at their home that have left
the core stand, and their responses are discarded (11 Table 11-4, 17 R292). -/
def Gang.orphanOps (g : Gang) (left : Bool) : KV Op :=
  g.ops.filterMap fun p =>
    if p.2.kind.writes || p.2.kind.withdrawn || p.2.kind = .rbind then
      let accs := (p.2.accs.filter fun q => g.hasLeft p.1 p.2 left q.2).map fun q => (q.1, { q.2 with orphan := true })
      if accs.isEmpty then none else some (p.1, { p.2 with accs := accs })
    else none

/-- Stores that updated the L1 at issue and that end without having left the core. -/
def Gang.lostStores (g : Gang) (left : Bool) : List Acc :=
  g.ops.flatMap fun p =>
    if p.2.kind = .store then (p.2.accs.filter fun q => q.2.st = .ready && !g.hasLeft p.1 p.2 left q.2).map Prod.snd else []

/-- Invalidates the sectors that n bytes touch in a core's L1 (11 R183). -/
def State.l1Drop (s : State) (core pa n : Nat) : State :=
  let C := s.core core
  s.setCore core { C with l1 := C.l1.filter fun p => !(decide (pa / 32 ≤ p.1) && decide (p.1 * 32 < pa + n)) }

/-- The L1 of a core holds no value of a store that is never performed (log 35). -/
def State.l1Forget (s : State) (core : Nat) (l : List Acc) : State :=
  l.foldl (fun s a =>
    match a.place with
    | some (.hbm pa) => s.l1Drop core pa a.size
    | some (.carve _ _) | some (.scratch _ _) | some (.share _ _) | some (.priv _ _ _) | some (.reg _) | some (.remote _)
    | none => s) s

/-- A gang halt: it issues nothing further, its slices all exit, it breaks its rings, its siblings are abandoned and what
they wait for is examined next, as are the waiting claims of its group, and a record with the gang's place goes to the device
OS (17 R292). A request that its home holds has left the core and stands. -/
def State.haltGang (s : State) (g why block : Nat) : State :=
  match s.gang g with
  | none => s
  | some G =>
    let left := Config.freeChoice s.fresh % 2 = 1
    let s := s.tick.modGang g fun G =>
      { G with st := .retiring, live := 0, splits := [], trap := none, held := [], pend := [], ops := G.orphanOps left }
    let s := s.l1Forget G.core (G.lostStores left)
    let s := ((s.breakRings g).abandon G.group).soon (.claimServe G.group)
    let s := s.emit (.osHalt g G.core G.slot G.idx why block)
    s.logErr 3 why (locOf G.core) block (some G.ctx) 0

/-! ## Precise traps (17 R267 to R270) -/

/-- The cause code of Table 17-6. -/
def Trap.code : Trap → Nat
  | .illop _ => 1
  | .illreg _ _ => 2
  | .regbound _ => 3
  | .hazard _ => 4
  | .slicemix _ => 5
  | .regangmix _ => 6
  | .maskmismatch _ => 7
  | .clamp _ => 8
  | .partialLanes _ => 9
  | .searchovf _ => 10
  | .watchdog _ => 11
  | .bartimeout _ => 12
  | .trap _ => 13
  | .memfault _ => 14

/-- TINFO[31:0] of Table 17-6. -/
def Trap.info : Trap → Word
  | .illop r => BitVec.ofNat 32 (r % 16)
  | .illreg n f => BitVec.ofNat 32 (n % 256 + 256 * (f % 4))
  | .regbound n => BitVec.ofNat 32 n
  | .hazard n => BitVec.ofNat 32 n
  | .slicemix sl => sl.zeroExtend 32
  | .regangmix a => a
  | .maskmismatch b => BitVec.ofNat 32 (b % 64)
  | .clamp a => a
  | .partialLanes l => l
  | .searchovf l => l
  | .watchdog l => BitVec.ofNat 32 l
  | .bartimeout b => BitVec.ofNat 32 (b % 64)
  | .trap e => e.zeroExtend 32
  | .memfault n => BitVec.ofNat 32 n

/-- TINFO of Table 17-6: the word above the information, zero for MEMFAULT. -/
def Trap.tinfo (t : Trap) (word : Word) : Dword :=
  match t with
  | .memfault _ => (0 : Word) ++ t.info
  | .illop _ | .illreg _ _ | .regbound _ | .hazard _ | .slicemix _ | .regangmix _ | .maskmismatch _ | .clamp _
  | .partialLanes _ | .searchovf _ | .watchdog _ | .bartimeout _ | .trap _ => word ++ t.info

/-- The split after trap entry: READY at the handler (17 R267). -/
def Split.atHandler (sp : Split) (handler : Dword) : Split :=
  { sp with pc := handler, st := .ready, wait := .none, seg := false, recs := [], toOs := false, fetch := false,
            answer := none }

/-- The wait that a split executes again when it resumes after a report: the whole of a fence or `fsc` (11 R198, 13 R217). -/
def Wait.restart : Wait → Wait
  | .fenceAcq sc => .fence sc
  | .fscEdge sys _ | .fscAcq sys => .fsc sys
  | .none => .none
  | .marker => .marker
  | .acq sc => .acq sc
  | .rel sc => .rel sc
  | .fence sc => .fence sc
  | .fsc sys => .fsc sys
  | .exit => .exit
  | .barRel b m n w => .barRel b m n w
  | .bar b => .bar b
  | .regang => .regang
  | .claim k => .claim k
  | .give k => .give k
  | .op o => .op o
  | .cwait hs => .cwait hs
  | .yield hs pc => .yield hs pc
  | .nwait o => .nwait o
  | .push q w i => .push q w i
  | .reqRead q w => .reqRead q w
  | .qbind q w b => .qbind q w b
  | .sysc n sent => .sysc n sent
  | .spawn b t m x => .spawn b t m x
  | .bleave => .bleave
  | .acqQuiet sc => .acqQuiet sc
  | .tcfg d => .tcfg d
  | .quad => .quad

/-- What follows a return from a delivered memory fault: the wait of the report point again; `exit` is executed again from
its address instead (17 R268). -/
def Wait.afterTrap (w : Wait) : Wait := if w = .exit then .none else w.restart

/-- Trap entry of R267, in one step. -/
def Gang.enterTrap (g : Gang) (k : Nat) (sp : Split) (t : Trap) (word : Word) (tpc : Dword) (recs : List FaultRec) :
    Gang :=
  let regs : TrapRegs :=
    { split := k, cause := t.code, tpc := tpc, tmode := g.mode, tmask := g.mreg 0, tinfo := t.tinfo word,
      tslice := sp.slices, tfsel := 0, replay := !recs.isEmpty, recs := recs
      again := if recs.isEmpty then .none else sp.wait.afterTrap, seg := !recs.isEmpty && sp.seg }
  let g := { g with st := .trap, trap := some regs, mode := 0, wd := 0 }
  let g := g.writeM 0 (g.sliceMask sp.slices) g.live
  g.setSplit k (sp.atHandler g.handler)

/-- Holds a trap of a split while another split of its gang is in TRAP (17 R270). -/
def Gang.holdTrap (g : Gang) (k : Nat) (sp : Split) (h : HeldTrap) : Gang :=
  ({ g with held := g.held ++ [h] } : Gang).setSplit k { sp with wait := .none }

/-- The split whose trap the gang is in. -/
def Gang.trapSplit (g : Gang) : Option Nat := if g.st = .trap then g.trap.map TrapRegs.split else none

/-- Raises a trap in a split: trap entry; the halt of a double trap, when the gang is in TRAP by this split; or, when it is by
another, it is held until `tret` (17 R270). Entering TRAP breaks the gang's rings (13 R228). -/
def State.raise (s : State) (g k : Nat) (t : Trap) (word : Word) (tpc : Dword) (recs : List FaultRec) : State :=
  match s.gang g with
  | none => s
  | some G =>
    match KV.find G.splits k with
    | none => s
    | some sp =>
      if G.st ≠ .trap then (s.breakRings g).modGang g fun G => G.enterTrap k sp t word tpc recs
      else if G.trapSplit.getD k = k then s.haltGang g 12 0
      else s.setGang g (G.holdTrap k sp (.precise k t word tpc))

/-- The lanes that a program of the gang sees; the upper half of a mask reads 0 in a protected launch (17 R293). -/
def Gang.visible (g : Gang) (w : Word) : Word := if g.prot then w &&& 0xFFFF#32 else w

/-- The registers that a return from a trap restores, and the gang RESIDENT again (17 R269, steps 1 and 4). -/
def Gang.leaveTrap (g : Gang) (t : TrapRegs) : Gang :=
  { g with mode := t.tmode, st := .resident, trap := none }.setM 0 (g.visible t.tmask)

/-- The split that returns from a trap continues at TPC (17 R269, step 4). -/
def Split.resume (sp : Split) (t : TrapRegs) : Split :=
  { sp with pc := t.tpc, st := if t.again = .none then .ready else .segwait, wait := t.again,
            seg := t.again != .none && t.seg }

/-- A target program counter that R74 allows: a multiple of 4 with bit 63 clear. -/
def legalPc (pc : Dword) : Bool := pc.extractLsb' 0 2 == 0 && !pc.getLsbD 63

end Sys2Proof.Machine
end

