-- ==== Sys2Proof/Machine/Flags.lean ====
section
/-! DEFINITION. The sticky flags of `mode` (03 R62, Table 3-4): bit 15 INEXACT, bit 14 OUTL. What sets them is computed with
each result (Float.lean); an instruction sets them, none but `setm` and trap entry clears them. -/

namespace Sys2Proof.Machine

/-- INEXACT and OUTL of `mode` (03 Table 3-4). -/
def flagBits (inexact outl : Bool) : BitVec 16 :=
  (if inexact then 0x8000#16 else 0) ||| (if outl then 0x4000#16 else 0)

/-- ORs sticky flags into `mode` (03 R62). -/
def Gang.orFlags (g : Gang) (f : BitVec 16) : Gang := { g with mode := g.mode ||| f }

end Sys2Proof.Machine
end

