-- ==== Sys2Proof/Machine/Operands.lean ====
section
/-! DEFINITION. Operand forms: classes and execution kind (03 R56 to R60), reading and writing operands (07 R131, R133),
spans and pairs (05 R108, 07 R150), and the tests of Table 3-10 that operands decide. -/

namespace Sys2Proof

/-! ## Classes of operands -/

/-- A vector destination that any instruction with a V destination may write (Table 3-1). -/
def Reg.isVDst : Reg → Bool
  | .v _ => true
  | .s _ | .m _ | .q _ | .zr | .lid | .role | .bnd | .alt | .mode | .stat | .live => false

/-- A scalar destination that any instruction with an S destination may write (Table 3-1). -/
def Reg.isSDst : Reg → Bool
  | .s _ | .stat => true
  | .v _ | .m _ | .q _ | .zr | .lid | .role | .bnd | .alt | .mode | .live => false

/-- A mask destination (Table 3-1). -/
def Reg.isMDst : Reg → Bool
  | .m _ => true
  | .v _ | .s _ | .q _ | .zr | .lid | .role | .bnd | .alt | .mode | .stat | .live => false

/-- zr. -/
def Reg.isZ (r : Reg) : Bool := r == .zr

/-- A source of a vector-wise operation: V, S or zr. -/
def Reg.vecSrc (r : Reg) : Bool := r.isV || r.isS || r.isZ

/-- A source of a scalar-wise operation: S, zr, or M in place of S. -/
def Reg.scaSrc (r : Reg) : Bool := r.isS || r.isM || r.isZ

/-- A named S register s0 to s39, and its number. -/
def Reg.sNum : Reg → Option Nat
  | .s n => some n.val
  | .v _ | .m _ | .q _ | .zr | .lid | .role | .bnd | .alt | .mode | .stat | .live => none

/-- A named V register v0 to v191, and its number. -/
def Reg.vNum : Reg → Option Nat
  | .v n => some n.val
  | .s _ | .m _ | .q _ | .zr | .lid | .role | .bnd | .alt | .mode | .stat | .live => none

/-- The register j numbers on, as a span or pair counts (05 R108, 07 R150). -/
def Reg.plus (r : Reg) (j : Nat) : Reg := Reg.ofNum (r.num + BitVec.ofNat 8 j)

/-- The registers of a span of n registers from r; zr stands for itself. -/
def Reg.span (r : Reg) (n : Nat) : List Reg :=
  if r.isZ then [r] else (List.range n).map r.plus

/-- A span of n registers from r is aligned to n, as pairs and quads must be; zr always is. `lid`, `bnd` and `alt`, of class V
and of no pair, are not: the spec is silent on them as 64-bit operands, and the model raises ILLREG (DESIGN CHOICE, log 37). -/
def Reg.aligned (r : Reg) (n : Nat) : Bool :=
  match r with
  | .v k => k.val % n == 0
  | .s k => k.val % n == 0 && decide (k.val + n ≤ 40)
  | .zr => true
  | .m _ | .q _ | .lid | .role | .bnd | .alt | .mode | .stat | .live => n == 1

end Sys2Proof

namespace Sys2Proof.Machine

/-! ## The mode fields (03 Table 3-4) -/

/-- TYPE. -/
def Gang.etype (g : Gang) : Option EType := EType.ofNum (g.mode.extractLsb' 0 4)

/-- RND. `mode` never holds a reserved code (03 R72, 17 R266); one is read as RNE. -/
def Gang.rnd (g : Gang) : RMode := (RMode.ofNum (g.mode.extractLsb' 4 3)).getD .rne

/-- SAT. -/
def Gang.sat (g : Gang) : Bool := g.mode.getLsbD 7

/-- COMP. -/
def Gang.comp (g : Gang) : Bool := g.mode.getLsbD 12

/-- FLUSH. -/
def Gang.flush (g : Gang) : Bool := g.mode.getLsbD 13

/-- Whether TYPE makes `min`, `max`, `mulh` and the atomics unsigned (03 R72). -/
def Gang.unsignedType (g : Gang) : Bool := (g.etype.map EType.unsigned).getD false

/-- How an instruction executes, from its destination and sources (03 R58). -/
def vectorWise (d : Reg) (srcs : List Reg) : Bool := d.isV || (d.isZ && srcs.any Reg.isV)

/-! ## Reading and writing -/

/-- A register as one lane sees it, 32 bits (07 R131). -/
def Gang.opnd32 (g : Gang) (r : Reg) (lane : Nat) : Word :=
  match r with
  | .v n => g.vreg n.val lane
  | .s n => (g.sreg n.val).setWidth 32
  | .m n => g.mreg n.val
  | .q _ => 0
  | .zr => 0
  | .lid => BitVec.ofNat 32 lane
  | .role => g.role.setWidth 32
  | .bnd => g.bound lane
  | .alt => KV.get g.alt lane 0
  | .mode => g.mode.setWidth 32
  | .stat => g.stat.setWidth 32
  | .live => g.live

/-- A register held once per gang, 64 bits (07 R131). -/
def Gang.opnd64 (g : Gang) (r : Reg) : Dword :=
  match r with
  | .s n => g.sreg n.val
  | .m n => (g.mreg n.val).setWidth 64
  | .role => g.role.setWidth 64
  | .mode => g.mode.setWidth 64
  | .stat => g.stat
  | .live => g.live.setWidth 64
  | .v _ | .q _ | .zr | .lid | .bnd | .alt => 0

/-- Base(x, i) of 07 R149: a V register zero-extended, an S register whole, zr as 0. -/
def Gang.base (g : Gang) (r : Reg) (lane : Nat) : Dword :=
  if r.isV then (g.opnd32 r lane).setWidth 64 else g.opnd64 r

/-- A 64-bit value of one lane: a pair of V registers, or the S register (05 R108). -/
def Gang.opndPair (g : Gang) (r : Reg) (lane : Nat) : Dword :=
  if r.isV then g.opnd32 (r.plus 1) lane ++ g.opnd32 r lane else g.opnd64 r

/-- Writes a lane of a vector destination; zr discards. -/
def Gang.writeV (g : Gang) (d : Reg) (lane : Nat) (w : Word) : Gang :=
  match d with
  | .v n => g.setV n.val lane w
  | .s _ | .m _ | .q _ | .zr | .lid | .role | .bnd | .alt | .mode | .stat | .live => g

/-- Writes a pair of vector registers of a lane. -/
def Gang.writeVPair (g : Gang) (d : Reg) (lane : Nat) (w : Dword) : Gang :=
  if d.isZ then g
  else (g.writeV d lane (w.setWidth 32)).writeV (d.plus 1) lane (w.extractLsb' 32 32)

/-- Writes a scalar destination; zr discards. -/
def Gang.writeS (g : Gang) (d : Reg) (w : Dword) : Gang :=
  match d with
  | .s n => g.setS n.val w
  | .stat => { g with stat := w }
  | .v _ | .m _ | .q _ | .zr | .lid | .role | .bnd | .alt | .mode | .live => g

/-- Writes a mask destination in the lanes given; zr discards (07 R133). -/
def Gang.writeMask (g : Gang) (d : Reg) (lanes w : Word) : Gang :=
  match d with
  | .m n => g.writeM n.val lanes w
  | .v _ | .s _ | .q _ | .zr | .lid | .role | .bnd | .alt | .mode | .stat | .live => g

/-- Applies a function once per lane of a mask, in increasing lane order. -/
def Gang.forLanes (g : Gang) (w : Word) (f : Gang → Nat → Gang) : Gang := (lanesOf w).foldl f g

/-! ## Tests of Table 3-10 -/

/-- The tests of one instruction in the orders 1 to 5 of Table 3-10. Of the orders 2 to 5, every register that meets the
condition: the spec does not say which of several the trap names (log 18). -/
structure Tests where
  o1 : Option Trap := none
  o2 : List Trap := []
  o3 : List Trap := []
  o4 : List Trap := []
  o5 : List Trap := []

/-- ILLOP with a reason, when a condition holds. -/
def illopIf (b : Bool) (reason : Nat) : Option Trap := if b then some (.illop reason) else none

/-- ILLOP reason 1 unless TYPE is one of those listed (03 R72). -/
def Gang.typeTest (g : Gang) (ok : EType → Bool) : Option Trap :=
  match g.etype with
  | some t => illopIf (!ok t) 1
  | none => some (.illop 1)

/-- TYPE codes 0 to 13 (07 R132). -/
def Gang.anyType (g : Gang) : Option Trap := g.typeTest fun _ => true

/-- ILLREG for the operands whose class is not accepted (03 R57, Table 17-6). -/
def illreg : List (Reg × Nat × Bool) → List Trap
  | [] => []
  | (r, f, ok) :: rest => if ok then illreg rest else .illreg r.num.toNat f :: illreg rest

/-- REGBOUND for the named registers at or above the bound (03 R59). -/
def Gang.boundTest (g : Gang) : List Reg → List Trap
  | [] => []
  | .v n :: rest => if g.regBound ≤ n.val then .regbound n.val :: g.boundTest rest else g.boundTest rest
  | .s _ :: rest | .m _ :: rest | .q _ :: rest | .zr :: rest | .lid :: rest | .role :: rest | .bnd :: rest
  | .alt :: rest | .mode :: rest | .stat :: rest | .live :: rest => g.boundTest rest

/-- HAZARD for the registers Pending in a lane of the mask, or for the gang (01 R33). -/
def Gang.hazardTest (g : Gang) (lanes : Word) : List Reg → List Trap
  | [] => []
  | r :: rest =>
    if (if r.isV then (lanesOf lanes).any fun i => g.isPending r i else g.isPending r 0)
    then .hazard r.num.toNat :: g.hazardTest lanes rest else g.hazardTest lanes rest

/-- The classes of an integer instruction with destination D and sources A, B (07 R140). -/
def intClasses (d : Reg) (srcs : List (Reg × Nat)) : List Trap :=
  let vw := vectorWise d (srcs.map Prod.fst)
  illreg ((d, 0, d.isVDst || d.isSDst || d.isZ) ::
    srcs.map fun p => (p.1, p.2, if vw then p.1.vecSrc else if d.isZ then p.1.isS || p.1.isZ else p.1.scaSrc))

end Sys2Proof.Machine
end

