-- ==== Sys2Proof/Machine/Mem.lean ====
section
/-! DEFINITION. Addresses and accesses: local windows (03 R65 to R70, 11 R177 to R181), page tables and TLBs (17 R287 to
R289), the L1 (11 R182 to R184), the clamp table (11 R199, R200), and fetching an instruction's word (03 R74). -/

namespace Sys2Proof.Machine

/-! ## Fault causes (17 Table 17-9) -/

def causeTrans : Nat := 1
def causePerm : Nat := 2
def causeAlign : Nat := 3
def causeWindow : Nat := 4
def causeAddr : Nat := 5
def causeNode : Nat := 6
def causeRing : Nat := 7
def causeQuad : Nat := 8
def causeEngine : Nat := 9
def causeRange : Nat := 10
def causePte : Nat := 11

/-! ## Where an address lies -/

/-- The launch parameters of a gang. -/
def State.params (s : State) (G : Gang) : Option LaunchParams :=
  ((s.group G.group).bind fun gr => KV.find s.launches gr.launch).map fun l => l.params

/-- Groups per frame of a launch: the extent of its level 4 when its domain is the bent (01 R24). -/
def LaunchParams.frameGroups (p : LaunchParams) : Option Nat :=
  match p.levels[4]? with
  | some l => if l.domain = 4 then some l.extent else none
  | none => none

/-- Bytes of one group's share of the bent-shared memory (11 R178). -/
def LaunchParams.shareBytes (p : LaunchParams) : Nat :=
  match p.frameGroups with
  | some n => if n = 0 then 0 else ((p.shared + n - 1) / n + 1023) / 1024 * 1024
  | none => 0

/-- The group of a frame with a level-4 index, unless it has retired (11 R178). -/
def State.frameGroup (s : State) (frame : Option Nat) (index : Nat) : Option Nat :=
  (s.groups.find? fun p => p.2.frame.isSome && p.2.frame == frame && p.2.index == index && !p.2.retired).map Prod.fst

/-- The window of a local address (03 Table 3-3). -/
def window (va : Dword) : Nat := (va.extractLsb' 60 3).toNat

/-- The offset of a local address (03 Table 3-3). -/
def offset (va : Dword) : Nat := (va.extractLsb' 0 60).toNat

/-- The window of a local address, `none` for a global address. -/
def localWindow (va : Dword) : Option Nat := if va.getLsbD 63 then some (window va) else none

/-- Another module that is present and that the accepted features let the part address (R181; 23 R341, Table 23-2 bit 4). A
module that is not aligned takes no part in the fabric (23 R352). -/
def State.reachable (s : State) (n : Nat) : Bool :=
  s.fabric.present.contains n && s.hostif.feat.getLsbD 4 && s.fabric.ports != 0 && s.fabric.aligned

/-- The result of finding where an access lies, before translation. -/
inductive Located where
  | place (p : Place)
  /-- A global address of the own node, to be translated. -/
  | translate
  | fault (cause : Nat)
deriving DecidableEq, Repr

/-- Where the `size` bytes at `va` of a lane (32: scalar-wise) of a gang lie (03 R65 to R68, 11 R177 to R181). -/
def State.locate (s : State) (g : Nat) (G : Gang) (lane : Nat) (va : Dword) (size : Nat) : Located :=
  match localWindow va with
  | some 0 =>
    if lane = 32 then .fault causeWindow
    else if G.privBytes < offset va + size then .fault causeWindow
    else .place (.priv g lane (offset va))
  | some 1 => .place (.reg (offset va))
  | some 2 =>
    match s.params G with
    | some p =>
      if p.scratch < offset va + size then .fault causeWindow else .place (.scratch G.group (offset va))
    | none => .fault causeWindow
  | some 3 =>
    match s.params G, s.group G.group with
    | some p, some gr =>
      if p.shareBytes = 0 || !G.member || decide (p.shared < offset va + size) then .fault causeWindow
      else
        match s.frameGroup gr.frame (offset va / p.shareBytes) with
        | some h => .place (.share h (offset va % p.shareBytes))
        | none => .fault causeWindow
    | _, _ => .fault causeWindow
  | some 4 =>
    if (s.ctx G.ctx).carve * 2 ^ 20 < offset va + size then .fault causeWindow
    else .place (.carve G.ctx (offset va))
  | some _ => .fault causeWindow
  | none =>
    if va.extractLsb' 60 3 != 0 then .fault causeAddr
    else if va.extractLsb' 48 12 = s.node then .translate
    else if s.reachable (va.extractLsb' 48 12).toNat then .place (.remote va)
    else .fault causeNode

/-! ## Page tables (17 R287, R288) -/

/-- The outcome of a table walk. -/
inductive Walk where
  | leaf (l : Leaf)
  | fault (cause : Nat)
  /-- A table block carries a poison mark (25 Table 25-5, level 4). -/
  | poison (pa : Nat)
deriving DecidableEq, Repr

/-- A table entry. -/
def State.pte (s : State) (table idx : Nat) : Nat := s.mem.read (table + 8 * idx) 8

/-- The run size exponent c of an entry. -/
def pteRun (e : Nat) : Nat := e / 2 ^ 8 % 16

/-- Whether a valid entry of a level is malformed (R287, R288): Resv bits, a leaf bit at level 3 or 2, no leaf bit at level
0, c out of range, a base not aligned to the page size. -/
def pteMalformed (level e : Nat) : Bool :=
  let leaf := e / 2 % 2 = 1
  let c := pteRun e
  let page := 2 ^ (12 + 9 * level + c)
  e / 2 ^ 52 ≠ 0 || e / 2 ^ 5 % 2 = 1 || 2 ≤ e / 2 ^ 6 % 4 ||
    (leaf && 2 ≤ level) || (!leaf && level = 0) ||
    (if leaf then (if level = 0 then 8 < c else 6 < c) else c ≠ 0) ||
    (leaf && (e / 2 ^ 12 % 2 ^ 40 * 2 ^ 12) % page ≠ 0)

/-- The leaf that entry `e` of a level gives for the 4 KiB page of `va`. -/
def pteLeaf (level e va : Nat) : Leaf :=
  let page := 2 ^ (12 + 9 * level + pteRun e)
  { base := e / 2 ^ 12 % 2 ^ 40 * 2 ^ 12 + va % page / 4096 * 4096, noL1 := e / 2 ^ 6 % 4 = 1,
    r := e / 4 % 2 = 1, w := e / 8 % 2 = 1, x := e / 16 % 2 = 1, bits := 12 + 9 * level + pteRun e }

/-- The entries of a table that are not 0. -/
def State.tableEntries (s : State) (table : Nat) : List Nat :=
  s.mem.bytes.foldl (fun l c =>
    if table ≤ c.1 && decide (c.1 < table + 4096) then insertNat l ((c.1 - table) / 8) else l) []

/-- The exponent of the largest run of a table of a level that covers entry `idx`; 0 where none does (R288). -/
def State.runOver (s : State) (table level idx : Nat) : Nat :=
  (s.tableEntries table).foldl (fun m j =>
    let e := s.pte table j
    let c := pteRun e
    if e % 2 = 1 && decide (e / 2 % 2 = 1) && !pteMalformed level e && j / 2 ^ c == idx / 2 ^ c then max m c else m) 0

/-- The index of the entry that translates for entry `idx`: entries of a run must be identical, and when they differ one of
them does, which one is free (R288). -/
def State.runIdx (s : State) (table level idx : Nat) : Nat :=
  let n := 2 ^ s.runOver table level idx
  let first := idx / n * n
  if (List.range n).all fun j => s.pte table (first + j) = s.pte table idx then idx
  else first + Config.freeChoice s.fresh % n

/-- What the entry of a table of a level gives for `va` (R287, R288): the end of the walk, or the next table. -/
def State.walkEntry (s : State) (va level table : Nat) : Walk ⊕ Nat :=
  let idx := s.runIdx table level (va / 2 ^ (12 + 9 * level) % 512)
  let e := s.pte table idx
  if s.mem.poisoned (table + 8 * idx) 8 then .inl (.poison (table + 8 * idx))
  else if e % 2 = 0 then .inl (.fault causeTrans)
  else if pteMalformed level e then .inl (.fault causePte)
  else if e / 2 % 2 = 1 then .inl (.leaf (pteLeaf level e va))
  else .inr (e / 2 ^ 12 % 2 ^ 40 * 2 ^ 12)

/-- The physical range that an entry maps as a leaf of its level, if it is one (R287, R288). -/
def leafRange (level e : Nat) : Option (Nat × Nat) :=
  if e % 2 = 0 || pteMalformed level e || e / 2 % 2 = 0 then none
  else some (e / 2 ^ 12 % 2 ^ 40 * 2 ^ 12, 2 ^ (12 + 9 * level + pteRun e))

/-- The walk from a table of a level (R287). -/
def State.walkLevel (s : State) (va : Nat) : Nat → Nat → Walk
  | 0, table =>
    match s.walkEntry va 0 table with
    | .inl w => w
    | .inr _ => .fault causePte
  | l + 1, table =>
    match s.walkEntry va (l + 1) table with
    | .inl w => w
    | .inr t => s.walkLevel va l t

/-- The walk of a context's 48-bit local virtual address (R287). -/
def State.walk (s : State) (c : Nat) (va : Dword) : Walk :=
  s.walkLevel (va.extractLsb' 0 48).toNat 3 (s.ctx c).root

/-- The key of a page in a TLB. -/
def tlbKey (c : Nat) (vpn : Nat) : Nat := c * 2 ^ 36 + vpn

/-- The page of a global address. -/
def vpnOf (va : Dword) : Nat := (va.extractLsb' 12 36).toNat

/-- A hit in the core's L1 TLB or its bent's TLB (R289). -/
def State.tlbHit (s : State) (core c vpn : Nat) : Option Leaf :=
  match KV.find (s.core core).tlb (tlbKey c vpn) with
  | some l => some l
  | none => KV.find (s.bent (bentOf core)).tlb (tlbKey c vpn)

/-- Adds an entry to a TLB of `cap` entries; a full one drops an entry, which one is free. -/
def tlbAdd (t : KV Leaf) (cap key : Nat) (l : Leaf) (pick : Nat) : KV Leaf :=
  if (KV.find t key).isSome || decide (t.length < cap) then KV.set t key l
  else KV.set (t.eraseIdx (pick % t.length)) key l

/-- Fills the TLBs of a core and its bent (R289). -/
def State.tlbFill (s : State) (core c vpn : Nat) (l : Leaf) : State :=
  let C := s.core core
  let full := decide (64 ≤ C.tlb.length) || decide (2048 ≤ (s.bent (bentOf core)).tlb.length)
  let pick := if full then Config.freeChoice s.fresh else 0
  let s := if full then s.tick else s
  let s := s.setCore core { C with tlb := tlbAdd C.tlb 64 (tlbKey c vpn) l pick }
  let B := s.bent (bentOf core)
  s.setBent (bentOf core) { B with tlb := tlbAdd B.tlb 2048 (tlbKey c vpn) l pick }

/-- What an access needs of a page (R288). -/
structure Need where
  r : Bool
  w : Bool
  x : Bool
deriving DecidableEq, Repr

/-- Whether a leaf gives what an access needs. -/
def Leaf.allows (l : Leaf) (n : Need) : Bool := (!n.r || l.r) && (!n.w || l.w) && (!n.x || l.x)

/-- What each instruction needs (R288). -/
def OpKind.need : OpKind → Need
  | .load => ⟨true, false, false⟩
  | .store => ⟨false, true, false⟩
  | .fetch => ⟨false, false, true⟩
  | .format | .nwait => ⟨true, false, false⟩
  | .atomic _ _ _ | .fwr | .frd _ | .rclaim | .rcommit | .rawait | .rretire | .rbind | .rwr | .rwait | .calc | .rrd _
  | .steal | .pop _ | .matrix | .engine _ => ⟨true, true, false⟩

/-- An address translated for an engine or a matrix read: by a TLB entry, or by a walk that fills the TLBs. Each walk makes its
own choices (00 R6). -/
def State.translateNow (s : State) (core c : Nat) (va : Dword) (n : Need) : Walk × State :=
  match s.tlbHit core c (vpnOf va) with
  | some l => (if l.allows n then .leaf l else .fault causePerm, s)
  | none =>
    match s.walk c va with
    | .leaf l => (if l.allows n then .leaf l else .fault causePerm, s.tick.tlbFill core c (vpnOf va) l)
    | .fault f => (.fault f, s.tick)
    | .poison p => (.poison p, s.tick)

/-- The physical address of a byte of a page. -/
def Leaf.pa (l : Leaf) (va : Dword) : Nat := l.base + (va.extractLsb' 0 12).toNat

/-! ## Admission of accesses -/

/-- A fault of an access that covers the page of `va` for the accesses behind it: TRANS on its 4 KiB page, PERM on the page of
its leaf (R272, R288). -/
def Acc.blocks (a : Acc) (va : Dword) : Option Nat :=
  match a.st with
  | .fault c =>
    if (c = causeTrans || c = causePerm) && localWindow a.va = none && localWindow va = none &&
        a.va.toNat / 2 ^ a.page = va.toNat / 2 ^ a.page
    then some c else none
  | .xlate | .ready | .waiting | .refused | .sent _ | .performed => none

/-- After a lane of a split meets TRANS or PERM on a page, later accesses of the split to that page fault the same way
until the next report point (R272): those of instruction `o`, behind faults that are not yet reported. -/
def Gang.pageFault (G : Gang) (sl : BitVec 8) (o : Nat) (va : Dword) : Option Nat :=
  G.ops.findSome? fun p =>
    if decide (p.1 < o) && p.2.ofSplit sl && p.2.kind.isEngine.isNone && !(G.inHandler sl).contains p.1 then
      p.2.accs.findSome? fun q => if G.owns sl q.2 then q.2.blocks va else none
    else none

/-- An access that a TLB entry translates. -/
def Acc.withLeaf (a : Acc) (l : Leaf) (n : Need) : Acc :=
  if l.allows n then { a with place := some (.hbm (l.pa a.va)), st := .ready, noL1 := l.noL1 }
  else { a with st := .fault causePerm, page := l.bits }

/-- Admits an access at issue or at replay: it is located, and translated when a TLB holds its page (R289). -/
def State.letIn (s : State) (g : Nat) (G : Gang) (sl : BitVec 8) (n : Need) (a : Acc) : Acc :=
  match a.st with
  | .fault _ => a
  | .xlate | .ready | .waiting | .refused | .sent _ | .performed =>
    match s.locate g G a.lane a.va a.size with
    | .fault c => { a with st := .fault c }
    | .place p => { a with place := some p, st := .ready }
    | .translate =>
      match G.pageFault sl G.nextOp a.va with
      | some c => { a with st := .fault c }
      | none =>
        match s.tlbHit G.core G.ctx (vpnOf a.va) with
        | some l => a.withLeaf l n
        | none => { a with place := none, st := .xlate }

/-- A fresh access. -/
def Acc.mk' (lane : Nat) (va : Dword) (size : Nat) (data : BitVec 128) (cmp : Dword) : Acc :=
  { lane := lane, va := va, size := size, data := data, cmp := cmp, place := none, st := .xlate, ans := 0, code := 0,
    orphan := false, noL1 := false }

/-- Pages that accesses of gangs of a core wait for (R289). -/
def State.missing (s : State) (core : Nat) : List Nat :=
  s.gangs.foldl (fun l p =>
    if p.2.core = core then
      p.2.ops.foldl (fun l q =>
        q.2.accs.foldl (fun l a =>
          if a.2.st = .xlate then insertNat l (tlbKey p.2.ctx (vpnOf a.2.va)) else l) l) l
    else l) []

/-- Whether an instruction with these addresses would take the core past 32 outstanding misses, so that it waits before
issue (R289). -/
def State.missHold (s : State) (G : Gang) (vas : List Dword) : Bool :=
  let now := s.missing G.core
  let more := vas.foldl (fun l va =>
    if localWindow va = none && va.extractLsb' 48 12 = s.node && (s.tlbHit G.core G.ctx (vpnOf va)).isNone
    then insertNat l (tlbKey G.ctx (vpnOf va)) else l) now
  decide (32 < more.length) && decide (now.length < more.length)

/-- A split holds at most 32 outstanding memory instructions (R271). -/
def Gang.opHold (G : Gang) (sl : BitVec 8) : Bool :=
  decide (32 ≤ (G.ops.filter fun p => p.2.ofSplit sl && p.2.mat.isNone && (p.2.kind.memResult || p.2.kind.writes)).length)

/-! ## The L1 (11 R182 to R184) -/

/-- An L1 sector of a core. -/
def State.sector (s : State) (core pa : Nat) : Option (BitVec 256) := KV.find (s.core core).l1 (pa / 32)

/-- n bytes of a sector from byte offset o. -/
def sectorRead (w : BitVec 256) (o n : Nat) : Nat := w.toNat / 2 ^ (8 * o) % 2 ^ (8 * n)

/-- n bytes of a sector replaced. -/
def sectorWrite (w : BitVec 256) (o n v : Nat) : BitVec 256 :=
  let low := w.toNat % 2 ^ (8 * o)
  let high := w.toNat / 2 ^ (8 * (o + n))
  BitVec.ofNat 256 (low + 2 ^ (8 * o) * (v % 2 ^ (8 * n)) + 2 ^ (8 * (o + n)) * high)

/-- A store by a gang of the core updates the L1 copy at issue; it does not allocate (R183). -/
def State.l1Store (s : State) (core pa n v : Nat) : State :=
  match s.sector core pa with
  | some w =>
    let C := s.core core
    s.setCore core { C with l1 := KV.set C.l1 (pa / 32) (sectorWrite w (pa % 32) n v) }
  | none => s

/-- The lines of 128 bytes, of four sectors each, that an L1 holds (R182). -/
def l1Lines (l1 : KV (BitVec 256)) : List Nat := l1.foldl (fun l p => insertNat l (p.1 / 4)) []

/-- A load that misses allocates its sector in its line; the L1 holds 2,048 lines, and a full one displaces a line with its
sectors, which one is free (R182). -/
def State.l1Fill (s : State) (core pa : Nat) : State :=
  let C := s.core core
  let w := BitVec.ofNat 256 (s.mem.read (pa / 32 * 32) 32)
  let lines := l1Lines C.l1
  if lines.contains (pa / 128) || decide (lines.length < 2048) then s.setCore core { C with l1 := KV.set C.l1 (pa / 32) w }
  else
    let out := lines.getD (Config.freeChoice s.fresh % lines.length) 0
    s.tick.setCore core { C with l1 := KV.set (C.l1.filter fun p => p.1 / 4 != out) (pa / 32) w }

/-- Whether a sector of a physical address is one that the L1 may hold: own-node global memory only. -/
def Place.hbm? : Place → Option Nat
  | .hbm pa => some pa
  | .carve _ _ | .scratch _ _ | .share _ _ | .priv _ _ _ | .reg _ | .remote _ => none

/-! ## The clamp table (11 R199, R200) -/

/-- The CLAMP test over byte ranges of an instruction: a destination range, or a source range for one that writes. TINFO
gives the lowest trapped byte. -/
def State.clampTest (s : State) (G : Gang) (writes : Bool) (ranges : List (Dword × Nat)) : Option Trap :=
  let mine := (s.core G.core).clamps.filter fun c => c.ctx = G.ctx && (c.isDst || writes)
  let hits := ranges.foldl (fun l r =>
    mine.foldl (fun l c =>
      let lo := max c.lo r.1.toNat
      if lo < c.lo + c.len && lo < r.1.toNat + r.2 then lo :: l else l) l) []
  match hits with
  | [] => none
  | h :: t => some (.clamp (BitVec.ofNat 32 (t.foldl min h)))

/-! ## Fetch (03 R74, R87; 17 R278) -/

/-- The outcome of fetching a word. -/
inductive Fetched where
  | word (w : Word)
  | fault (cause : Nat)
  /-- No TLB holds the page. -/
  | miss
  /-- The block carries a poison mark (17 R291). -/
  | poison (pa : Nat)
deriving DecidableEq, Repr

/-- The word at a program counter of a gang, little-endian (R74); a fetch needs X (17 R288). -/
def State.fetch (s : State) (G : Gang) (pc : Dword) : Fetched :=
  if pc.extractLsb' 60 3 != 0 then .fault causeAddr
  else if pc.extractLsb' 48 12 != s.node then
    (if s.reachable (pc.extractLsb' 48 12).toNat then .fault causeTrans else .fault causeNode)
  else
    match s.tlbHit G.core G.ctx (vpnOf pc) with
    | none => .miss
    | some l =>
      if !l.x then .fault causePerm
      else if s.mem.poisoned (l.pa pc) 4 then .poison (l.pa pc)
      else .word (BitVec.ofNat 32 (s.mem.read (l.pa pc) 4))

end Sys2Proof.Machine
end

