-- ==== Sys2Proof/Machine/HomeOps.lean ====
section
/-! DEFINITION. What a home does with its memory (11 R186, R189, R203 to R205; 13 R213, R220 to R233): writes, atomics,
futures, rings, the deferral buffers, the tests of launch wait events (21 R324). The same operations serve requests of gangs,
of engines and of other modules. -/

namespace Sys2Proof.Machine

/-- The answer of a read at a key: its bytes, and code 256 when they carry a poison mark (17 R291). -/
def State.readAns (s : State) (k n : Nat) : BitVec 128 × Nat :=
  (BitVec.ofNat 128 (s.mem.read k n), if s.mem.poisoned k n then 256 else 0)

/-- The launch at the head of a queue. -/
def State.headUnit (s : State) (c q : Nat) : Option Nat := ((s.ctx c).queue q).units.head?

/-! ## Memory at a home -/

/-- Counter waits of other modules that a write to their counter satisfies are answered (13 R233); each subtraction is a write
after which events are tested (21 R324). -/
def State.serveOutside (s : State) (key n : Nat) : List Deferred → State
  | [] => s
  | d :: rest =>
    match d.ext with
    | some p =>
      (match p.op with
       | .counterWait _ thr =>
         let v := s.mem.read d.key 8
         if key < d.key + 8 && d.key < key + n && decide (thr ≤ v) then
           let s : State := { s with mem := s.mem.store d.key 8 (v - thr), deferred := s.deferred.filter fun x => x != d }
           (s.testWaits.emit (.answer p.sender p.seq true 0)).serveOutside key n rest
         else s.serveOutside key n rest
       | .load _ _ | .store _ _ _ | .atomic _ _ _ _ _ _ | .futureWrite _ _ | .futureRead _ _ | .ringClaim _ _ _
       | .ringCommit _ _ | .ringAwait _ _ _ | .ringRetire _ _ | .ringBind _ | .ringBreak _ _ | .write _ _ | .read _ _
       | .ridge _ _ | .exchange _ _ _ _ | .withdraw _ _ =>
         s.serveOutside key n rest)
    | none => s.serveOutside key n rest

/-- Clears the marks of blocks of which one store instruction has written every byte, by its ranges (17 R290). -/
def Memory.clearCover (m : Memory) (l : List (Nat × Nat)) : Memory :=
  { m with poison := m.poison.filter fun b =>
      !(List.range 32).all fun i => l.any fun r => decide (r.1 ≤ b * 32 + i) && decide (b * 32 + i < r.1 + r.2) }

/-- A write at a home: the events that watch its bytes are tested before anything else changes them (21 R324). -/
def State.homeWrite (s : State) (key n v : Nat) : State :=
  ({ s with mem := s.mem.store key n v } : State).testWaits.serveOutside key n s.deferred

/-- The result of an atomic on w-bit numbers (13 Table 13-1, R214). -/
def atomicResult (op : AtomicOp) (signed : Bool) (size old x cmp : Nat) : Nat :=
  let w := 8 * size
  let n := 2 ^ w
  let less (a b : Nat) : Bool := if signed then decide ((BitVec.ofNat w a).toInt < (BitVec.ofNat w b).toInt) else decide (a < b)
  match op with
  | .add => (old + x) % n
  | .min => if less x old then x else old
  | .max => if less old x then x else old
  | .and => old &&& x
  | .or => old ||| x
  | .xor => old ^^^ x
  | .xch => x
  | .cas => if old = cmp then x else old
  | .fadd =>
    let f := if size = 8 then fp64 else fp32
    f.rn (FV.add .rne (f.value old) (f.value x))

/-- An atomic at a home: the old value, and code 256 when the block carries a poison mark and it is not performed (17
R291). -/
def State.homeAtomic (s : State) (op : AtomicOp) (signed : Bool) (key size x cmp : Nat) : Nat × Nat × State :=
  let old := s.mem.read key size
  if s.mem.poisoned key size then (old, 256, s)
  else (old, 0, s.homeWrite key size (atomicResult op signed size old (x % 2 ^ (8 * size)) (cmp % 2 ^ (8 * size))))

/-- A counter's addition of 1, a read-modify-write (13 R232, 23 R356). -/
def State.countUp (s : State) (key : Nat) : Nat × State :=
  let r := s.homeAtomic .add false key 8 1 0
  (r.2.1, r.2.2)

/-! ## The deferral buffers (11 R204, 13 R226) -/

/-- Whether the slice of a key has a free entry of its 64. -/
def State.bufferRoom (s : State) (key : Nat) : Bool :=
  decide ((s.deferred.filter fun d => d.slice = s.sliceOf key).length < 64)

/-- Holds a request at its home. -/
def State.hold (s : State) (d : Deferred) : State := { s with deferred := s.deferred ++ [d] }

/-! ## Futures (11 R204, 13 R220, R221) -/

/-- Whether an instruction is a future read, and whether it consumes. -/
def OpKind.frdOf : OpKind → Option Bool
  | .frd c => some c
  | .load | .store | .atomic _ _ _ | .fwr | .rclaim | .rcommit | .rawait | .rretire | .rbind | .rwr | .rwait | .calc
  | .rrd _ | .steal | .pop _ | .matrix | .format | .fetch | .engine _ | .nwait => none

/-- Answers the deferred reads of a cell in arrival order, up to and including the first that consumes (11 R204). -/
def State.answerCell (s : State) (key : Nat) : List Deferred → State
  | [] => s
  | d :: rest =>
    let r := s.readAns key 8
    let s := { s with deferred := s.deferred.filter fun x => x != d }
    let consumes := d.kind.frdOf.getD false
    let s := s.answerHeld d r.1 r.2
    if consumes then { s with mem := s.mem.setFull key false } else s.answerCell key rest

/-- `fwr` at its home: the code it answers. -/
def State.homeFwr (s : State) (key v : Nat) : Nat × State :=
  if s.mem.isFull key then (4, s)
  else
    let s := s.homeWrite key 8 v
    let s := { s with mem := s.mem.setFull key true }
    (0, s.answerCell key (s.deferred.filter fun d => d.key = key && d.kind.frdOf.isSome))

/-- What a home answers to a request: a value and a code, a wait, or a full buffer. -/
inductive Answer where
  | value (v : BitVec 128) (code : Nat)
  | waits
  | full
  | fault (cause : Nat)
  | poison (key : Nat)

/-- `frd` and `frd.c` at their home; a waiting one is to be held by the caller. -/
def State.homeFrd (s : State) (key : Nat) (consume : Bool) : Answer × State :=
  if s.mem.isFull key then
    let r := s.readAns key 8
    (.value r.1 r.2, if consume then { s with mem := s.mem.setFull key false } else s)
  else if s.bufferRoom key then (.waits, s)
  else (.value 0 3, s)

/-! ## Rings (13 R223 to R229) -/

/-- Reads 8 bytes of a control block. -/
def State.ringWord (s : State) (key o : Nat) : Nat := s.mem.read (key + o) 8

/-- Writes a count of a control block. -/
def State.setRingWord (s : State) (key o v : Nat) : State := s.homeWrite (key + o) 8 v

/-- The size Z of a ring. -/
def State.ringSize (s : State) (key : Nat) : Nat := s.mem.read (key + 8) 4

/-- A control block whose Z, base or Resv bits are wrong (13 R229). -/
def State.ringBad (s : State) (key : Nat) : Bool :=
  s.ringSize key = 0 || 2 ^ 24 < s.ringSize key || s.ringWord key 0 % 64 ≠ 0 || 2 ≤ s.mem.read (key + 12) 4 ||
    s.mem.read (key + 0x30) 16 ≠ 0

/-- The claim lists of a ring. -/
def State.ringHome (s : State) (key : Nat) : RingHome := KV.get s.rings key RingHome.init

/-- Replaces the claim lists of a ring. -/
def State.setRingHome (s : State) (key : Nat) (R : RingHome) : State := { s with rings := KV.set s.rings key R }

/-- Offsets of the four counts (13 Table 13-7). -/
def offPC : Nat := 0x10
def offPM : Nat := 0x18
def offCC : Nat := 0x20
def offCR : Nat := 0x28

/-- Grants a claim or an await of n granules, if it can be granted now: its ticket (13 Table 13-8). -/
def State.grant (s : State) (key : Nat) (claim : Bool) (n g : Nat) (from_ : Option (BitVec 12)) : Option (Nat × State) :=
  let R := s.ringHome key
  if claim then
    let pc := s.ringWord key offPC
    if pc + n ≤ s.ringWord key offCR + s.ringSize key && R.prod.length < 32 then
      some (pc, (s.setRingWord key offPC (pc + n)).setRingHome key
        { R with prod := R.prod ++ [{ t := pc, n := n, mark := false, gang := g, sender := from_ }] })
    else none
  else
    let cc := s.ringWord key offCC
    if cc + n ≤ s.ringWord key offPM && R.cons.length < 32 then
      some (cc, (s.setRingWord key offCC (cc + n)).setRingHome key
        { R with cons := R.cons ++ [{ t := cc, n := n, mark := false, gang := g, sender := from_ }] })
    else none

/-- What a held request asks of a ring: whether it is a claim, and its n. -/
def Deferred.ring (d : Deferred) : Option (Bool × Nat) := d.ringWaiter.map fun c => (c, d.n)

/-- The gang that a held claim or await is for, as its own module numbers it. -/
def Deferred.holder (d : Deferred) : Nat :=
  match d.ext with
  | some p =>
    (match p.op with
     | .ringClaim _ _ g => g
     | .ringAwait _ _ g => g
     | .load _ _ | .store _ _ _ | .atomic _ _ _ _ _ _ | .futureWrite _ _ | .futureRead _ _ | .ringCommit _ _
     | .ringRetire _ _ | .ringBind _ | .ringBreak _ _ | .write _ _ | .read _ _ | .counterWait _ _ | .ridge _ _
     | .exchange _ _ _ _ | .withdraw _ _ => d.g)
  | none => d.g

/-- Serves the waiting claims, or awaits, of a ring in arrival order, up to the first that cannot be (13 R226). -/
def State.serveRing (s : State) (key : Nat) (claim : Bool) : List Deferred → State
  | [] => s
  | d :: rest =>
    match d.ring with
    | some (c, n) =>
      if c != claim then s.serveRing key claim rest
      else
        (match s.grant key claim n d.holder (d.ext.map Packet.sender) with
         | none => s
         | some (t, s) =>
           let s := { s with deferred := s.deferred.filter fun x => x != d }
           (s.answerHeld d (BitVec.ofNat 128 t) 0).serveRing key claim rest)
    | none => s.serveRing key claim rest

/-- Requests held on a key, in order of arrival. -/
def State.heldOn (s : State) (key : Nat) : List Deferred := s.deferred.filter fun d => d.key = key

/-- Serves both kinds of waiters, unless the control block reads as poison (25 Table 25-5). -/
def State.serveBoth (s : State) (key : Nat) : State :=
  if s.mem.poisoned key 64 then s
  else
    let s := s.serveRing key true (s.heldOn key)
    s.serveRing key false (s.heldOn key)

/-- Requests leave the homes that hold them, and those that waited behind them are served where they can be (13 R222,
R226). -/
def State.withdrawHeld (s : State) (out : Deferred → Bool) : State :=
  let gone := s.deferred.filter out
  let s := { s with deferred := s.deferred.filter fun d => !out d }
  gone.foldl (fun s d => if d.ringWaiter.isSome then s.serveBoth d.key else s) s

/-- Removes a packet, with a withdrawal of what it asks for. -/
def State.dropPacket (s : State) (id : Nat) : State :=
  { s with fabric := { s.fabric with packets := (KV.del s.fabric.packets id).filter fun p => !p.2.withdraws id } }

/-- Applies a function to the accesses of an instruction that a packet carries; orphans of them go, and so does what it
answers `none` for. -/
def Gang.onPacket (G : Gang) (o id : Nat) (f : Op → Acc → Option Acc) : Gang :=
  match KV.find G.ops o with
  | none => G
  | some op =>
    let accs := op.accs.filterMap fun p =>
      if p.2.st = .sent id then (if p.2.orphan then none else (f op p.2).map fun a => (p.1, a)) else some p
    if accs.isEmpty then { G with ops := KV.del G.ops o } else { G with ops := KV.set G.ops o { op with accs := accs } }

/-- A request that has been withdrawn from another module before it was answered is to be sent again (13 R222): its packet is
not sent any more. -/
def State.withdrawn (s : State) (g o id : Nat) : State :=
  (s.dropPacket id).modGang g fun G => G.onPacket o id fun _ a => some { a with st := .refused }

/-- The requests of a gang that may wait at a home in another module: instruction, access and packet (13 R222, R226, R233). -/
def Gang.sentWaits (G : Gang) : List (Nat × Nat × Nat) :=
  G.ops.flatMap fun p =>
    if p.2.kind.withdrawn then
      p.2.accs.filterMap fun q =>
        match q.2.st with
        | .sent id => some (p.1, q.1, id)
        | .xlate | .ready | .waiting | .refused | .performed | .fault _ => none
    else []

/-- Withdraws the requests of a gang from other modules (13 R222, R226): one that has not left the module at once, any other by a
packet of its own, whose answer tells whether the home had answered before. -/
def State.withdrawFar (s : State) (g : Nat) : State :=
  match s.gang g with
  | none => s
  | some G =>
    G.sentWaits.foldl (fun s x =>
      match KV.find s.fabric.packets x.2.2 with
      | none => s
      | some p =>
        if !p.left then s.withdrawn g x.1 x.2.2
        else if s.fabric.packets.any fun q => q.2.withdraws x.2.2 then s
        else
          match s.send G.ctx p.dest p.cls0 (.withdraw g x.1 x.2.1 x.2.2) (.withdraw x.2.2 p.stamp) with
          | some (_, s) => s
          | none => s) s

/-- Whether a request of a kind already waits on a ring. -/
def State.ringQueue (s : State) (key : Nat) (claim : Bool) : Bool :=
  (s.heldOn key).any fun d => d.ring.map Prod.fst = some claim

/-- `rclaim` and `rawait` at the ring's home (13 R225, R226, R229). -/
def State.homeClaim (s : State) (key : Nat) (claim : Bool) (n g : Nat) (from_ : Option (BitVec 12)) : Answer × State :=
  if s.mem.poisoned key 64 then (.poison key, s)
  else if s.ringBad key then (.fault causeRing, s)
  else if s.ringBroken key then (if claim then (.value 0xFFFFFFFFFFFFFFFF#128 0, s) else (.value 0 5, s))
  else if n = 0 || s.ringSize key < n then (.fault causeRing, s)
  else
    match (if s.ringQueue key claim then none else s.grant key claim n g from_) with
    | some (t, s) => (.value (BitVec.ofNat 128 t) 0, s)
    | none => if s.bufferRoom key then (.waits, s) else (.full, s)

/-- Drops the leading marked claims of a list, and gives the count after the last of them. -/
def advance : List RingClaim → Nat → List RingClaim × Nat
  | [], n => ([], n)
  | c :: r, n => if c.mark then advance r (c.t + c.n) else (c :: r, n)

/-- Marks the claim of a ticket; `none` when no unmarked one matches. -/
def markTicket (l : List RingClaim) (t : Nat) : Option (List RingClaim) :=
  if l.any fun c => c.t == t && !c.mark then
    some (l.map fun c => if c.t == t then { c with mark := true } else c)
  else none

/-- `rcommit` and `rretire` at the ring's home (13 R225, R229). -/
def State.homeCommit (s : State) (key : Nat) (commit : Bool) (t : Nat) : Answer × State :=
  if s.mem.poisoned key 64 then (.poison key, s)
  else if s.ringBad key then (.fault causeRing, s)
  else if s.ringBroken key then (.value 0 (if commit then 0 else 5), s)
  else
    let R := s.ringHome key
    match markTicket (if commit then R.prod else R.cons) t with
    | none => (.fault causeRing, s)
    | some l =>
      let o := if commit then offPM else offCR
      let (l, n) := advance l (s.ringWord key o)
      let s := (s.setRingWord key o n).setRingHome key (if commit then { R with prod := l } else { R with cons := l })
      (.value 0 0, s.serveBoth key)

end Sys2Proof.Machine
end

