-- ==== Sys2Proof/Machine/Cancel.lean ====
section
/-! DEFINITION. The search state of lanes: braces and the trail in the lane-private region (19 R295 to R299), the ridge test
(19 R301, R306), `Fail` (19 R312) and cancellation (19 R307). -/

namespace Sys2Proof.Machine

/-! ## The lane-private region -/

/-- The key of a byte of a lane's region. -/
def privKey (g lane off : Nat) : Nat := ((g * 32 + lane) * 8 + 4) * 2 ^ 52 + off

/-- Reads n bytes of a lane's region. -/
def State.privRead (s : State) (g lane off n : Nat) : Nat := s.mem.read (privKey g lane off) n

/-- Writes n bytes of a lane's region. -/
def State.privWrite (s : State) (g lane off n v : Nat) : State := { s with mem := s.mem.store (privKey g lane off) n v }

/-- A brace record (Table 19-2). -/
structure Brace where
  remaining : Nat
  next  : Nat
  mark  : Nat
  bound : Word
  mask  : BitVec 16
  resv  : Bool
  reg   : List Word

/-- The brace record at an offset of a lane's region. -/
def State.brace (s : State) (g lane off : Nat) : Brace :=
  let rd (o n : Nat) := s.privRead g lane (off + o) n
  { remaining := rd 0 4, next := rd 4 4, mark := rd 8 4, bound := BitVec.ofNat 32 (rd 12 4),
    mask := BitVec.ofNat 16 (rd 16 2), resv := rd 18 14 != 0,
    reg := (List.range 16).map fun j => BitVec.ofNat 32 (rd (32 + 4 * j) 4) }

/-- A malformed brace record (R299). -/
def Brace.malformed (b : Brace) (tb bt : Nat) : Bool :=
  b.resv || decide (b.mark < tb) || decide (bt < b.mark) || decide (b.mark % 16 ≠ 0)

/-- A trail entry (Table 19-3). -/
structure TrailEntry where
  addr : Nat
  old  : Nat
  code : Nat
  resv : Bool

/-- The trail entry at an offset of a lane's region. -/
def State.trail (s : State) (g lane off : Nat) : TrailEntry :=
  let w := s.privRead g lane (off + 12) 4
  { addr := s.privRead g lane off 8, old := s.privRead g lane (off + 8) 4, code := w % 4, resv := w / 4 != 0 }

/-- Bytes of a trail entry's size code. -/
def TrailEntry.size (e : TrailEntry) : Nat := 2 ^ e.code

/-- A malformed trail entry (R299). -/
def TrailEntry.malformed (e : TrailEntry) (tb : Nat) : Bool :=
  e.resv || decide (e.code = 3) || decide (e.addr < 2 ^ 63) || decide (2 ^ 63 + tb ≤ e.addr) ||
    decide (e.addr % e.size ≠ 0)

/-- `Undo` of the entries of a lane from TT down to a mark, newest first (R312); `none` when one is malformed. The entries
are those of lane `src`, undone in lane `dst` (R316). -/
def State.undoTo (g src dst tb mark : Nat) : Nat → Nat → State → Option State
  | 0, _, s => some s
  | fuel + 1, tt, s =>
    if tt ≤ mark then some s
    else
      let e := s.trail g src (tt - 16)
      if e.malformed tb then none
      else State.undoTo g src dst tb mark fuel (tt - 16) (s.privWrite g dst (e.addr - 2 ^ 63) e.size e.old)

/-! ## Ridge tests -/

/-- Better(x, y) of R301. -/
def better (isMax : Bool) (x y : Word) : Word :=
  if isMax then (if x.slt y then y else x) else (if y.slt x then y else x)

/-- Whether c dominates b (R301). -/
def dominates (isMax : Bool) (c b : Word) : Bool := if isMax then b.sle c else c.sle b

/-- A core's copy of a ridge register (R302). -/
def State.ridgeCopy (s : State) (core c k : Nat) : Word :=
  KV.get (s.core core).ridge (c * 16 + k) ((s.ctx c).ridge k).val

/-- What `rrd` reads: the core's copy, 0 for a register that is not enabled (R305, Table 19-4). -/
def State.ridgeValue (s : State) (G : Gang) (k : Nat) : Word :=
  if ((s.ctx G.ctx).ridge k).cfg.enable then s.ridgeCopy G.core G.ctx k else 0

/-- The gang's ridge binding when it and its register are enabled (R306): the sense and the core's copy. -/
def State.binding (s : State) (G : Gang) : Option (Bool × Word) :=
  match G.ridge with
  | none => none
  | some k =>
    let r := (s.ctx G.ctx).ridge k.val
    if r.cfg.enable then some (r.cfg.isMax, s.ridgeCopy G.core G.ctx k.val) else none

/-- A thief whose copy has not landed: it is settled at an issue after that (19 Table 19-8). -/
def Gang.stealing (G : Gang) (i : Nat) : Bool :=
  G.ops.any fun p => p.2.kind = .steal && p.2.accs.any fun q => q.2.lane = i

/-- Whether lane i of the split with slices `sl` is cancelled at this issue (R306). -/
def State.cancels (s : State) (G : Gang) (sl : BitVec 8) (i : Nat) : Bool :=
  match s.binding G with
  | none => false
  | some (isMax, c) =>
    G.inSlices sl i && G.live.getLsbD i && G.searchOf i != .idle && G.st != .trap && !G.prot && !G.isPending .bnd i && !G.stealing i &&
      dominates isMax c (G.bound i)

/-! ## Fail (R312) -/

/-- The bits of m0 of one lane cleared. -/
def Gang.clearM0 (G : Gang) (lane : Nat) : Gang := G.setM 0 (G.mreg 0 &&& ~~~BitVec.twoPow 32 lane)

/-- The registers a brace saved, restored in a lane; registers at or above the bound are skipped (R312). -/
def Gang.restoreBrace (G : Gang) (lane : Nat) (b : Brace) : Gang :=
  (List.range 16).foldl (fun G j =>
    if b.mask.getLsbD j && decide (j < G.regBound) then G.setV j lane (b.reg.getD j 0) else G) G

/-- `Fail(i)`; `none` when it would read a malformed record (R299). -/
def State.failLane (g lane : Nat) : Nat → State → Option State
  | 0, s => some s
  | fuel + 1, s =>
    match s.gang g with
    | none => some s
    | some G =>
      let bt := G.btOf lane
      if bt = G.privBytes then
        some (s.modGang g fun G =>
          ({ G with tt := KV.set G.tt lane G.tb, search := KV.set G.search lane .idle }).clearM0 lane)
      else
        let b := s.brace g lane bt
        if b.malformed G.tb bt then none
        else
          match State.undoTo g lane lane G.tb b.mark 256 (G.ttOf lane) s with
          | none => none
          | some s =>
            let s := s.modGang g fun G => { G with tt := KV.set G.tt lane (min (G.ttOf lane) b.mark) }
            let drop : Bool := b.remaining = 0 || (match s.binding G with
              | some (isMax, c) => dominates isMax c b.bound
              | none => false)
            if drop then
              State.failLane g lane fuel (s.modGang g fun G => { G with bt := KV.set G.bt lane (bt + 96) })
            else
              let s := s.modGang g fun G =>
                (((G.restoreBrace lane b).setBnd lane b.bound).setAlt lane (BitVec.ofNat 32 b.next))
              let s := s.privWrite g lane (bt + 4) 4 (b.next + 1)
              let s := s.privWrite g lane bt 4 (b.remaining - 1)
              some (s.modGang g fun G =>
                ({ G with
                    bt := if b.remaining = 1 then KV.set G.bt lane (bt + 96) else G.bt
                    search := KV.set G.search lane .pend }).clearM0 lane)

/-- `Fail(i)` with room for every brace a region can hold. -/
def State.failLane' (s : State) (g lane : Nat) : Option State := State.failLane g lane 64 s

/-! ## Cancellation (R307) -/

/-- Clears Pending of every register of a lane. -/
def Gang.clearLanePending (G : Gang) (lane : Nat) : Gang :=
  { G with pend := G.pend.filter fun p => !((Reg.ofNum (BitVec.ofNat 8 (p.1 / 32))).isV && p.1 % 32 == lane) }

/-- What becomes of one access of a cancelled or failed lane: `none` drops it. A write that has left the core stands and
its response is discarded (R307). With `keep`, every write stands (R312). -/
def Gang.cancelAcc (G : Gang) (o : Nat) (op : Op) (keep left : Bool) (a : Acc) : Option Acc :=
  if op.kind.writes && !a.st.isFault && (keep || G.hasLeft o op left a) then some { a with orphan := true } else none

/-- An instruction whose requests a cancelled lane does not take away: a remote write stands whole, formed at issue (13
Table 13-14), and a matrix instruction belongs to no single lane (15 Table 15-7). -/
def Op.standsWhole (op : Op) : Bool := op.mat.isSome || op.kind = .rwr

/-- The accesses of an instruction after its lane is cancelled. -/
def Gang.cancelOp (G : Gang) (lane : Nat) (keep left : Bool) (o : Nat) (op : Op) : Op :=
  if op.standsWhole then op
  else
    { op with accs := op.accs.filterMap fun p =>
        if p.2.lane = lane then (G.cancelAcc o op keep left p.2).map fun a => (p.1, a) else some p }

/-- The outstanding instructions after a lane is cancelled; one left with no access ends. -/
def Gang.cancelOps (G : Gang) (lane : Nat) (keep left : Bool) : Gang :=
  { G with ops := G.ops.filterMap fun p =>
      let op := G.cancelOp lane keep left p.1 p.2
      if op.accs.isEmpty && op.mat.isNone then none else some (p.1, op) }

/-- Stores of a cancelled lane that are dropped after they updated the L1 at issue. -/
def Gang.cancelledStores (G : Gang) (lane : Nat) (left : Bool) : List Acc :=
  G.ops.flatMap fun p =>
    if p.2.kind = .store then
      (p.2.accs.filter fun q => q.2.lane = lane && q.2.st = .ready && !G.hasLeft p.1 p.2 left q.2).map Prod.snd
    else []

/-- The rows of a cancelled lane in outstanding matrix instructions take the values they held when the oldest Pending
instruction on the tile issued, and the lane leaves them (15 Table 15-7). -/
def Gang.cancelRows (G : Gang) (lane : Nat) : Gang :=
  let mine (m : Mat) : Bool := m.rows.getLsbD lane
  let G := G.ops.foldl (fun G p =>
    match p.2.mat with
    | some m =>
      if mine m then
        m.orig.foldl (fun G q => if q.1 % 32 = lane then G.setV (q.1 / 32) lane q.2 else G) G
      else G
    | none => G) G
  { G with ops := G.ops.map fun p =>
      (p.1, { p.2 with mat := p.2.mat.map fun m => { m with rows := m.rows &&& ~~~BitVec.twoPow 32 lane } }) }

/-- The tag of a lane (Table 19-6): valid, core, gang slot, lane, incarnation. -/
def Gang.laneTag (G : Gang) (lane : Nat) : Word :=
  BitVec.ofNat 32 (2 ^ 31 + G.core % 256 * 2 ^ 23 + G.slot % 64 * 2 ^ 17 + lane % 32 * 2 ^ 12 + G.inc.toNat)

/-- Cancels a lane (R307); `none` when its `Fail` would read a malformed record. -/
def State.cancelLane (s : State) (g lane : Nat) : Option State :=
  match s.gang g with
  | none => some s
  | some G =>
    let open_ := G.ops.any fun p => p.2.kind.writes && p.2.accs.any fun q => q.2.lane = lane && q.2.st = .ready
    let left := open_ && Config.freeChoice s.fresh % 2 = 1
    let t := if open_ then s.tick else s
    let t := t.modGang g fun G => ((G.cancelOps lane false left).cancelRows lane).clearLanePending lane
    let t := t.l1Forget G.core (G.cancelledStores lane left)
    match t.failLane' g lane with
    | none => none
    | some t => some { t with removals := t.removals ++ [{ ctx := G.ctx, tag := G.laneTag lane }] }

/-- Settles the cancellation of a split's lanes (R87, R306, R309). Lanes whose `Fail` would read a malformed record stay
unsettled (R299). -/
def State.settle (s : State) (g k : Nat) : State :=
  match s.gang g with
  | none => s
  | some G =>
    match KV.find G.splits k with
    | none => s
    | some sp =>
      lanes32.foldl (fun t i => if s.cancels G sp.slices i then (t.cancelLane g i).getD t else t) s

/-- The lanes of a split that are still cancelled after `settle`: those with a malformed record (R299). -/
def State.unsettled (s : State) (G : Gang) (sl : BitVec 8) : Word := maskOf fun i => s.cancels G sl i

end Sys2Proof.Machine
end

