-- ==== Sys2Proof/Machine/EngineOps.lean ====
section
/-! DEFINITION. Shared operations of the engines: byte ranges, the range tests (17 R254), moving bytes (17 R255, R262), and
taking requests from queue registers (17 R258 to R260, 23 R355). -/

namespace Sys2Proof.Machine

/-! ## Fault records (17 R274) -/

/-- The bits read, write, read-modify-write of Table 17-8 (log 9). -/
def OpKind.dirBits : OpKind → Bool × Bool × Bool
  | .load | .fetch | .format | .nwait | .matrix | .pop _ | .calc | .rrd _ | .steal | .engine _ =>
    (true, false, false)
  | .store | .rwr => (false, true, false)
  | .frd c => if c then (false, false, true) else (true, false, false)
  | .atomic _ _ _ | .fwr | .rclaim | .rcommit | .rawait | .rretire | .rbind | .rwait => (false, false, true)

/-- The cause of an access. -/
def AccSt.cause : AccSt → Nat
  | .fault c => c
  | .xlate | .ready | .waiting | .refused | .sent _ | .performed => 0

/-- The one record of an instruction with faulting lanes (17 R274). -/
def Op.record (id : Nat) (op : Op) : FaultRec :=
  let bad := op.badAccs
  let causes := bad.map fun p => p.2.st.cause
  let cause :=
    if causes.contains causeTrans then causeTrans
    else if causes.contains causePerm then causePerm
    else if causes.contains causePte then causePte
    else causes.foldl min 255
  let first := bad.foldl (fun (b : Option Acc) p =>
    if p.2.st.cause = cause then
      match b with
      | some a => if p.2.lane < a.lane then some p.2 else some a
      | none => some p.2
    else b) none
  let lanes : Word :=
    if bad.any fun p => p.2.lane = 32 then 0xFFFFFFFF#32
    else maskOf fun i => bad.any fun p => p.2.lane = i
  let (rd, wr, rmw) := op.kind.dirBits
  { addr := match first with | some a => a.va | none => 0
    pc := match op.kind.isEngine with | some h => h | none => op.pc
    lanes := if op.kind.isEngine.isSome then 0 else lanes
    word := match op.kind with
      | .fetch => 0
      | .load | .store | .atomic _ _ _ | .fwr | .frd _ | .rclaim | .rcommit | .rawait | .rretire | .rbind | .rwr | .rwait
      | .calc | .rrd _ | .steal | .pop _ | .matrix | .format | .engine _ | .nwait => (encode op.instr).getD 0
    cause := cause, rd := rd, wr := wr, rmw := rmw, eng := op.kind.isEngine.isSome, op := id }

/-- The 32 bytes of a record (Table 17-8), with the core, gang slot, context and incarnation of its gang. -/
def FaultRec.doublewords (r : FaultRec) (G : Gang) : List Dword :=
  let bits := (if r.rd then 1 else 0) + (if r.wr then 2 else 0) + (if r.rmw then 4 else 0) + (if r.eng then 8 else 0)
  let place := G.core % 256 * 256 + G.slot % 64 * 4
  [r.addr, r.pc, r.word ++ r.lanes,
   BitVec.ofNat 64 (r.cause + bits * 2 ^ 8 + place * 2 ^ 16 + (G.ctx % 64 * 2 ^ 12 + G.inc.toNat) * 2 ^ 32)]

/-- Whether a cause goes to the device OS (Table 17-9). -/
def osCause (c : Nat) : Bool := c = causeTrans || c = causePerm || c = causePte

/-! ## Ranges of bytes done -/

/-- Adds [a, b) to a rising list of disjoint ranges. -/
def ivlAdd : List (Nat × Nat) → Nat → Nat → List (Nat × Nat)
  | [], a, b => [(a, b)]
  | (x, y) :: r, a, b =>
    if b < x then (a, b) :: (x, y) :: r
    else if y < a then (x, y) :: ivlAdd r a b
    else ivlAdd r (min a x) (max b y)

/-- Whether a byte is in the ranges. -/
def ivlMem (l : List (Nat × Nat)) (j : Nat) : Bool := l.any fun p => decide (p.1 ≤ j) && decide (j < p.2)

/-- The number of bytes or elements in disjoint ranges. -/
def rangeLen (l : List (Nat × Nat)) : Nat := (l.map fun p => p.2 - p.1).sum

/-- Whether the ranges of three lists together cover [0, len). -/
def ivlCovers (len : Nat) (a b c : List (Nat × Nat)) : Bool :=
  let all := (a ++ b ++ c).foldl (fun l p => if p.1 < p.2 then ivlAdd l p.1 p.2 else l) []
  len = 0 || all.any fun p => p.1 = 0 && decide (len ≤ p.2)

/-! ## Range tests (17 R254) -/

/-- The condition of R254 that one range meets, by the cause it is reported with. A zero-length range is tested at its
start address alone, and not for the end of its window. -/
def State.rangeFault (s : State) (g : Nat) (G : Gang) (va : Dword) (len : Nat) : List Nat :=
  let last := va + BitVec.ofNat 64 (len - 1)
  let wraps := decide (2 ^ 64 < va.toNat + len)
  match localWindow va with
  | some w =>
    if w = 0 || w = 1 || 5 ≤ w then [causeWindow]
    else if len = 0 then []
    else if wraps || localWindow last != some w then [causeWindow, causeRange]
    else
      match s.locate g G 32 va len with
      | .fault c => [c]
      | .place _ | .translate =>
        match s.params G with
        | some p =>
          if w = 3 && (List.range (offset last / p.shareBytes + 1)).any fun i =>
              decide (offset va / p.shareBytes ≤ i) &&
                (match s.group G.group with
                 | some gr => (s.frameGroup gr.frame i).isNone
                 | none => true)
          then [causeWindow] else []
        | none => [causeWindow]
  | none =>
    let ends := if len = 0 then [va] else [va, last]
    ends.flatMap fun a =>
      if (localWindow a).isSome then [causeWindow]
      else if a.extractLsb' 60 3 != 0 then [causeAddr]
      else if a.extractLsb' 48 12 = s.node then (if wraps then [causeRange] else [])
      else if s.reachable (a.extractLsb' 48 12).toNat then [causeRange]
      else [causeNode]

/-- Two ranges overlap. -/
def overlap (a : Dword) (n : Nat) (b : Dword) (m : Nat) : Bool :=
  decide (a.toNat < b.toNat + m) && decide (b.toNat < a.toNat + n)

/-- The first of WINDOW, ADDR, NODE and RANGE among the conditions that hold (R254). -/
def firstCause (l : List Nat) : Option Nat :=
  if l.contains causeWindow then some causeWindow
  else if l.contains causeAddr then some causeAddr
  else if l.contains causeNode then some causeNode
  else if l.contains causeRange then some causeRange
  else none

/-! ## Bytes -/

/-- The walk of a page as a consequence: one that meets a poison mark kills the context (25 Table 25-5, level 4). -/
def State.walkDue (s : State) (core c : Nat) (va : Dword) : State :=
  let d : Agenda := .due (.tableWalkComplete c core (vpnOf va))
  if s.agenda.contains d then s else { s with agenda := d :: s.agenda }

/-- Where an engine finds a byte, and the machine after its translation: a place, or the cause that stops the element. An element
of a gather that its table puts into window 0 meets WINDOW, and one in window 1 RANGE: 17 R260 and R262 name no cause (log 23). -/
def State.engineByte (s : State) (g : Nat) (G : Gang) (va : Dword) (write : Bool) : (Nat ⊕ Nat) × State :=
  match s.locate g G 32 va 1 with
  | .fault c => (.inr c, s)
  | .place p =>
    match p.key with
    | some k => (.inl k, s)
    | none => (.inr causeRange, s)
  | .translate =>
    match s.translateNow G.core G.ctx va ⟨!write, write, false⟩ with
    | (.leaf l, s) => (.inl (l.pa va), s)
    | (.fault c, s) => (.inr c, s)
    | (.poison _, s) => (.inr causeTrans, s.walkDue G.core G.ctx va)

/-- Invalidates what an engine writes in the issuing core's L1 (11 R202). -/
def State.engineDrop (s : State) (core key n : Nat) : State := if key < 2 ^ 52 then s.l1Drop core key n else s

/-- A block that a poison mark reaches: it is marked, and each of its bytes may hold any value (R255). -/
def State.spoil (s : State) (key : Nat) : State :=
  let b := key / 32 * 32
  let s := (List.range 32).foldl (fun (s : State) i =>
    { s.tick with mem := s.mem.setByte (b + i) (Config.freeByte s.fresh) }) s
  { s with mem := s.mem.mark key }

/-- One byte written by an engine: poison moves with the data to the whole block that the byte reaches (R255); the sector is
invalidated in the issuing core's L1 (11 R202), and counters that it may belong to are tested (21 R324). -/
def State.putByte (s : State) (core src dst : Nat) : State :=
  let s := s.engineDrop core dst 1
  if s.mem.poisoned src 1 then (s.spoil dst).testWaits else s.homeWrite dst 1 (s.mem.byte src).toNat

/-- The outcome of an engine's look-ups: what it found, or the first fault that it met, by cause and address; and the machine
after the translations, each of which is made once. -/
abbrev Found (α : Type) := (α ⊕ (Nat × Dword)) × State

/-- The keys of n bytes at an address. -/
def State.engineSpan (s : State) (g : Nat) (G : Gang) (va : Dword) (write : Bool) : Nat → Found (List Nat)
  | 0 => (.inl [], s)
  | n + 1 =>
    match State.engineSpan s g G va write n with
    | (.inr x, s) => (.inr x, s)
    | (.inl l, s) =>
      match s.engineByte g G (va + BitVec.ofNat 64 n) write with
      | (.inr c, s) => (.inr (c, va + BitVec.ofNat 64 n), s)
      | (.inl k, s) => (.inl (l ++ [k]), s)

/-- The keys of n bytes that an engine reads at one address and writes at another. -/
def State.enginePair (s : State) (g : Nat) (G : Gang) (src dst : Dword) (n : Nat) : Found (List Nat × List Nat) :=
  match s.engineSpan g G src false n with
  | (.inr x, s) => (.inr x, s)
  | (.inl a, s) =>
    match s.engineSpan g G dst true n with
    | (.inr x, s) => (.inr x, s)
    | (.inl b, s) => (.inl (a, b), s)

/-- Moves bytes from keys to keys. -/
def State.putBytesAt (s : State) (core : Nat) (x : List Nat × List Nat) : State :=
  (x.1.zip x.2).foldl (fun s k => s.putByte core k.1 k.2) s

/-- Progress of an operation: bytes or elements moved, stopped and declined. -/
structure Progress where
  moved    : List (Nat × Nat)
  stopped  : List (Nat × Nat)
  declined : List (Nat × Nat)

/-- Whether element j is still to be tried. -/
def Progress.open_ (p : Progress) (j : Nat) : Bool :=
  !ivlMem p.moved j && !ivlMem p.stopped j && !ivlMem p.declined j

/-- What an engine is about to do with a run of elements: its progress once they are performed, what it has found of each of
them, and the fault that the lowest of those it stops has met, with the element. -/
structure Plan (α : Type) where
  prog  : Progress
  items : List (Nat × α)
  met   : Option (Nat × Nat × Dword)

/-- Plans elements j to j + n - 1 of `size` bytes that are still to be tried; an element that meets a translation or permission
fault is stopped and the others go on (R262). -/
def State.plan {α : Type} (find : State → Nat → Found α) (size : Nat) (p : Progress) (j : Nat) : Nat → State → Plan α × State
  | 0, s => ({ prog := p, items := [], met := none }, s)
  | n + 1, s =>
    let (P, s) := State.plan find size p j n s
    let i := j + n * size
    if P.prog.open_ i then
      match find s i with
      | (.inl x, s) =>
        ({ P with prog := { P.prog with moved := ivlAdd P.prog.moved i (i + size) }, items := P.items ++ [(i, x)] }, s)
      | (.inr f, s) =>
        ({ P with prog := { P.prog with stopped := ivlAdd P.prog.stopped i (i + size) }, met := P.met.or (some (i, f)) }, s)
    else (P, s)

/-- Clears the marks of destination blocks of which a run of bytes writes every byte, before they are written (17 R290): the
bytes are those of an array at `dst`, each with its key. -/
def State.clearWritten (s : State) (dst : Dword) (items : List (Nat × Nat)) : State :=
  items.foldl (fun s x =>
    if (dst.toNat + x.1) % 32 = 0 && (List.range 32).all fun b => items.any fun y => y.1 == x.1 + b
    then { s with mem := s.mem.clearWhole x.2 32 } else s) s

/-- Reads n bytes for an engine, or finds the fault that stops it. -/
def State.engineRead (s : State) (g : Nat) (G : Gang) (va : Dword) (n : Nat) : Found (List Byte) :=
  match s.engineSpan g G va false n with
  | (.inl l, s) => (.inl (l.map s.mem.byte), s)
  | (.inr x, s) => (.inr x, s)

/-- A little-endian number of bytes. -/
def leNat : List Byte → Nat
  | [] => 0
  | b :: r => b.toNat + 256 * leNat r

/-- The field of n bytes at an offset of a record. -/
def field (l : List Byte) (o n : Nat) : Nat := leNat ((l.drop o).take n)

/-! ## Copies -/

/-- The clamp entry owner of a request of a queue register. -/
def reqOwner (id : Nat) : Nat := 2 ^ 32 + id

/-- Removes the clamp entries of an operation (11 R201). -/
def State.unclamp (s : State) (core g own : Nat) : State :=
  let C := s.core core
  s.setCore core { C with clamps := C.clamps.filter fun c => !(c.gang == g && c.own == own) }

/-- Enters clamp entries (11 R199). -/
def State.clamp (s : State) (core : Nat) (l : List Clamp) : State :=
  let C := s.core core
  s.setCore core { C with clamps := C.clamps ++ l }

/-- The pseudo-core whose clamp table stands for the entries in the save area. -/
def savedCore : Nat := 4096

/-- The core whose clamp table holds a gang's entries. -/
def Gang.clampCore (G : Gang) : Nat := if G.st = .saved then savedCore else G.core

/-- Free clamp entries of a core (11 R199). -/
def State.clampRoom (s : State) (core : Nat) : Nat := 32 - (s.core core).clamps.length

/-- Free entries for a gang: those of its core; of a saved one, as many as its group may hold (17 R283). -/
def State.clampRoomOf (s : State) (G : Gang) : Nat :=
  if G.st = .saved then
    let mine := ((s.group G.group).map Group.gangs).getD []
    32 - ((s.core savedCore).clamps.filter fun e => mine.contains e.gang).length
  else s.clampRoom G.core

/-- The handle of an engine fault that still waits for its completion wait (17 R262). -/
def Op.dormant (o : Op) : Option Nat :=
  match o.kind with
  | .engine h => if o.held && o.accs.all (fun p => p.2.code != 1) then some h.toNat else none
  | .load | .store | .atomic _ _ _ | .fwr | .frd _ | .rclaim | .rcommit | .rawait | .rretire | .rbind | .rwr | .rwait
  | .calc | .rrd _ | .steal | .pop _ | .matrix | .format | .fetch | .nwait => none

/-- The copies that a handle names: 0 names all (17 R253). Complete ones whose ENGINE fault is not yet reported are named
too (17 R262). -/
def Gang.copiesNamed (G : Gang) (h : Nat) : List Nat :=
  ((G.copies.map Prod.fst) ++ G.ops.filterMap fun p => p.2.dormant).filter fun x => h == 0 || x == h

/-- The completion wait of copies has ended: their faults are reported at the next report point (17 R262). -/
def Gang.wakeFaults (G : Gang) (hs : List Nat) : Gang :=
  { G with ops := G.ops.map fun p =>
      match p.2.dormant with
      | some h => if hs.contains h then (p.1, { p.2 with held := false }) else p
      | none => p }

/-- None of the copies is outstanding. -/
def Gang.copiesDone (G : Gang) (hs : List Nat) : Bool := hs.all fun h => (KV.find G.copies h).isNone

/-- An engine fault or refusal waiting for the next report point (17 R254, R262): the handle or request address. -/
def engineOp (pc : Dword) (instr : Instr) (slices : BitVec 8) (h : Dword) (cause : Nat) (va : Dword) : Op :=
  { kind := .engine h, instr := instr, pc := pc, slices := slices, mode := 0, dest := .zr, rel := none, acq := none,
    accs := [(0, { Acc.mk' 32 va 0 0 0 with st := .fault cause })], held := false, mat := none }

/-- The instruction of a stored word. -/
def instrOf (w : Word) : Instr := match decode w with
  | .ok i => i
  | .error _ => .nop false

/-- The 32 bytes of the record of an element that an engine has stopped, for the device OS (17 R262, R274). -/
def State.askOs (s : State) (g : Nat) (G : Gang) (own : Nat) (pc : Dword) (word : Word) (sl : BitVec 8) (h : Dword)
    (at_ : Nat × Dword) : State :=
  s.emit (.osFault g own (((engineOp pc (instrOf word) sl h at_.1 at_.2).record 0).doublewords G))

/-- The same for a request of a queue register. -/
def State.askReq (s : State) (g : Nat) (G : Gang) (r : Req) (at_ : Nat × Dword) : State :=
  s.askOs g G (reqOwner r.id) r.pc r.word r.slices r.tag at_

/-- The address that the lowest of the stopped elements met, once another has been stopped. -/
def lowestMet (old : Option (Nat × Dword)) (new : Option (Nat × Nat × Dword)) : Option (Nat × Dword) :=
  match old, new with
  | some a, some b => if b.1 < a.1 then some (b.1, b.2.2) else some a
  | none, some b => some (b.1, b.2.2)
  | old, none => old

/-! ## Queue registers -/

/-- The operation of a network request. -/
def Req.opcode (r : Req) : Nat := ((r.words.getD 0 0).extractLsb' 0 8).toNat

/-- The local counter of a network request: CB + 8j (23 R354). -/
def QReg.counter (Q : QReg) (r : Req) : Dword := Q.base + BitVec.ofNat 64 (8 * ((r.words.getD 0 0).extractLsb' 16 8).toNat)

/-- Queue entries that are held: requests not yet complete, and of those without a pop the ones not yet read (17 R258, 23
R356). -/
def QReg.queued (q : QReg) : Nat := (q.reqs.filter fun r => r.st != .done && (r.pops || r.st == .reading)).length

/-- Every request has completed. -/
def QReg.allDone (q : QReg) : Bool := q.reqs.all fun r => r.st == .done

/-- The words that follow a network header (23 R355): their number. -/
def netFollow (h : Dword) : Nat :=
  let op := (h.extractLsb' 0 8).toNat
  let n := (h.extractLsb' 8 8).toNat
  let rc := if h.getLsbD 24 then 1 else 0
  if 4 ≤ op then 0
  else if op = 0 then (if n = 0 || 32 < n then 0 else 1 + rc + n)
  else 2 + rc

/-- A network header alone is malformed (23 Table 23-6): the operation, n, Resv bits, the length. -/
def netHeaderBad (h : Dword) (exch : Bool) : Bool :=
  let op := (h.extractLsb' 0 8).toNat
  let n := (h.extractLsb' 8 8).toNat
  let len := (h.extractLsb' 32 32).toNat
  4 ≤ op || (h.extractLsb' 26 6) != 0 ||
    (if op = 0 then n = 0 || 32 < n || len ≠ 0 else n ≠ 0) ||
    ((op = 1 || op = 2) && len = 0) || (op = 3 && len ≠ 0) ||
    (2 ≤ op && h.getLsbD 24) || (op = 3 && (h.getLsbD 25 || !exch))

/-- The EXCH parameter word is malformed (23 R359). -/
def exchBad (w : Dword) (node : Nat) : Bool :=
  let mm := (w.extractLsb' 0 6).toNat
  let l := (w.extractLsb' 6 6).toNat
  let g := (w.extractLsb' 12 4).toNat
  let p := (w.extractLsb' 16 4).toNat
  let b := (w.extractLsb' 20 12).toNat
  (w.extractLsb' 34 30) != 0 || mm = 0 || 40 < mm || p = 0 || 12 < p || mm ≤ l || p ≤ g || b % 2 ^ p ≠ 0 ||
    node < b || b + 2 ^ p ≤ node

/-- A new request. -/
def Req.fresh (id : Nat) (tag : Dword) (words : List Dword) (pc : Dword) (word : Word) (sl : BitVec 8) (before : Nat)
    (pops : Bool) : Req :=
  { id := id, tag := tag, words := words, st := .queued, malformed := false, refused := false, pops := pops, pc := pc,
    word := word, slices := sl, before := before, moved := [], stopped := [], declined := [], fault := none }

/-- Replaces a queue register. -/
def Gang.setQueue (G : Gang) (q : Nat) (Q : QReg) : Gang := { G with queues := KV.set G.queues q Q }

/-- Replaces the request with an identifier. -/
def QReg.setReq (Q : QReg) (id : Nat) (f : Req → Req) : QReg :=
  { Q with reqs := Q.reqs.map fun r => if r.id == id then f r else r }

/-- A gather request's fields: index list, destination, count, element size, and whether it is malformed (17 R259,
R260). -/
structure Gather where
  index : Dword
  dst   : Dword
  count : Nat
  size  : Nat
  bad   : Bool

/-- A gather request from its four doublewords. -/
def gatherOf (addr : Dword) (w : List Dword) : Gather :=
  let d (i : Nat) : Dword := w.getD i 0
  let count := ((d 2).extractLsb' 0 32).toNat
  let size := 2 ^ ((d 2).extractLsb' 32 2).toNat
  { index := d 0, dst := d 1, count := count, size := size,
    bad := (d 2).extractLsb' 34 30 != 0 || d 3 != 0 || count = 0 || 65536 < count || addr.toNat % 32 ≠ 0 ||
      (d 0).toNat % 4 ≠ 0 || (d 1).toNat % size ≠ 0 }

/-- Four doublewords of 32 bytes. -/
def dwordsOf (l : List Byte) : List Dword := (List.range 4).map fun i => BitVec.ofNat 64 (field l (8 * i) 8)

/-- A gather request whose 32 bytes have been read is queued, refused or found malformed (R260). One that is malformed and
whose ranges would be refused is malformed (log 23). -/
def State.gatherRead (s : State) (g : Nat) (G : Gang) (r : Req) (bytes : List Byte) : Req × List Clamp :=
  let w := dwordsOf bytes
  let t := gatherOf r.tag w
  let r := { r with words := w }
  if t.bad then ({ r with malformed := true, st := .done }, [])
  else
    match firstCause (s.rangeFault g G t.index (4 * t.count) ++ s.rangeFault g G t.dst (t.size * t.count)) with
    | some c => ({ r with refused := true, st := .done, fault := some (c, t.index) }, [])
    | none =>
      let own := reqOwner r.id
      ({ r with st := .queued },
       [{ ctx := G.ctx, gang := g, own := own, isDst := false, lo := t.index.toNat, len := 4 * t.count },
        { ctx := G.ctx, gang := g, own := own, isDst := true, lo := t.dst.toNat, len := t.size * t.count }])

/-- The array of an exchange lies at one local virtual address on every module: the own node stands in its node field (23
R357; log 28). -/
def onNode (node : BitVec 12) (va : Dword) : Dword :=
  if va.getLsbD 63 then va else va.extractLsb' 60 4 ++ node ++ va.extractLsb' 0 48

/-- The local range of a network request, and whether it is a destination (23 R355): that of an exchange is its whole array. -/
def netLocal (node : BitVec 12) (w : List Dword) : Option (Dword × Nat × Bool) :=
  let h := w.getD 0 0
  let len := (h.extractLsb' 32 32).toNat
  match (h.extractLsb' 0 8).toNat with
  | 1 => some (w.getD 2 0, len, false)
  | 2 => some (w.getD 2 0, len, true)
  | 3 =>
    let p := w.getD 2 0
    some (onNode node (w.getD 1 0), 2 ^ (p.extractLsb' 0 6).toNat * 2 ^ (p.extractLsb' 32 2).toNat, true)
  | _ => none

/-- The remote range of a network request (23 Table 23-6). -/
def netRemote (w : List Dword) : Option (Dword × Nat) :=
  let h := w.getD 0 0
  match (h.extractLsb' 0 8).toNat with
  | 0 => some (w.getD 1 0, 8 * (h.extractLsb' 8 8).toNat)
  | 1 | 2 => some (w.getD 1 0, (h.extractLsb' 32 32).toNat)
  | _ => none

/-- The ranges of a network request that lie on the own module, and whether each is a destination: its local range, and its
target where the own module is the target (11 R199). -/
def netRanges (node : BitVec 12) (w : List Dword) : List (Dword × Nat × Bool) :=
  (netLocal node w).toList ++
    (match netRemote w with
     | some (va, n) =>
       if (w.getD 1 0).extractLsb' 48 12 = node then [(va, n, decide ((w.getD 0 0).extractLsb' 0 8 ≠ 2#8))] else []
     | none => [])

/-- The remote counter's address, when one is present. -/
def netCounter (w : List Dword) : Option Dword :=
  let h := w.getD 0 0
  if h.getLsbD 24 then
    (if (h.extractLsb' 0 8).toNat = 0 then some (w.getD 2 0) else some (w.getD 3 0))
  else none

/-- The payload words of a PUTI. -/
def netPayload (w : List Dword) : List Dword := if (w.getD 0 0).getLsbD 24 then w.drop 3 else w.drop 2

/-- Whether a complete network request is malformed (23 R354 to R359): its header, a misaligned PUTI target or counter, the
EXCH parameters. -/
def State.netBad (s : State) (w : List Dword) : Bool :=
  let h := w.getD 0 0
  (h.extractLsb' 0 8 == 0 && (w.getD 1 0).toNat % 8 ≠ 0) ||
    (match netCounter w with | some c => decide (c.toNat % 8 ≠ 0) | none => false) ||
  netHeaderBad h (s.hostif.feat.getLsbD 5) ||
    ((h.extractLsb' 0 8).toNat = 3 && exchBad (w.getD 2 0) s.node.toNat)

/-- What keeps an address on another module, or on the own one by its global address, from being used: its window, an address
outside the module's, an absent module (R181, R254). -/
def State.globalFault (s : State) (a : Dword) : List Nat :=
  if a.getLsbD 63 then [causeWindow]
  else if a.extractLsb' 60 3 != 0 then [causeAddr]
  else if a.extractLsb' 48 12 = s.node || s.reachable (a.extractLsb' 48 12).toNat then []
  else [causeNode]

/-- Range faults of a network request: R254 for the local range, R181 for the remote one; its two ranges on the own module
overlap (R254); its remote counter does not lie on the target's module (13 R232). -/
def State.netFault (s : State) (g : Nat) (G : Gang) (w : List Dword) : Option Nat :=
  let loc := match netLocal s.node w with
    | some (va, len, _) => s.rangeFault g G va len
    | none => []
  let rem := match netRemote w with
    | some (va, len) =>
      let last := va + BitVec.ofNat 64 (len - 1)
      s.globalFault va ++ s.globalFault last ++ (if nodeNum va = nodeNum last then [] else [causeRange])
    | none => []
  let ctr := match netCounter w with
    | some va => s.globalFault va ++ (if nodeNum va = nodeNum (w.getD 1 0) then [] else [causeNode])
    | none => []
  let both := match netRanges s.node w with
    | [a, b] => if overlap a.1 a.2.1 b.1 b.2.1 then [causeRange] else []
    | _ => []
  firstCause (loc ++ rem ++ ctr ++ both)

/-- The elements that stand for the two counters of a network request: the local one, and the remote one (23 R356). -/
def localCount : Nat := 2 ^ 64
def remoteCount : Nat := 2 ^ 64 + 1

/-- The elements of an exchange as they leave: element j of the receiving slots and `leaving + j` of the outgoing ones share
a slot (23 R358). -/
def leaving : Nat := 2 ^ 48

/-- The length of a network request: the bytes it moves, the slots of an exchange that receive. -/
def Req.len (r : Req) : Nat :=
  if r.opcode = 0 then 8 * (netPayload r.words).length
  else if r.opcode = 3 then 2 ^ (((r.words.getD 2 0).extractLsb' 0 6).toNat - 1)
  else ((r.words.getD 0 0).extractLsb' 32 32).toNat

/-- The elements of a request of a queue register. -/
def Req.units (r : Req) (engine : Nat) : Nat :=
  if engine = 1 then (gatherOf r.tag r.words).count
  else if r.refused then 0
  else if r.opcode = 3 then 2 * r.len
  else r.len

/-- The slot of an exchange that receives element j: the j-th local index whose bit l differs from bit g of the module's
place (23 R358). -/
def exchSlot (l j : Nat) (y : Bool) : Nat := j / 2 ^ l * 2 ^ (l + 1) + (if y then 0 else 2 ^ l) + j % 2 ^ l

/-- The address at which an element of a network request begins on the side that its fault record names: a counter, the slot
of an exchange, the local bytes of a PUTM or GET, the target of a PUTI (23 R356, R358). -/
def State.netAt (s : State) (Q : QReg) (r : Req) (j : Nat) : Dword :=
  if j = localCount then Q.counter r
  else if j = remoteCount then (netCounter r.words).getD 0
  else
    match netLocal s.node r.words with
    | some (va, _, _) =>
      if r.opcode = 3 then
        let w := r.words.getD 2 0
        let y := Nat.testBit (s.node.toNat - (w.extractLsb' 20 12).toNat) (w.extractLsb' 12 4).toNat
        va + BitVec.ofNat 64 (2 ^ (w.extractLsb' 32 2).toNat * exchSlot (w.extractLsb' 6 6).toNat (j % leaving) y)
      else va + BitVec.ofNat 64 j
    | none => r.words.getD 1 0 + BitVec.ofNat 64 j

/-- The address on the other side to which a network request's element j belongs: the remote counter, the partner's slot of an
exchange, the target (23 R350, R351, R356). -/
def Req.netFar (r : Req) (j : Nat) : Dword :=
  if j = remoteCount then (netCounter r.words).getD 0
  else r.words.getD 1 0 + BitVec.ofNat 64 (j % leaving)

/-- A network request queued at its last push (23 R355, R356). -/
def State.netQueue (s : State) (g : Nat) (G : Gang) (r : Req) : Req × List Clamp :=
  if s.netBad r.words then ({ r with malformed := true, st := .done }, [])
  else
    match s.netFault g G r.words with
    | some c => ({ r with refused := true, st := .moved, fault := some (c, r.words.getD 1 0) }, [])
    | none =>
      (r, (netRanges s.node r.words).map fun x =>
        { ctx := G.ctx, gang := g, own := reqOwner r.id, isDst := x.2.2, lo := x.1.toNat, len := x.2.1 })

/-- The refusal of a gather request is reported at the next report point (17 R254, R260). -/
def Gang.refusal (G : Gang) (pc : Dword) (instr : Instr) (sl : BitVec 8) (r : Req) : Gang :=
  match r.refused, r.fault with
  | true, some (c, va) => G.addOp (engineOp pc instr sl r.tag c va)
  | _, _ => G

/-- Takes a push, once its queue and the clamp table have room (17 R258): `none` while it must wait. A gather request whose
address is refused and misaligned is refused (log 23). -/
def State.takePush (s : State) (g k : Nat) (q : Fin 8) (w : Dword) (pc : Dword) (instr : Instr) : Option State :=
  match s.gang g with
  | none => none
  | some G =>
    let Q := G.queue q.val
    let sl := match KV.find G.splits k with
      | some sp => sp.slices
      | none => 0
    if 16 ≤ Q.queued then none
    else
      let word := (encode instr).getD 0
      if Q.engine = 2 then
        let frame := Q.frame ++ [w]
        if frame.length < 1 + netFollow (frame.getD 0 0) then
          some (s.modGang g fun G => G.setQueue q.val { Q with frame := frame })
        else
          let r := Req.fresh s.nextReq (frame.getD 0 0) frame pc word sl G.nextOp ((frame.getD 0 0).getLsbD 25)
          let (r, cl) := s.netQueue g G r
          if s.clampRoom G.core < cl.length then none
          else
            let keep := r.pops || r.st != .done
            let Q := { Q with frame := [], reqs := if keep then Q.reqs ++ [r] else Q.reqs }
            some (({ s with nextReq := s.nextReq + 1 }.clamp G.core cl).modGang g fun G => G.setQueue q.val Q)
      else
        let r := Req.fresh s.nextReq w [] pc word sl G.nextOp true
        match firstCause (s.rangeFault g G w 32) with
        | some c =>
          let r := { r with refused := true, st := .done, fault := some (c, w) }
          some ({ s with nextReq := s.nextReq + 1 }.modGang g fun G =>
            (G.setQueue q.val { Q with reqs := Q.reqs ++ [r] }).refusal pc instr sl r)
        | none =>
          if w.toNat % 32 ≠ 0 then
            let r := { r with malformed := true, st := .done }
            some ({ s with nextReq := s.nextReq + 1 }.modGang g fun G =>
              G.setQueue q.val { Q with reqs := Q.reqs ++ [r] })
          else
            match s.engineRead g G w 32 with
            | (.inr at_, s) =>
              let r := { r with st := .reading }
              some (({ s with nextReq := s.nextReq + 1 }.modGang g fun G =>
                G.setQueue q.val { Q with reqs := Q.reqs ++ [r] }).askReq g G r at_)
            | (.inl bytes, s) =>
              let (r, cl) := s.gatherRead g G r bytes
              if s.clampRoom G.core < cl.length then none
              else
                some (({ s with nextReq := s.nextReq + 1 }.clamp G.core cl).modGang g fun G =>
                  (G.setQueue q.val { Q with reqs := Q.reqs ++ [r] }).refusal pc instr sl r)

/-- Whether every request of a queue register has completed and been popped (17 R257). -/
def QReg.drained (q : QReg) : Bool := q.reqs.all fun r => r.st == .done && !r.pops

end Sys2Proof.Machine
end

