-- ==== Sys2Proof/Machine/Wait.lean ====
section
/-! DEFINITION. Waits and what ends them: report points and memory-fault routing (17 R271 to R278), releases and acquires
(11 R191, R192), exit (01 R43), regang (01 R30), named barriers (01 R45 to R49), pool claims (01 R37, R38), queue pushes and
bindings (17 R257, R258). -/

namespace Sys2Proof.Machine

/-! ## Report points (17 R273) -/

/-- Whether an instruction still has something to deliver that no fault holds. -/
def Op.undelivered (op : Op) : Bool :=
  op.kind.varLat &&
    (match op.mat with
     | some m => !m.done && op.badAccs.isEmpty
     | none => !op.goodAccs.isEmpty)

/-- A matrix instruction behind one of its split on the same tile that a fault holds: it is held with it (15 R245). -/
def Gang.matBlocked (G : Gang) (sl : BitVec 8) (o : Nat) (op : Op) : Bool :=
  match op.mat with
  | none => false
  | some m => G.ops.any fun p =>
      decide (p.1 < o) && p.2.ofSplit sl && !p.2.badAccs.isEmpty &&
        (match p.2.mat with
         | some m' => !m'.done && m'.vC == m.vC
         | none => false)

/-- A request that leaves only behind earlier work of its split, some of which a fault holds: it is held with that
(11 R191, 13 R227; log 8). -/
def Gang.heldBehind (G : Gang) (sl : BitVec 8) (o : Nat) (op : Op) : Bool :=
  (op.rel.isSome || op.kind = .rretire) && G.ops.any fun p =>
    decide (p.1 < o) && p.2.ofSplit sl && !(G.inHandler sl).contains p.1 && (G.within sl p.2).badAccs.any fun q =>
      (op.kind = .rretire && p.2.kind.varLat) ||
        (op.rel.isSome && ((p.2.kind.memResult && q.2.isResult) || (p.2.kind.writes && op.rel != some .gang && !q.2.answeredFault)))

/-- Every Pending register the split wrote has been delivered or is held by a fault. -/
def Gang.reportReady (G : Gang) (sl : BitVec 8) : Bool :=
  !G.ops.any fun p => p.2.ofSplit sl && (G.within sl p.2).undelivered && !G.matBlocked sl p.1 p.2 &&
    !G.heldBehind sl p.1 p.2

/-- A request of the split has not reached its home and may meet a fault still: `exit` waits for it, so that every fault of
its slices is reported first (03 R78). -/
def Gang.mayFault (G : Gang) (sl : BitVec 8) : Bool :=
  G.ops.any fun p => p.2.ofSplit sl && !G.heldBehind sl p.1 p.2 && (G.within sl p.2).goodAccs.any fun q => q.2.st.onWay

/-- The split's instructions held by a fault and not yet in a report, in program order, in its own lanes. -/
def Gang.reportOps (G : Gang) (sl : BitVec 8) : KV Op :=
  (G.ops.map fun p => (p.1, G.within sl p.2)).filter fun p =>
    p.2.ofSplit sl && !p.2.badAccs.isEmpty && !p.2.held && !(G.inHandler sl).contains p.1

/-- A delivered matrix instruction after a marker of the lanes `w`: its tile is Pending in its other rows; `none` where it is
Pending in none, so that the instruction has ended. -/
def Op.endRows (op : Op) (w : Word) : Option Op :=
  match op.mat with
  | some m =>
    if !m.done then some op
    else if m.rows &&& ~~~w = 0 then none
    else some { op with mat := some { m with rows := m.rows &&& ~~~w } }
  | none => some op

/-- At a marker or `xfence`, delivered matrix tiles of the split are no longer Pending in its lanes (01 R34). -/
def Gang.endTiles (G : Gang) (sl : BitVec 8) : Gang :=
  let dead := G.ops.filter fun p => p.2.ofSplit sl && (match p.2.mat with | some m => m.done | none => false)
  { G with
    ops := G.ops.filterMap fun p =>
      if p.2.ofSplit sl then (p.2.endRows (G.sliceMask sl)).map fun op => (p.1, op) else some p
    pend := G.pend.filter fun p => !((dead.any fun q => q.1 == p.2) && G.inSlices sl (p.1 % 32)) }

/-- A wait at which matrix tiles leave Pending: a marker or `xfence` (01 R34), `tcfg`, which waits as `xfence` does (15 R239), or
the end of the split. A fetch or format block that faults waits as at a marker (17 R278; DESIGN CHOICE, log 40). -/
def Wait.endsTiles : Wait → Bool
  | .marker | .exit | .tcfg _ => true
  | .none | .acq _ | .rel _ | .fence _ | .fenceAcq _ | .fsc _ | .fscEdge _ _ | .fscAcq _ | .barRel _ _ _ _ | .bar _ | .regang
  | .claim _ | .give _ | .op _ | .cwait _ | .yield _ _ | .nwait _ | .push _ _ _ | .reqRead _ _ | .qbind _ _ _
  | .sysc _ _ | .spawn _ _ _ _ | .bleave | .acqQuiet _ | .quad => false

/-- The records of a split's report, oldest first, of at most 32 (17 R274). -/
def Gang.reportRecs (G : Gang) (sl : BitVec 8) : List FaultRec := ((G.reportOps sl).map fun p => p.2.record p.1).take 32

/-- A split parks with its report, which the device OS receives when any of its faults takes that route (17 R273, R275). -/
def State.park (s : State) (g k : Nat) (G : Gang) (sp : Split) : State :=
  let recs := G.reportRecs sp.slices
  let toOs := recs.any fun r => osCause r.cause
  let s := s.modGang g fun G => G.setSplit k { sp with st := .faultpark, recs := recs, toOs := toOs }
  if toOs then s.emit (.osReport g k recs (recs.map fun r => r.doublewords G)) else s

/-- Faults found later in the wait of a parked split join its report (17 R273); `none` when there are none. -/
def State.joinReport (s : State) (g k : Nat) (G : Gang) (sp : Split) : Option State :=
  let recs := G.reportRecs sp.slices
  if sp.answer.isSome || recs.isEmpty || recs = sp.recs then none else some (s.park g k G sp)

/-- Delivers MEMFAULT to the handler of a split with its records (17 R277), or holds it while the gang is in TRAP by
another split (R270). -/
def State.deliverFaults (s : State) (g k : Nat) : State :=
  match s.gang g with
  | none => s
  | some G =>
    match KV.find G.splits k with
    | none => s
    | some sp =>
      let tpc := match sp.wait with
        | .exit => sp.ipc
        | .none | .marker | .acq _ | .rel _ | .fence _ | .fenceAcq _ | .fsc _ | .fscEdge _ _ | .fscAcq _ | .barRel _ _ _ _ | .bar _ | .regang
        | .claim _ | .give _ | .op _ | .cwait _ | .yield _ _ | .nwait _ | .push _ _ _ | .reqRead _ _ | .qbind _ _ _
        | .sysc _ _ | .spawn _ _ _ _ | .bleave | .acqQuiet _ | .tcfg _ | .quad => sp.pc
      match G.trapSplit with
      | some t =>
        if t = k then s.haltGang g 12 0
        else
          s.modGang g fun G =>
            ({ G with held := G.held ++ [HeldTrap.memFault k] }).setSplit k { sp with st := .faultpark, toOs := false, answer := none }
      | none =>
        s.raise g k (.memfault sp.recs.length) 0 tpc sp.recs

/-- At a report point: cancellation is settled, then held faults are routed. `none` while the split must wait; otherwise
the machine and whether the split goes on (17 R273, 19 R309). -/
def State.report (s : State) (g k : Nat) : Option (State × Bool) :=
  match s.gang g with
  | none => none
  | some G =>
    match KV.find G.splits k with
    | none => none
    | some sp =>
      if !G.reportReady sp.slices then none
      else
        let s := s.settle g k
        match s.gang g with
        | none => none
        | some G =>
          let ops := G.reportOps sp.slices
          if ops.isEmpty then
            some (if sp.wait.endsTiles then s.modGang g fun G => G.endTiles sp.slices else s, true)
          else if G.trapSplit = some k then some (s.haltGang g 12 0, false)
          else
            let toOs := (G.reportRecs sp.slices).any fun r => osCause r.cause
            let s := s.park g k G sp
            some (if toOs then s else s.deliverFaults g k, false)

/-- At a report point whose own wait has not ended: faults that are found are reported there (R273). -/
def State.reportHeld (s : State) (g k : Nat) : Option State :=
  match s.report g k with
  | some (s, false) => some s
  | some (_, true) | none => none

/-! ## Exit and merging -/

/-- Removes slices from `live` and from the split table (01 R43). -/
def Gang.dropSplit (G : Gang) (k : Nat) (sp : Split) : Gang :=
  { G with
    live := G.live &&& ~~~(G.sliceMask sp.slices)
    splits := KV.del G.splits k }

/-- The valid splits of a gang are all in REGANG at one address. -/
def Gang.regangReady (G : Gang) : Bool :=
  match G.splits with
  | [] => false
  | (_, sp0) :: _ => G.splits.all fun p => p.2.st = .regang && p.2.ipc = sp0.ipc

/-- Completes a `regang` (01 R30): one split, in the lowest of their entries, holds the union of the slices and waits as a fence at
gang scope does, at which its held faults are reported too: 17 R273 does not list regang (DESIGN CHOICE, log 40). The spec does
not say which entry it takes (DESIGN CHOICE, log 14). The watchdog counter is reset (01 R50). -/
def Gang.merge (G : Gang) : Gang :=
  match G.splits with
  | [] => G
  | (k, sp0) :: _ =>
    let sl := G.splits.foldl (fun w p => w ||| p.2.slices) (0 : BitVec 8)
    { G with
      wd := 0
      splits := [(k, { sp0 with slices := sl, pc := sp0.ipc + 4, st := .evwait, wait := .fence .gang })] }

/-- Merges when the last split has reached `regang`. -/
def Gang.tryMerge (G : Gang) : Gang := if G.regangReady then G.merge else G

/-! ## Pool granules (01 R36 to R39) -/

/-- Granules of the core's free pool and the group's pool. -/
def State.granuleFree (s : State) (gr : Group) (x : Nat) : Bool :=
  decide (256 ≤ x) && decide (x < 2048) && (gr.pool.contains x || !(s.core gr.core).owned.contains x)

/-- The first granule of a run that serves a claim of k granules (01 R38): where several runs do, the lowest (log 14). -/
def State.claimRun (s : State) (gr : Group) (k : Nat) : Option Nat :=
  ((List.range 448).map fun i => 256 + 4 * i).find? fun a =>
    ((List.range k).all fun j => s.granuleFree gr (a + j)) && (List.range k).any fun j => gr.pool.contains (a + j)

/-- Serves a claim with the run from granule a (01 R38): the run passes to the gang; new registers read zero. -/
def State.giveRun (s : State) (grId g sp a k : Nat) : State :=
  match s.group grId with
  | none => s
  | some gr =>
    let run := (List.range k).map fun j => a + j
    let C := s.core gr.core
    let s := s.setCore gr.core { C with owned := run.foldl insertNat C.owned }
    let s := s.setGroup grId
      { gr with
        pool := gr.pool.filter fun x => !run.contains x
        claims := gr.claims.filter fun p => p != (g, sp) }
    s.modGang g fun G => (({ G with segs := G.segs ++ [(a, k)] }).setStat 0).finishSplit sp

/-- The number of granules a waiting claim asks for. -/
def State.claimOf (s : State) (g sp : Nat) : Option Nat :=
  match (s.gang g).bind fun G => KV.find G.splits sp with
  | some p =>
    match p.wait with
    | .claim k => some k
    | .none | .marker | .acq _ | .rel _ | .fence _ | .fenceAcq _ | .fsc _ | .fscEdge _ _ | .fscAcq _ | .exit | .barRel _ _ _ _ | .bar _
    | .regang | .give _ | .op _ | .cwait _ | .yield _ _ | .nwait _ | .push _ _ _ | .reqRead _ _ | .qbind _ _ _ | .sysc _ _
    | .spawn _ _ _ _ | .bleave | .acqQuiet _ | .tcfg _ | .quad => none
  | none => none

/-- A claim of k granules would leave the gang with more than 4 segments or more than 24 granules (01 R38). -/
def Gang.claimOver (G : Gang) (k : Nat) : Bool := decide (4 ≤ G.segs.length) || decide (24 < G.granules + k)

/-- The word at a split's waiting instruction, 0 where it cannot be fetched. -/
def State.waitWord (s : State) (G : Gang) (sp : Split) : Word :=
  match s.fetch G sp.ipc with
  | .word w => w
  | .fault _ | .miss | .poison _ => 0

/-- A waiting claim that the gang may no longer make, since another split's has been served, raises REGBOUND and waits for
nothing (01 R38). -/
def State.refuseClaim (s : State) (grId g k : Nat) : State :=
  let s := s.modGroup grId fun gr => { gr with claims := gr.claims.filter fun p => p != (g, k) }
  match s.gang g with
  | none => s
  | some G =>
    match KV.find G.splits k with
    | none => s
    | some sp => s.raise g k (.regbound G.regBound) (s.waitWord G sp) sp.ipc []

/-- Serves one waiting claim if it can be. -/
def State.serveClaim (s : State) (grId : Nat) (p : Nat × Nat) : State :=
  match s.group grId, s.claimOf p.1 p.2, s.gang p.1 with
  | some gr, some k, some G =>
    if G.claimOver k then s.refuseClaim grId p.1 p.2
    else
      match s.claimRun gr k with
      | some a => s.giveRun grId p.1 p.2 a k
      | none => s
  | _, _, _ => s

/-- No engine operation of the gang is outstanding. -/
def Gang.engineIdle (G : Gang) : Bool := G.copies.isEmpty && G.queues.all fun p => p.2.allDone

/-- A RETIRING gang may retire (01 R43). -/
def Gang.mayRetire (G : Gang) : Bool := G.st = .retiring && G.unacked = 0 && G.engineIdle

/-- A gang that counts as waiting for a claim, or is RETIRING or RETIRED (01 R38). One that has nothing outstanding retires
as it exits (R43), and its granules are still to come. -/
def Gang.stuckOnClaim (G : Gang) : Bool :=
  (G.st = .retiring && !G.mayRetire) || G.st = .retired ||
    (!G.splits.isEmpty && G.splits.all fun p => p.2.st = .claimwait)

/-- When no gang of the group can go on but by a claim and none can be satisfied, every claim completes with NOPOOL (01
R38), and the splits whose instruction carried S are examined next. -/
def State.nopool (s : State) (grId : Nat) : State :=
  match s.group grId with
  | none => s
  | some gr =>
    let stuck := gr.gangs.all fun g => match s.gang g with
      | some G => G.stuckOnClaim
      | none => true
    let servable := gr.claims.any fun p => match s.claimOf p.1 p.2 with
      | some k => (s.claimRun gr k).isSome
      | none => false
    if stuck && !servable && !gr.claims.isEmpty then
      let s := s.setGroup grId { gr with claims := [] }
      (gr.claims.foldl (fun s p => s.modGang p.1 fun G => (G.setStat 7).finishSplit p.2) s).soon (.claimServe grId)
    else s

/-- Examines the waiting claims of a group in arrival order (01 R38). -/
def State.serveClaims (s : State) (grId : Nat) : State :=
  match s.group grId with
  | none => s
  | some gr => (gr.claims.foldl (fun s p => s.serveClaim grId p) s).nopool grId

/-- Granules have returned to a pool: the waiting claims are examined next (01 R38). -/
def State.claimsSoon (s : State) (grId : Nat) : State :=
  match s.group grId with
  | some gr => if gr.claims.isEmpty then s else s.soon (.claimServe grId)
  | none => s

/-- The registers that `give k` returns: those from the new bound upward. -/
def Gang.givenPending (G : Gang) (k : Nat) : Bool :=
  G.pend.any fun p => decide (8 * (G.granules - k) ≤ p.1 / 32) && decide (p.1 / 32 < 192)

/-- The granules of the top segment. -/
def Gang.topGranules (G : Gang) : Nat := (G.segs.getLast?.map Prod.snd).getD 0

/-- `give k` (01 R37): the top k granules of the top segment return to the group pool. A waiting `give` tests again that the
segment has them, since another split may have changed it (13 R234). -/
def State.giveTop (s : State) (g k : Nat) : State :=
  match s.gang g with
  | none => s
  | some G =>
    match G.segs.getLast? with
    | none => s
    | some (a, n) =>
      let k := min k n
      let segs := G.segs.dropLast ++ (if n = k then [] else [(a, n - k)])
      let bound := 8 * (G.granules - k)
      let s := s.modGang g fun G =>
        { G with segs := segs, v := G.v.filter fun p => decide (p.1 / 32 < bound) }
      let run := (List.range k).map fun j => a + n - k + j
      let s := s.modGroup G.group fun gr => { gr with pool := run.foldl insertNat gr.pool }
      s.claimsSoon G.group

/-! ## Barriers -/

/-- The key of a slice's arrival at a barrier. -/
def arrKey (slice b : Nat) : Nat := slice * 64 + b

/-- The slices of a split. -/
def slicesOf (sl : BitVec 8) : List Nat := (List.range 8).filter fun t => sl.getLsbD t

/-- The barrier state of a group. -/
def Group.barrier (gr : Group) (b : Nat) : Barrier :=
  KV.get gr.barriers b { phase := 0, m := 0, n := 0, arrived := [], strikes := 0 }

/-- The scope bound to a level of a launch (01 R19). -/
def LaunchParams.levelScope (p : LaunchParams) (k : Nat) : Scope :=
  match p.levels[k]? with
  | some l => l.scope
  | none => .core

/-- Whether an arrival with mask M and count n at a barrier mismatches (01 R46, 13 R231). -/
def Gang.mismatch (G : Gang) (g : Nat) (B : Barrier) (sl : BitVec 8) (m : Word) (n : Nat) : Bool :=
  m = 0 || n = 0 || 64 < n || (m &&& ~~~G.live) != 0 ||
    (!B.arrived.isEmpty && (B.m != m || B.n != n)) ||
    (KV.get B.arrived g 0 &&& (m &&& G.liveOf sl)) != 0

/-- Lanes that have arrived in the phase. -/
def Barrier.count (B : Barrier) : Nat := (B.arrived.map fun p => popcount p.2).sum

/-- A split waiting on barrier b. -/
def Split.waitsOn (sp : Split) (b : Nat) : Bool := sp.st = .barwait && sp.wait = .bar b

/-- Completes a phase: every waiter completes with OK and acquires; the next phase begins empty (01 R47). -/
def State.completePhase (s : State) (grId b : Nat) : State :=
  match s.group grId with
  | none => s
  | some gr =>
    let B := gr.barrier b
    let s := s.setGroup grId
      { gr with barriers := KV.set gr.barriers b { phase := B.phase + 1, m := 0, n := 0, arrived := [], strikes := 0 } }
    gr.gangs.foldl (fun s g =>
      s.modGang g fun G =>
        G.splits.foldl (fun G p =>
          if p.2.waitsOn b then (G.setStat 0).setSplit p.1 { p.2 with st := .evwait, wait := .acqQuiet G.scope } else G) G)
      s

/-- Counts an arrival after its release (13 R231): `none` when it mismatches. -/
def State.arrive (s : State) (g k b : Nat) (m : Word) (n : Nat) (waits : Bool) : Option State :=
  match s.gang g with
  | none => some s
  | some G =>
    match KV.find G.splits k, s.group G.group with
    | some sp, some gr =>
      if gr.abandoned then some (s.modGang g fun G => (G.setStat 6).finishSplit k)
      else
        let B := gr.barrier b
        if G.mismatch g B sp.slices m n then none
        else
          let mine := m &&& G.liveOf sp.slices
          let fresh := B.arrived.isEmpty
          let B' : Barrier :=
            { B with
              m := m, n := n, arrived := KV.set B.arrived g (KV.get B.arrived g 0 ||| mine)
              strikes := if fresh then 0 else B.strikes }
          let s := s.setGroup G.group { gr with barriers := KV.set gr.barriers b B' }
          let s := s.modGang g fun G =>
            let G := (slicesOf sp.slices).foldl (fun G t =>
              { G with arrs := KV.set G.arrs (arrKey t b) { phase := B.phase, discarded := false } }) G
            if waits then G.setSplit k { sp with st := .barwait, wait := .bar b }
            else (G.setStat 0).finishSplit k
          if n * popcount m ≤ B'.count then some (s.completePhase G.group b) else some s
    | _, _ => some s

/-! ## Queue bindings (17 R257) -/

/-- Faults of network requests whose binding goes before an `nwait` has observed their counters stay to be reported (23
R356): code 1, with the counter's address. -/
def Gang.keepFaults (G : Gang) (Q : QReg) : Gang :=
  Q.reqs.foldl (fun G r =>
    match r.fault with
    | some (c, at_) =>
      if Q.engine = 2 then
        let op := engineOp r.pc (instrOf r.word) r.slices r.tag c at_
        G.addOp { op with held := true, accs := op.accs.map fun p => (p.1, { p.2 with code := 1, cmp := Q.counter r }) }
      else G
    | none => G) G

/-- `qbind` once the queue is drained, or an unbind: replaces the binding; unfinished framed words are discarded. -/
def Gang.bindQueue (G : Gang) (q : Fin 8) (w base : Dword) : Gang :=
  (G.keepFaults (G.queue q.val)).setQueue q.val { engine := (w.extractLsb' 0 2).toNat, base := base, frame := [], reqs := [] }

/-! ## Status of spawn -/

/-- `stat` of a completed `spawn`: MALFORMED, then BADLAUNCH, then OK, and the lanes rejected (19 R317). -/
def spawnStatus (mal bad : Word) : Dword :=
  (mal ||| bad) ++ BitVec.ofNat 32 (if mal ≠ 0 then 8 else if bad ≠ 0 then 9 else 0)

/-! ## Waking a split -/

/-- The matrix unit forgets its record of chained accumulators (15 R239, step 3). -/
def Gang.unchain (G : Gang) : Gang :=
  { G with ops := G.ops.map fun p => (p.1, { p.2 with mat := p.2.mat.map fun m => { m with chained := false } }) }

/-- The memory results the split issued have all been delivered (11 R192). -/
def Gang.resultsIn (G : Gang) (sl : BitVec 8) : Bool := !G.resultsBefore sl G.nextOp

/-- Sets the state and wait of a split. -/
def State.setWait (s : State) (g k : Nat) (st : SplitState) (w : Wait) : State :=
  s.modGang g fun G => { G with splits := KV.mod G.splits k fun sp => { sp with st := st, wait := w } }

/-- Ends the wait of a split. -/
def State.finish (s : State) (g k : Nat) : State := s.modGang g fun G => G.finishSplit k

/-- An acquire at a scope, where there is one. -/
def State.acquireAt (s : State) (core : Nat) (sc : Option Scope) : State :=
  match sc with
  | some sc => s.acquire core sc
  | none => s

/-- The acquire that a split completes where its report lets it go on: of an `rawait` or `rwait` that was replayed there (11
R192). -/
def State.acquireLate (s : State) (g k core : Nat) : State :=
  s.acquireAt core (((s.gang g).bind fun G => KV.find G.splits k).bind Split.acqAfter)

/-- After a report that let the split go on: an acquire at a scope, and the end of the wait. -/
def State.reported (s : State) (g k core : Nat) (sc : Option Scope) : Option State :=
  match s.report g k with
  | none => none
  | some (s, true) => some (((s.acquireAt core sc).acquireLate g k core).finish g k)
  | some (s, false) => some s

/-- A held trap whose split still waits for it. -/
def HeldTrap.stands (h : HeldTrap) (G : Gang) : Bool :=
  match h with
  | .precise k _ _ _ => ((KV.find G.splits k).map fun sp => sp.wait == Wait.none && sp.st != SplitState.ready).getD false
  | .memFault k => ((KV.find G.splits k).map fun sp => sp.st == SplitState.faultpark && !sp.toOs).getD false

/-- Delivers the first trap of a list that still stands, and keeps those behind it. -/
def State.raiseFirst (s : State) (g : Nat) : List HeldTrap → State
  | [] => s.modGang g fun G => { G with held := [] }
  | h :: rest =>
    if ((s.gang g).map h.stands).getD false then
      let s := s.modGang g fun G => { G with held := rest }
      match h with
      | .precise k t w tpc => s.raise g k t w tpc []
      | .memFault k => s.deliverFaults g k
    else s.raiseFirst g rest

/-- After a return from TRAP, the traps held for other splits are delivered, one split at a time, in the order in which they
came (17 R270). -/
def State.raiseHeld (s : State) (g : Nat) : State := s.raiseFirst g (((s.gang g).map Gang.held).getD [])

/-- Ends the slices of a split at `exit` (01 R43, 03 R78): the last one makes the gang RETIRING; the exit of a handler
returns the gang to RESIDENT (17 R269), that of another split does not. -/
def State.exitSplit (s : State) (g k : Nat) : State :=
  match s.gang g with
  | none => s
  | some G =>
    match KV.find G.splits k with
    | none => s
    | some sp =>
      let wasTrap := G.trapSplit = some k
      let last := (KV.del G.splits k).isEmpty
      let s := if last then s.breakRings g else s
      let s := s.modGang g fun G =>
        let G := G.dropSplit k sp
        let G := if wasTrap then { G with st := .resident, trap := none } else G
        let G := if last then { G with st := .retiring, held := [] } else G
        G.tryMerge
      let s := if wasTrap && !last then s.raiseHeld g else s
      s.nopool G.group

/-- One transition of a waiting split whose condition holds; `none` when it still waits (01 R41). -/
def State.wakeStep (s : State) (g k : Nat) : Option State :=
  match s.gang g with
  | none => none
  | some G =>
    match KV.find G.splits k with
    | none => none
    | some sp =>
      if sp.st = .ready || (G.st != .resident && G.st != .trap) then none
      else if sp.st = .faultpark then s.joinReport g k G sp
      else
        match sp.wait with
        | .none => none
        | .marker => s.reported g k G.core none
        | .acq sc => s.reported g k G.core (some sc)
        | .rel sc => if G.released sp.slices sc G.nextOp then some (s.finish g k) else none
        | .fence sc =>
          if G.released sp.slices sc G.nextOp then some (s.setWait g k .segwait (.fenceAcq sc)) else s.reportHeld g k
        | .fenceAcq sc => s.reported g k G.core (some sc)
        | .fsc sys =>
          if G.released sp.slices (if sys then .sys else .chip) G.nextOp
          then some (s.setWait g k .segwait (.fscEdge sys false)) else s.reportHeld g k
        | .fscEdge _ _ => none
        | .fscAcq sys => s.reported g k G.core (some (if sys then .sys else .chip))
        | .exit =>
          if G.mayFault sp.slices then none
          else
            match s.report g k with
            | none => none
            | some (s, true) => some (s.exitSplit g k)
            | some (s, false) => some s
        | .barRel b m n waits =>
          if G.released sp.slices G.scope G.nextOp then
            match s.arrive g k b m n waits with
            | some s => some s
            | none => some (s.raise g k (.maskmismatch b) (s.waitWord G sp) sp.ipc [])
          else none
        | .bar _ => none
        | .regang => none
        | .claim _ => none
        | .give n =>
          if G.givenPending n then none
          else if G.topGranules < n then some (s.raise g k (.regbound G.regBound) (s.waitWord G sp) sp.ipc [])
          else some ((s.giveTop g n).finish g k)
        | .op o =>
          match KV.find G.ops o with
          | none => some (s.finish g k)
          | some op => if op.goodAccs.isEmpty then some (s.finish g k) else none
        | .cwait h =>
          if G.copiesDone h then (s.modGang g fun G => G.wakeFaults h).reported g k G.core (some .chip) else s.reportHeld g k
        | .yield h pc =>
          if G.copiesDone h && G.resultsIn sp.slices then
            some (((s.acquire G.core .chip).modGang g fun G =>
              { G.wakeFaults h with splits := KV.mod G.splits k fun sp => { sp with pc := pc } }).finish g k)
          else none
        | .nwait o =>
          match KV.find G.ops o with
          | none => s.reported g k G.core (some .sys)
          | some op => if op.goodAccs.isEmpty then s.reported g k G.core (some .sys) else s.reportHeld g k
        | .push q w i =>
          if G.released sp.slices (if (G.queue q.val).engine = 2 then .sys else .chip) G.nextOp then
            match s.takePush g k q w sp.ipc i with
            | none => none
            | some s =>
              match s.gang g with
              | none => none
              | some G =>
                if (G.queue q.val).reqs.any fun r => r.st == .reading && r.tag == w
                then some (s.setWait g k .evwait (.reqRead q w)) else some (s.finish g k)
          else none
        | .reqRead q w =>
          if (G.queue q.val).reqs.any fun r => r.st == .reading && r.tag == w then none else some (s.finish g k)
        | .qbind q w base =>
          let unbind := w.extractLsb' 0 2 == 0
          if (G.queue q.val).drained || (unbind && (G.queue q.val).allDone)
          then some ((s.modGang g fun G => G.bindQueue q w base).finish g k) else none
        | .sysc n sent =>
          if !sent && G.released sp.slices .sys G.nextOp then
            some ((s.setWait g k .evwait (.sysc n true)).emit
              (.sysc n g ((List.range 6).map fun j => G.sreg (32 + j))))
          else none
        | .spawn _ todo mal bad =>
          if todo = 0 && G.released sp.slices .chip G.nextOp
          then some ((s.modGang g fun G => { G with stat := spawnStatus mal bad }).finish g k) else none
        | .bleave =>
          if G.released sp.slices .bent G.nextOp
          then some ((s.modGang g fun G => { G with member := false }).finish g k) else none
        | .acqQuiet sc =>
          if G.resultsIn sp.slices then some ((s.acquire G.core sc).finish g k) else none
        | .tcfg d =>
          -- faults of the split come first; then every matrix instruction of the gang is waited for (15 R239)
          match s.report g k with
          | none => none
          | some (s, false) => some s
          | some (t, true) =>
            if G.ops.any (fun p => match p.2.mat with | some m => !m.done | none => false) then none
            else
              let tile : Tile :=
                { m := (d.extractLsb' 0 8).toNat, n := (d.extractLsb' 8 8).toNat, k := (d.extractLsb' 16 16).toNat }
              some (((t.modGang g fun G => { G.unchain with tile := some tile }).acquireLate g k G.core).finish g k)
        | .quad => none

/-- One transition of the first split of a gang, in the order of the split table, whose condition holds. -/
def State.wakeOne (s : State) (g : Nat) : Option State :=
  match s.gang g with
  | none => none
  | some G => G.splits.findSome? fun p => s.wakeStep g p.1

/-- Examines the splits of a gang until none goes on, with room for every transition that one event can bring about. -/
def State.wakeFuel (g : Nat) : Nat → State → State
  | 0, s => s
  | n + 1, s =>
    match s.wakeOne g with
    | some s => State.wakeFuel g n s
    | none => s

/-- Examines the splits of a gang until none goes on (01 R41). -/
def State.wakeGang (s : State) (g : Nat) : State := State.wakeFuel g 64 s

/-- The barrier phases of a group. -/
def State.phases (s : State) (gr : Nat) : List Nat :=
  match s.group gr with
  | none => []
  | some G => G.barriers.map fun p => p.2.phase

/-- Examines every gang of a list. -/
def State.wakeAll (s : State) (l : List Nat) : State := l.foldl (fun s g => s.wakeGang g) s

/-- Examines the gangs of a list again as long as a phase of a barrier of their group completes. -/
def State.wakePhases (gr : Nat) (l : List Nat) : Nat → State → State
  | 0, s => s
  | n + 1, s =>
    let t := s.wakeAll l
    if t.phases gr = s.phases gr then t else State.wakePhases gr l n t

/-- A split becomes READY once its condition holds, and no other event is needed (01 R41): the splits of a gang are examined,
and those of its whole group when a phase of a barrier has completed. -/
def State.wake (s : State) (g : Nat) : State :=
  match s.gang g with
  | none => s
  | some G =>
    let t := s.wakeGang g
    if t.phases G.group = s.phases G.group then t
    else
      match t.group G.group with
      | none => t
      | some gr => State.wakePhases G.group gr.gangs 64 t

/-- Wakes every gang of a group. -/
def State.wakeGroup (s : State) (gr : Nat) : State :=
  match s.group gr with
  | none => s
  | some G => s.wakeAll G.gangs

end Sys2Proof.Machine
end

