-- ==== Sys2Proof/Machine/MatrixOps.lean ====
section
/-! DEFINITION. Shared operations of the matrix instructions: the format block (15 R240, R241), where the operands lie
(R242, R243), the reads made at issue (R244, R247), the tests of R246, and the arithmetic (05 R110 to R113, R126 to R129). -/

namespace Sys2Proof

/-- K-step of an operand type (15 Table 15-1); 0 for a type that no operand has. -/
def EType.kStep : EType → Nat
  | .e2m1 => 8
  | .e4m3 | .e5m2 => 4
  | .fp16 | .bf16 => 2
  | .fp32 | .fp64 | .cf32 => 1
  | .i32 | .n32 | .i8 | .n8 | .i4 | .n4 => 0

/-- Registers per group of an operand type (15 Table 15-1). -/
def EType.groupRegs : EType → Nat
  | .fp64 | .cf32 => 2
  | .e2m1 | .e4m3 | .e5m2 | .fp16 | .bf16 | .fp32 | .i32 | .n32 | .i8 | .n8 | .i4 | .n4 => 1

/-- Types whose operands are scaled (15 R241). -/
def EType.isScaled : EType → Bool
  | .e2m1 | .e4m3 | .e5m2 => true
  | .fp32 | .fp64 | .fp16 | .bf16 | .cf32 | .i32 | .n32 | .i8 | .n8 | .i4 | .n4 => false

end Sys2Proof

namespace Sys2Proof.Machine

/-! ## The format block -/

/-- One operand's half of a format block. -/
structure FbSide where
  t      : EType
  /-- The scale format is E4M3. -/
  scaleE4 : Bool
  bl     : Nat
  scale  : Dword
  outl   : Dword
deriving DecidableEq, Repr

/-- A well-formed format block (15 Table 15-2). -/
structure Fb where
  a    : FbSide
  b    : FbSide
  quad : Bool
  vB   : Nat
deriving DecidableEq, Repr

/-- A signed 32-bit offset of a block. -/
def fbOffset (l : List Byte) (o : Nat) : Dword := (BitVec.ofNat 32 (field l o 4)).signExtend 64

/-- One side of a block; `none` when it is malformed by itself (15 R241). -/
def fbSide (d : Nat) (so oo : Dword) : Option FbSide :=
  match EType.ofNum (BitVec.ofNat 4 d) with
  | none => none
  | some t =>
    if 64 ≤ d || t.kStep = 0 then none
    else if !t.isScaled && (d / 16 ≠ 0 || so ≠ 0 || oo ≠ 0) then none
    else if t.isScaled && t ≠ .e2m1 && oo ≠ 0 then none
    else some { t := t, scaleE4 := d / 32 % 2 = 1, bl := if d / 16 % 2 = 1 then 32 else 16, scale := so, outl := oo }

/-- Reads a format block; `none` when it is malformed (15 R241). -/
def Fb.ofBytes (l : List Byte) : Option Fb :=
  match fbSide (field l 0 1) (fbOffset l 8) (fbOffset l 12), fbSide (field l 1 1) (fbOffset l 16) (fbOffset l 20) with
  | some a, some b =>
    if field l 2 1 / 2 ≠ 0 || field l 4 4 ≠ 0 || field l 24 8 ≠ 0 || 192 ≤ field l 3 1 then none
    else if (a.t.isScaled && b.t.isScaled) || a.t = b.t then
      some { a := a, b := b, quad := field l 2 1 % 2 = 1, vB := field l 3 1 }
    else none
  | _, _ => none

/-- Registers per accumulator element (15 Table 15-3). -/
def Fb.wC (f : Fb) : Nat := if f.a.t = .fp64 || f.a.t = .cf32 then 2 else 1

/-- A lo tile exists (15 R242). -/
def Fb.hasLo (f : Fb) (comp : Bool) : Bool := comp && (f.a.t = .fp32 || f.a.t = .cf32)

/-- Columns of B that one gang holds (15 R242). -/
def Fb.ownCols (f : Fb) (n : Nat) : Nat := if f.quad then n / 4 else n

/-- Registers of the A tile. -/
def Fb.lenA (f : Fb) (k : Nat) : Nat := k / f.a.t.kStep * f.a.t.groupRegs

/-- Registers that one k-step of the B tile spans, over w: cB of R242. -/
def Fb.cB (f : Fb) (n : Nat) : Nat := (f.ownCols n + 31) / 32

/-- Registers of the B tile. -/
def Fb.lenB (f : Fb) (n k : Nat) : Nat := k / f.b.t.kStep * f.cB n * f.b.t.groupRegs

/-- Registers of the accumulator and lo tiles together. -/
def Fb.lenC (f : Fb) (n : Nat) (comp : Bool) : Nat := n * f.wC * (if f.hasLo comp then 2 else 1)

/-! ## Reads at issue -/

/-- The outcome of a read by a matrix instruction. -/
inductive MatRead where
  | ok (l : List Byte)
  | fault (cause : Nat)
  | poison (pa : Nat)
deriving DecidableEq, Repr

/-- Whether any of n bytes that an engine would read carries a poison mark: the key of the first such byte. -/
def State.poisonAt (s : State) (g : Nat) (G : Gang) (va : Dword) : Nat → Option Nat
  | 0 => none
  | n + 1 =>
    match State.poisonAt s g G va n with
    | some p => some p
    | none =>
      match s.engineByte g G (va + BitVec.ofNat 64 n) false with
      | (.inl k, s) => if s.mem.poisoned k 1 then some k else none
      | (.inr _, _) => none

/-- Bytes of another module, which the model does not hold: free values (log 4). -/
def State.freeBytes (s : State) : Nat → List Byte × State
  | 0 => ([], s)
  | n + 1 =>
    let (l, s) := State.freeBytes s n
    (l ++ [Config.freeByte s.fresh], s.tick)

/-- Reads n naturally aligned bytes for matrix instruction `o` of a split, in windows 2 to 4 or in global memory (15 R240,
R247). Behind a fault of its split on the page it meets the same fault (17 R272). -/
def State.matRead (s : State) (g : Nat) (G : Gang) (sl : BitVec 8) (o : Nat) (va : Dword) (n : Nat) : MatRead × State :=
  if va.toNat % n ≠ 0 then (.fault causeAlign, s)
  else if let some c := G.pageFault sl o va then (.fault c, s)
  else
    match s.locate g G 32 va n with
    | .fault c => (.fault c, s)
    | .place (.reg _) => (.fault causeWindow, s)
    | .place (.remote _) =>
      let (l, s) := s.freeBytes n
      (.ok l, s)
    | .place (.hbm _) | .place (.carve _ _) | .place (.scratch _ _) | .place (.share _ _) | .place (.priv _ _ _)
    | .translate =>
      match s.poisonAt g G va n with
      | some p => (.poison p, s)
      | none =>
        match s.engineRead g G va n with
        | (.inl l, s) => (.ok l, s)
        | (.inr c, s) => (.fault c.1, s)

/-- Whether a store of the gang before instruction `o` that overlaps n bytes at `va` is unacknowledged, so that a read waits
(07 R154, 11 R184). -/
def Gang.storeBefore (G : Gang) (o : Nat) (va : Dword) (n : Nat) : Bool :=
  G.ops.any fun p => decide (p.1 < o) && p.2.kind.writes && p.2.goodAccs.any fun a => overlap a.2.va a.2.size va n

/-- The same for an instruction about to issue. -/
def Gang.storePending (G : Gang) (va : Dword) (n : Nat) : Bool := G.storeBefore G.nextOp va n

/-- One byte range that a matrix instruction reads as scale or outlier record: its key in `sides`, address, length. -/
structure SideRead where
  key : Nat
  va  : Dword
  len : Nat
deriving DecidableEq, Repr

/-- The reads of one scaled side for the blocks given: the scale byte, and for E2M1 its outlier record (R243). -/
def FbSide.reads (x : FbSide) (fbVa : Dword) (base : Nat) (blocks : List Nat) : List SideRead :=
  if !x.t.isScaled then []
  else
    blocks.flatMap fun b =>
      let sc : SideRead := { key := base + b * 32, va := fbVa + x.scale + BitVec.ofNat 64 b, len := 1 }
      let rs := x.bl / 2
      if x.t = .e2m1 then
        [sc, { key := base + b * 32 + 1, va := fbVa + x.outl + BitVec.ofNat 64 (b * rs), len := rs }]
      else [sc]

/-- Where the keys of B begin in `sides`. -/
def sideB : Nat := 2 ^ 40

/-- Every scale byte and outlier record that `mma` or `mmc` reads: of A for its active rows, of B for the gang's own
columns (R243, R248). -/
def Fb.sideReads (f : Fb) (fbVa : Dword) (n k : Nat) (rows : Word) (quadrant : Nat) : List SideRead :=
  let nA := if f.a.bl = 0 then 0 else k / f.a.bl
  let nB := if f.b.bl = 0 then 0 else k / f.b.bl
  let first := if f.quad then quadrant * (n / 4) else 0
  f.a.reads fbVa 0 ((lanesOf rows).flatMap fun r => (List.range nA).map fun j => r * nA + j) ++
    f.b.reads fbVa sideB ((List.range (f.ownCols n)).flatMap fun c => (List.range nB).map fun j => (first + c) * nB + j)

/-- What the reads of scales and outlier records gave. -/
inductive SidesRead where
  | ok (l : KV Byte)
  | faults (l : List (Dword × Nat))
  | poison (pa : Nat)
deriving DecidableEq, Repr

/-- Adds bytes at rising keys. -/
def putBytes (m : KV Byte) (key : Nat) : List Byte → KV Byte
  | [] => m
  | b :: r => putBytes (KV.set m key b) (key + 1) r

/-- Reads every scale and outlier record, in order. -/
def State.readSides (s : State) (g : Nat) (G : Gang) (sl : BitVec 8) (o : Nat) : List SideRead → SidesRead × State
  | [] => (.ok [], s)
  | r :: rest =>
    match s.matRead g G sl o r.va r.len with
    | (.poison p, s) => (.poison p, s)
    | (.ok l, s) =>
      match State.readSides s g G sl o rest with
      | (.ok m, s) => (.ok (putBytes m r.key l), s)
      | (.faults f, s) => (.faults f, s)
      | (.poison p, s) => (.poison p, s)
    | (.fault c, s) =>
      match State.readSides s g G sl o rest with
      | (.ok _, s) => (.faults [(r.va, c)], s)
      | (.faults f, s) => (.faults ((r.va, c) :: f), s)
      | (.poison p, s) => (.poison p, s)

/-- The bytes that a quad's other gangs take for scales and outlier records of which a read has faulted: free (15 R248; log
36). -/
def State.freeSides (s : State) : List SideRead → KV Byte × State
  | [] => ([], s)
  | r :: rest =>
    let (l, s) := s.freeBytes r.len
    let (m, s) := s.freeSides rest
    (putBytes m r.key l, s)

/-- The page on which an access of a gang met its fault, by the leaf that a TLB holds. -/
def State.pageBits (s : State) (G : Gang) (va : Dword) : Nat := ((s.tlbHit G.core G.ctx (vpnOf va)).map Leaf.bits).getD 12

/-- The faulted reads of a matrix instruction, reported at the next report point (R247). Their records name no lane: the lane field
is all ones, as for a scalar-wise access; Table 17-8 names no lane for a vector-wise instruction whose read belongs to none
(DESIGN CHOICE, log 36). -/
def State.sideFaults (s : State) (G : Gang) (l : List (Dword × Nat)) : KV Acc :=
  l.zipIdx.map fun p => (p.2, { Acc.mk' 32 p.1.1 1 0 0 with st := .fault p.1.2, page := s.pageBits G p.1.1 })

/-! ## The tests of R246 -/

/-- What the tests and the effect of a matrix instruction are made of. -/
structure MatArgs where
  kind : MatKind
  vC   : Nat
  /-- The A tile base; unused by `mzero` and `mfin`. -/
  vA   : Nat
  tile : Tile
  fb   : Fb
  fbVa : Dword
  comp : Bool
  rows : Word

/-- Whether it reads A and B tiles. -/
def MatArgs.mults (x : MatArgs) : Bool :=
  match x.kind with
  | .mma | .mmc => true
  | .mzero | .mfin => false

/-- The base that stands for zr where an instruction names the first of several V registers (03 R57): above every register, it
reads zero. As the accumulator of `mzero` and `mfin` it is no tile, and the result is discarded. -/
def noBase : Nat := 256

/-- Its tiles as (first register, number of registers): A, B, accumulator, lo (R242). -/
def MatArgs.tiles (x : MatArgs) : List (Nat × Nat) :=
  let n := x.tile.n
  let c := if x.vC = noBase then [] else (x.vC, n * x.fb.wC) :: (if x.fb.hasLo x.comp then [(x.vC + n * x.fb.wC, n * x.fb.wC)] else [])
  if x.mults then (x.vA, x.fb.lenA x.tile.k) :: (x.fb.vB, x.fb.lenB n x.tile.k) :: c else c

/-- Two tiles of a list overlap. -/
def tilesOverlap : List (Nat × Nat) → Bool
  | [] => false
  | a :: r => (r.any fun b => decide (a.1 < b.1 + b.2) && decide (b.1 < a.1 + a.2)) || tilesOverlap r

/-- A side that K does not fit. -/
def FbSide.badK (f : FbSide) (k : Nat) : Bool :=
  k % f.t.kStep ≠ 0 || (f.t.isScaled && k % f.bl ≠ 0)

/-- Step 2 of R246; `mzero` and `mfin` leave out the A and B tiles, and K is tested all the same (R250). -/
def MatArgs.illegal (x : MatArgs) : Bool :=
  x.fb.a.badK x.tile.k || x.fb.b.badK x.tile.k ||
    (x.fb.wC = 2 && x.vC % 2 = 1) ||
    (x.mults && ((x.fb.a.t.groupRegs = 2 && x.vA % 2 = 1) || (x.fb.b.t.groupRegs = 2 && x.fb.vB % 2 = 1))) ||
    tilesOverlap x.tiles ||
    (x.kind = .mfin && !x.fb.hasLo x.comp)

/-- The registers of a list of tiles at or above the bound (step 4 of R246). -/
def tilesBound (bound : Nat) : List (Nat × Nat) → List Trap
  | [] => []
  | (v, n) :: r => ((List.range n).filter fun j => bound ≤ v + j).map (fun j => .regbound (v + j)) ++ tilesBound bound r

/-- Whether an outstanding matrix instruction works on the same tile (R245). -/
def Mat.sameTile (m : Mat) (vC n wC : Nat) (lo : Bool) : Bool :=
  match Fb.ofBytes m.fb with
  | none => false
  | some f => m.vC = vC && m.n = n && f.wC = wC && f.hasLo m.comp == lo

/-- The instruction that makes a register of a lane Pending. -/
def Gang.pendingOp (G : Gang) (v lane : Nat) : Option Nat := KV.find G.pend (v * 32 + lane)

/-- The registers of a span Pending in one of the lanes, where `ok` does not excuse its instruction. -/
def Gang.spanHazard (G : Gang) (lanes : Word) (ok : Nat → Bool) (v n : Nat) : List Trap :=
  ((List.range n).filter fun j =>
    (lanesOf lanes).any fun i =>
      match G.pendingOp (v + j) i with
      | some o => !ok o
      | none => false).map fun j => .hazard (v + j)

/-- The first of two conditions that hold in the order given. -/
def firstTrap (a b : List Trap) : List Trap := if a.isEmpty then b else a

/-- Step 5 of R246: A in the rows read, B in every lane, the accumulator and lo tiles but for the chaining of R245. -/
def MatArgs.hazard (x : MatArgs) (G : Gang) : List Trap :=
  let lo := x.fb.hasLo x.comp
  let chained (o : Nat) : Bool :=
    match (KV.find G.ops o).bind Op.mat with
    | some m => m.chained && m.sameTile x.vC x.tile.n x.fb.wC lo
    | none => false
  let none_ (_ : Nat) : Bool := false
  let ab := if x.mults then
      G.spanHazard x.rows none_ x.vA (x.fb.lenA x.tile.k) ++
        G.spanHazard 0xFFFFFFFF none_ x.fb.vB (x.fb.lenB x.tile.n x.tile.k)
    else []
  ab ++ G.spanHazard x.rows chained x.vC (x.fb.lenC x.tile.n x.comp)

/-! ## Values -/

/-- The code of element j of a group of registers (Table 15-1). -/
def groupCode (t : EType) (w0 w1 : Word) (j : Nat) : Nat :=
  match t with
  | .e2m1 => w0.toNat / 2 ^ (4 * j) % 16
  | .e4m3 | .e5m2 => w0.toNat / 2 ^ (8 * j) % 256
  | .fp16 | .bf16 => w0.toNat / 2 ^ (16 * j) % 65536
  | .fp64 => w0.toNat + 2 ^ 32 * w1.toNat
  | .fp32 | .cf32 | .i32 | .n32 | .i8 | .n8 | .i4 | .n4 => w0.toNat

/-- The value of a scale byte (05 Table 5-4). -/
def scaleValue (isE4 : Bool) (b : Nat) : FV :=
  if isE4 then (if b = 0x7F || 128 ≤ b then .nan else e4m3.value b)
  else if b = 255 then .nan else .fin false 1 ((b : Int) - 127)

/-- The codes of elements `first` to `first + n - 1` of a row of A or a column of B; `rd` gives a register of the tile. -/
def tileCode (t : EType) (rd : Nat → Word) (k : Nat) : Nat :=
  let r := k / t.kStep * t.groupRegs
  groupCode t (rd r) (rd (r + 1)) (k % t.kStep)

/-- The value of element k of a row of A or of a column of B (05 R111, R113; 15 R243). `line` is the row or the column,
`rd` reads a register of the tile in its lane, `base` is where its keys begin. -/
def elemValue (x : FbSide) (sides : KV Byte) (base line kAll : Nat) (rd : Nat → Word) (k : Nat) : FV :=
  let code := tileCode x.t rd k
  match x.t.fmt with
  | none => .nan
  | some f =>
    if !x.t.isScaled then f.value code
    else
      let blk := line * (kAll / x.bl) + k / x.bl
      let byte (j : Nat) : Nat := (KV.get sides (base + blk * 32 + j) 0).toNat
      if x.t = .e2m1 && code = 8 then
        let first := k / x.bl * x.bl
        let e := ((List.range (k - first)).filter fun j => tileCode x.t rd (first + j) = 8).length
        if e < x.bl / 4 then fp16.value (byte (1 + 2 * e) + 256 * byte (2 + 2 * e)) else .nan
      else (f.value code).mul (scaleValue x.scaleE4 (byte 0))

/-! ## Accumulation (05 R126 to R129) -/

/-- One step of R127 or R128 on a pair (hi, lo) of codes with the exact product p. -/
def accStep (f : Fmt) (comp : Bool) (c : Nat × Nat) (p : FV) : Nat × Nat :=
  let hi := f.value c.1
  if !comp then (f.rn (FV.add .rne hi p), c.2)
  else
    let ph := f.value (f.rn p)
    let pl := if ph.special then FV.fin false 0 0 else FV.add .rne p ph.neg
    let t := FV.add .rne hi ph
    let s := f.rn t
    let e := if (f.value s).special then FV.fin false 0 0 else FV.add .rne t (f.value s).neg
    let el := f.value (f.rn (FV.add .rne e pl))
    (s, f.rn (FV.add .rne (f.value c.2) el))

/-- The accumulator code at a register of a row, and its writing. -/
def Gang.accRead (G : Gang) (wide : Bool) (v lane : Nat) : Nat :=
  if wide then (G.vreg v lane).toNat + 2 ^ 32 * (G.vreg (v + 1) lane).toNat else (G.vreg v lane).toNat

/-- Writes an accumulator code. -/
def Gang.accWrite (G : Gang) (wide : Bool) (v lane code : Nat) : Gang :=
  if wide then (G.setV v lane (BitVec.ofNat 32 code)).setV (v + 1) lane (BitVec.ofNat 32 (code / 2 ^ 32))
  else G.setV v lane (BitVec.ofNat 32 code)

/-- Runs the steps of one pair over the products in increasing k. -/
def accRun (f : Fmt) (comp : Bool) (c : Nat × Nat) (ps : List FV) : Nat × Nat := ps.foldl (accStep f comp) c

/-- A register of a captured tile in a lane. -/
def tileReg (t : KV Word) (lane r : Nat) : Word := KV.get t (r * 32 + lane) 0

/-- The tile and the scale bytes of B for a column: the gang's own, or its partner's in quad mode (R248). -/
def Mat.columnB (m : Mat) (f : Fb) (col : Nat) : KV Word × KV Byte :=
  if f.quad then
    match m.quarters.find? fun q => q.1 == col / (m.n / 4) with
    | some q => q.2
    | none => (m.tileB, m.sides)
  else (m.tileB, m.sides)

/-- Reads a register of column `col` of B in step order: the group offset r of the tile, for the column's part (R242). -/
def Mat.readB (m : Mat) (f : Fb) (t : KV Word) (col r : Nat) : Word :=
  let c := if f.quad then col % (m.n / 4) else col
  let w := f.b.t.groupRegs
  tileReg t (c % 32) ((r / w * f.cB m.n + c / 32) * w + r % w)

/-- One element (r, n) of `mma` or `mmc` (R244). -/
def Mat.element (m : Mat) (f : Fb) (G : Gang) (r n : Nat) : Gang :=
  let comp := f.hasLo m.comp
  let v := m.vC + n * f.wC
  let vl := v + m.n * f.wC
  let (tb, sb) := m.columnB f n
  let ra := tileReg m.tileA r
  let rb := m.readB f tb n
  let ks := List.range m.k
  let fresh := m.kind = .mmc
  if f.a.t = .cf32 then
    let a (k : Nat) : FV × FV := (fp32.value (ra (2 * k)).toNat, fp32.value (ra (2 * k + 1)).toNat)
    let b (k : Nat) : FV × FV := (fp32.value (rb (2 * k)).toNat, fp32.value (rb (2 * k + 1)).toNat)
    let start (o : Nat) : Nat × Nat :=
      if fresh then (0, 0) else ((G.vreg (v + o) r).toNat, if comp then (G.vreg (vl + o) r).toNat else 0)
    let re := accRun fp32 comp (start 0) (ks.flatMap fun k => [(a k).1.mul (b k).1, ((a k).2.mul (b k).2).neg])
    let im := accRun fp32 comp (start 1) (ks.flatMap fun k => [(a k).1.mul (b k).2, (a k).2.mul (b k).1])
    let G := (G.setV v r (BitVec.ofNat 32 re.1)).setV (v + 1) r (BitVec.ofNat 32 im.1)
    if comp then (G.setV vl r (BitVec.ofNat 32 re.2)).setV (vl + 1) r (BitVec.ofNat 32 im.2) else G
  else
    let wide := f.a.t = .fp64
    let fmt := if wide then fp64 else fp32
    let start : Nat × Nat :=
      if fresh then (0, 0) else (G.accRead wide v r, if comp then (G.vreg vl r).toNat else 0)
    let ps := ks.map fun k =>
      (elemValue f.a m.sides 0 r m.k ra k).mul (elemValue f.b sb sideB n m.k rb k)
    let c := accRun fmt comp start ps
    let G := G.accWrite wide v r c.1
    if comp then G.setV vl r (BitVec.ofNat 32 c.2) else G

/-- The fold of one lo register of a row into its hi register (05 R129). -/
def Gang.foldLo (G : Gang) (v vl r : Nat) : Gang :=
  let hi := fp32.rn (FV.add .rne (fp32.value (G.vreg v r).toNat) (fp32.value (G.vreg vl r).toNat))
  (G.setV v r (BitVec.ofNat 32 hi)).setV vl r 0

/-- What a matrix instruction delivers, one row after another (R244, R250). -/
def Mat.deliver (m : Mat) (G : Gang) : Gang :=
  match Fb.ofBytes m.fb with
  | none => G
  | some f =>
    let row (G : Gang) (r : Nat) : Gang :=
      match m.kind with
      | .mma | .mmc => (List.range m.n).foldl (fun G n => m.element f G r n) G
      | .mzero => (List.range (f.lenC m.n m.comp)).foldl (fun G j => G.setV (m.vC + j) r 0) G
      | .mfin =>
        (List.range (m.n * f.wC)).foldl (fun G j => G.foldLo (m.vC + j) (m.vC + m.n * f.wC + j) r) G
    (lanesOf m.rows).foldl row G

end Sys2Proof.Machine
end

