-- ==== Sys2Proof/Machine/Issue.lean ====
section
/-! DEFINITION. Issuing an instruction: its charge to the draw record (21 R332, Table 21-3), the tests of Table 3-10 in their
order (03 R87), the waits before issue (21 R330, R334), the watchdog (01 R50, R51), the segment marker (03 R77). -/

namespace Sys2Proof.Machine

/-! ## Charges -/

/-- How an instruction is charged. -/
inductive Charge where
  /-- A weight of Table 21-3, per active lane of a vector-wise instruction or once. -/
  | flat (weight : Nat) (vec : Bool)
  /-- `sel`, whose active lanes leave out the guard (07 R141). -/
  | selLanes
  /-- A matrix instruction: whether it multiplies, and the register that holds its format block's address. -/
  | matrix (mult : Bool) (fb : Reg)
deriving DecidableEq, Repr

/-- The charge of an instruction word (Table 21-3); an event of the part charges nothing. -/
def chargeOf : Instr → Charge
  | .nop _ | .br _ _ | .brz _ _ _ | .brnz _ _ _ | .call _ _ | .ret _ | .jr _ _ _ | .part _ _ _ | .regang _
  | .yield _ _ _ | .exit _ | .setm _ _ | .trap _ _ | .tret _ | .sysc _ _ | .rdsr _ _ _ | .wrsr _ _ _ | .acq _ _
  | .rel _ _ | .fence _ _ | .fsc _ _ | .xfence _ | .bar _ _ _ _ | .barar _ _ _ _ | .barw _ _ | .give _ _ | .claim _ _
  | .bjoin _ | .bleave _ | .tcfg _ _ | .tryBrace _ _ _ | .fail _ | .resume _ _ | .cut _ _ _ | .bset _ _ | .rmin _ _ _
  | .rmax _ _ _ | .rrd _ _ _ => .flat 0 false
  | .add _ d a b | .sub _ d a b | .mul _ d a b | .mulh _ d a b | .and _ d a b | .or _ d a b | .xor _ d a b
  | .shl _ d a b | .shr _ d a b | .sar _ d a b | .rot _ d a b | .min _ d a b | .max _ d a b => .flat 1 (vectorWise d [a, b])
  | .sel _ _ _ _ => .selLanes
  | .mov _ d a | .popc _ d a | .clz _ d a | .ffs _ d a => .flat 1 (vectorWise d [a])
  | .li _ d _ | .lih _ d _ => .flat 1 d.isV
  | .addImm _ d a _ | .mulImm _ d a _ | .andImm _ d a _ | .orImm _ d a _ | .xorImm _ d a _ | .shlImm _ d a _
  | .shrImm _ d a _ | .sarImm _ d a _ | .rotImm _ d a _ | .minImm _ d a _ | .maxImm _ d a _ => .flat 1 (vectorWise d [a])
  | .ceq _ _ _ _ | .cne _ _ _ _ | .clt _ _ _ _ | .cle _ _ _ _ | .cun _ _ _ _ => .flat 1 true
  | .sceq _ _ _ _ | .scne _ _ _ _ | .sclt _ _ _ _ | .scle _ _ _ _ | .scun _ _ _ _ | .mand _ _ _ _ | .mor _ _ _ _
  | .mxor _ _ _ _ | .mnot _ _ _ | .msave _ _ _ | .mrest _ _ _ | .mpop _ _ _ | .mffs _ _ _ => .flat 1 false
  | .shfl _ d a b | .lsh _ d a b => .flat 2 (vectorWise d [a, b])
  | .shfi _ d a _ _ | .btl _ d a _ | .btlh _ d a _ | .scan _ d a | .rget _ d a => .flat 2 (vectorWise d [a])
  | .rput _ _ _ => .flat 2 true
  | .redadd _ _ _ | .redmin _ _ _ | .redmax _ _ _ => .flat 2 false
  | .queuePush _ _ _ | .queuePop _ _ _ | .fwr _ _ _ | .frd _ _ _ | .frdC _ _ _ | .rclaim _ _ _ | .rcommit _ _ _
  | .rawait _ _ _ | .rretire _ _ _ | .rbind _ _ | .rwait _ _ _ | .cpy _ _ _ _ | .cwait _ _ | .qbind _ _ _
  | .nwait _ _ _ | .steal _ => .flat 3 false
  | .spawn _ _ | .lds _ _ _ _ | .sts _ _ _ _ | .sttb _ _ _ _ | .stth _ _ _ _ | .stt _ _ _ _ => .flat 3 true
  | .ldb _ d a b | .ldh _ d a b | .ldw _ d a b | .ldd _ d a b | .ldq _ d a b | .stb _ d a b | .sth _ d a b
  | .stw _ d a b | .std _ d a b | .stq _ d a b => .flat 3 (d.isV || a.isV || b.isV)
  | .ldbImm _ d a _ | .ldhImm _ d a _ | .ldwImm _ d a _ | .lddImm _ d a _ | .ldqImm _ d a _ | .stbImm _ d a _
  | .sthImm _ d a _ | .stwImm _ d a _ | .stdImm _ d a _ | .stqImm _ d a _ => .flat 3 (d.isV || a.isV)
  | .aadd _ d a _ | .aaddR _ d a _ | .amin _ d a _ | .aminR _ d a _ | .amax _ d a _ | .amaxR _ d a _ | .aand _ d a _
  | .aandR _ d a _ | .aor _ d a _ | .aorR _ d a _ | .axor _ d a _ | .axorR _ d a _ | .axch _ d a _ | .axchR _ d a _
  | .acas _ d a _ | .acasR _ d a _ | .afadd _ d a _ | .afaddR _ d a _ => .flat 3 (d.isV || a.isV)
  | .rwr _ d _ _ => .flat 3 d.isV
  | .fadd _ d a b | .fsub _ d a b | .fmul _ d a b | .fma _ d a b | .fms _ d a b | .fmin _ d a b | .fmax _ d a b => .flat 4 (vectorWise d [a, b])
  | .fneg _ d a | .fabs _ d a | .cvt _ d a _ => .flat 4 (vectorWise d [a])
  | .dot8 _ d a b | .dot4 _ d a b => .flat 4 (vectorWise d [a, b])
  | .div _ d a b => .flat 6 (vectorWise d [a, b])
  | .sqrt _ d a | .rcp _ d a | .rsqrt _ d a => .flat 6 (vectorWise d [a])
  | .mma _ _ _ b | .mmc _ _ _ b => .matrix true b
  | .mzero _ _ a | .mfin _ _ a => .matrix false a
  | .watchdogExpiry | .resultDelivery _ _ _ | .instructionFetchFault _ _ | .faultReplay _ _ _ | .faultDeliver _ _
  | .syscAnswer _ _ _ _ | .barrierTimeout _ _ | .claimServe _ | .storeAcknowledge _ _ _ | .gangRetire _ | .placeGroup
  | .placeFrame | .waitEventTest _ _ _ | .homeLoad _ _ _ | .homeStore _ _ _ | .homeAtomic _ _ _
  | .homeFutureWrite _ _ _ | .homeFutureRead _ _ _ | .homeRingClaim _ _ _ | .homeRingCommit _ _ _
  | .ringRequestResend _ _ _ | .homeRemoteWrite _ _ | .homeCounterWait _ _ _ | .quadTimeout _ _ | .matrixComplete _ _
  | .fscStrikeEdge _ _ | .copyEngineRun _ _ _ _ | .copyComplete _ _ | .gatherRun _ _ _ | .gatherComplete _ _
  | .engineFaultMap _ _ _ | .engineFaultDecline _ _ | .tableWalkComplete _ _ _ | .tlbInvalidate _ _
  | .ridgeOfferAccept _ | .ridgeCopyUpdate _ | .ridgeConfigure _ _ _ | .taskAccept _ _ _ | .taskRemoval _
  | .launchQueueConfigure _ _ _ _ _ | .carveOutGrant _ _ | .chipStrike | .contextStart _ | .contextPreempt _
  | .groupSave _ | .drainComplete _ | .drainDeadline _ | .contextSwitchIn _ | .contextKill _ | .reclaimComplete _
  | .powerSample _ _ | .sensorTakeBack _ | .drawWindowClose _ | .functionLevelReset | .linkRetrain _ _
  | .attachRequest | .detachRequest | .acceptWrite _ | .qtailDoorbell _ _ _ | .queueConfigWrite _ _ _
  | .completionConfigWrite _ _ | .cheadWrite _ _ | .bar0RegisterWrite _ _ | .hostRecordTake _ _ _ | .hostCopy _ _
  | .completionRecordWrite _ | .netPuti _ _ | .netPutm _ _ | .netGet _ _ _ | .netExch _ _ _ | .netPacketReceive _
  | .netAckReceive _ _ | .netRefusalReceive _ _ | .netRetransmitTimeout _ | .netPacketExpiry _ | .roleChange _ _
  | .roleChangeReconfigure _ | .roleChangeAbandon | .coolantCheck _ _ | .coolingClassChange | .uncorrectableError _
  | .hbmScrub _ | .l2Scrub _ | .thermalTrip | .moduleReset | .dyrokWatchdog | .boot _ | .bootTimeout
  | .firmwareUpdate _ | .spdmRequest _ | .pldmMonitorRequest _ | .undecodableWord _ | .fabricPortLinkChange _ _
  | .ptpSyncChange _ _ | .fabricJobJoin _ _ | .contextCreate _ _ => .flat 0 false

/-- A split of a gang waits at `regang`, and another does not (01 R50). -/
def Gang.watching (G : Gang) : Bool :=
  G.st != .trap && (G.splits.any fun p => p.2.st == .regang) && G.splits.any fun p => p.2.st != .regang

/-- The lanes that `sel` treats as active (07 R141). -/
def Gang.selActive (G : Gang) (sl : BitVec 8) : Word :=
  maskOf fun i => G.inSlices sl i && G.live.getLsbD i && (G.mreg 0).getLsbD i

/-- The weight of a matrix instruction by the type of its A operand (Table 21-3, classes 6 to 9). -/
def matWeight (mult : Bool) (t : EType) (comp : Bool) : Nat :=
  if !mult then 4
  else
    match t with
    | .e2m1 | .e4m3 | .e5m2 => 1
    | .fp16 | .bf16 => 2
    | .fp32 | .cf32 => if comp then 8 else 4
    | .fp64 => 8
    | .i32 | .n32 | .i8 | .n8 | .i4 | .n4 => 0

/-- The charge c of R332. -/
def State.charge (s : State) (g : Nat) (G : Gang) (sl : BitVec 8) (i : Instr) : Nat :=
  match chargeOf i with
  | .flat w vec => w * (if vec then popcount (G.active sl) else 1)
  | .selLanes => popcount (G.selActive sl)
  | .matrix mult r =>
    match G.tile, (s.matRead g G sl G.nextOp (G.opnd64 r) 32).1 with
    | some t, .ok l =>
      match Fb.ofBytes l with
      | some f =>
        let rows := ((lanesOf (G.active sl)).filter fun i => decide (i < t.m)).length
        (matWeight mult f.a.t G.comp * rows * t.n * t.k + 63) / 64
      | none => 0
    | _, _ => 0

/-- An instruction of weight 0, which the issue gate lets through (R334). -/
def weightless (i : Instr) : Bool :=
  match chargeOf i with
  | .flat w _ => w == 0
  | .selLanes => false
  | .matrix _ _ => false

/-- The issue gate of a bent is closed (R334). -/
def State.gateClosed (s : State) (core : Nat) : Bool :=
  let B := s.bent (bentOf core)
  decide (B.budget ≤ B.sum)

/-- Charges an issue to the bent's draw record and to the quadrant's window sum (R331, R332). -/
def State.draw (s : State) (core quad c : Nat) : State :=
  if c = 0 then s
  else
    let B := s.bent (bentOf core)
    let C := s.core core
    (s.setBent (bentOf core) { B with sum := B.sum + c }).setCore core
      { C with wsum := KV.set C.wsum quad (KV.get C.wsum quad 0 + c) }

/-! ## Tests -/

/-- The conditions of the first order of Table 3-10 that has one. Lanes whose cancellation meets a malformed record raise
SEARCHOVF before the instruction's own conditions (19 R299). -/
def Tests.first (t : Tests) (ovf : Word) : List Trap :=
  match t.o1, t.o2, t.o3, t.o4 with
  | some x, _, _, _ => [x]
  | none, x :: l, _, _ => x :: l
  | none, [], x :: l, _ => x :: l
  | none, [], [], x :: l => x :: l
  | none, [], [], [] => if ovf ≠ 0 then [.searchovf ovf] else t.o5

/-- One of the conditions of an order: where several registers meet it, which one the trap names is a free choice (log 18). -/
def State.pick (s : State) (l : List Trap) : Option (Trap × State) :=
  match l with
  | [] => none
  | [t] => some (t, s)
  | t :: t' :: r =>
    some (((t :: t' :: r)[Config.freeChoice s.fresh % (t :: t' :: r).length]?).getD t, { s with fresh := s.fresh + 1 })

/-- TPC of a precise trap (17 R268). -/
def Trap.resume (t : Trap) (pc : Dword) : Dword :=
  match t with
  | .trap _ => pc + 4
  | .illop _ | .illreg _ _ | .regbound _ | .hazard _ | .slicemix _ | .regangmix _ | .maskmismatch _ | .clamp _
  | .partialLanes _ | .searchovf _ | .watchdog _ | .bartimeout _ | .memfault _ => pc

/-! ## Issue -/

/-- What stands before an instruction whose tests have passed. -/
inductive Before where
  /-- Nothing: it may issue. -/
  | go
  /-- It waits before issue (21 R330); nothing is settled (19 R308). -/
  | wait
  /-- It ends in a trap of its own, on the machine given. -/
  | ends (t : State)
  /-- It does not issue: its split is held or its gang halts by what the function says, with nothing settled. -/
  | held (f : State → State)

/-- The meaning of an instruction word, as a split of a gang issues it. -/
structure Meaning where
  /-- The conditions of orders 1 to 5 of Table 3-10. -/
  tests : State → Nat → Nat → Gang → Split → Tests
  /-- A wait or an end before issue. -/
  before : State → Nat → Nat → Gang → Split → Before
  /-- The effect, on the machine whose split has advanced to PC + 4. -/
  effect : State → Nat → Nat → Gang → Split → State

/-- No wait before issue. -/
def noWait (_ : State) (_ _ : Nat) (_ : Gang) (_ : Split) : Before := .go

/-- No conditions beyond Table 3-10's general ones. -/
def noTests (_ : State) (_ _ : Nat) (_ : Gang) (_ : Split) : Tests := {}

/-- Issue would take the watchdog counter above its limit (01 R50). `regang` adds nothing (01 R51). -/
def Gang.watchdogDue (G : Gang) (i : Instr) : Bool :=
  G.watching && decide (G.limit < G.wd + 1) &&
    (match i with
     | .regang _ => false
     | _ => true)

/-- The gang and split as the instruction issues: the counter, the age, the program counter (01 R50, 21 R330, 03 R74). -/
def Gang.issued (G : Gang) (k : Nat) (sp : Split) (count : Bool) : Gang :=
  { G with wd := if count && G.watching then G.wd + 1 else G.wd }.setSplit k
    { sp with ipc := sp.pc, pc := sp.pc + 4, age := 0 }

/-- The segment marker of an issued instruction (03 R77): the split waits now, or once its own wait ends. -/
def Split.mark (sp : Split) : Split :=
  if sp.st = .ready then { sp with st := .segwait, wait := .marker } else { sp with seg := true }

/-- Applies the marker to the split that issued and to a split that its `part` made. -/
def Gang.markSplits (G : Gang) (k : Nat) (before : KV Split) : Gang :=
  { G with splits := G.splits.map fun p =>
      (p.1, if p.1 = k || (KV.find before p.1).isNone then p.2.mark else p.2) }

/-- The instructions at which a protected gang compares its two copies: each scalar-wise and gang-wise one, and every store,
atomic, `fwr`, ring, `rwr`, engine push and `cpy`; no load and no other read of a value that comes from outside the gang (17
R293, R294). -/
def compares (i : Instr) : Bool :=
  match i with
  | .ldb _ _ _ _ | .ldh _ _ _ _ | .ldw _ _ _ _ | .ldd _ _ _ _ | .ldq _ _ _ _ | .ldbImm _ _ _ _ | .ldhImm _ _ _ _
  | .ldwImm _ _ _ _ | .lddImm _ _ _ _ | .ldqImm _ _ _ _ | .lds _ _ _ _ | .frd _ _ _ | .frdC _ _ _ | .rwait _ _ _
  | .queuePop _ _ _ | .rrd _ _ _ | .nwait _ _ _ => false
  | .stb _ _ _ _ | .sth _ _ _ _ | .stw _ _ _ _ | .std _ _ _ _ | .stq _ _ _ _ | .stbImm _ _ _ _ | .sthImm _ _ _ _
  | .stwImm _ _ _ _ | .stdImm _ _ _ _ | .stqImm _ _ _ _ | .rwr _ _ _ _ => true
  | .sel _ d a b => !vectorWise d [a, b]
  | _ =>
    match chargeOf i with
    | .flat w vec => w = 3 || !vec
    | .selLanes | .matrix _ _ => false

/-- Whether an instruction counts toward the watchdog. -/
def counts (i : Instr) : Bool :=
  match i with
  | .regang _ => false
  | _ => true

/-- Issues an instruction that passed every test. -/
def State.issueNow (s : State) (i : Instr) (sm : Bool) (M : Meaning) (g k : Nat) (G : Gang) (sp : Split) : State :=
  let s := s.draw G.core (G.idx % 4) (s.charge g G sp.slices i)
  let G' := G.issued k sp (counts i)
  let s := s.setGang g G'
  let s := M.effect s g k G' { sp with ipc := sp.pc, pc := sp.pc + 4, age := 0 }
  let s := if sm then s.modGang g fun H => H.markSplits k G.splits else s
  s.wake g

/-- Issues an instruction whose split and gang are found and whose cancellation is settled (03 R87). While it waits the
machine stays `s0`, as it was before the settlement: cancellation is settled at issue and at no other moment (19 R308). The issue
gate stops an instruction before anything else (21 R334). -/
def State.issueAt (s0 s : State) (i : Instr) (sm : Bool) (M : Meaning) (g k : Nat) (G : Gang) (sp : Split) : State :=
  if s.gateClosed G.core && !weightless i then s0
  else match s.pick ((M.tests s g k G sp).first (s.unsettled G sp.slices)) with
  | some (t, s) => s.raise g k t ((encode i).getD 0) (t.resume sp.pc) []
  | none =>
    match M.before s g k G sp with
    | .wait => s0
    | .ends t => t
    | .held f => f s0
    | .go =>
      if G.watchdogDue i then s.raise g k (.watchdog G.limit) ((encode i).getD 0) sp.pc []
      else if G.differs && compares i then s.haltGang g 11 0
      else s.issueNow i sm M g k G sp

/-- The split that executes: the gang and entry selected, with its cancellation settled (19 R309). -/
def State.selected (s : State) : Option (State × Nat × Nat × Gang × Split) :=
  match s.cur with
  | none => none
  | some (g, k) =>
    let s := s.settle g k
    match s.gang g with
    | none => none
    | some G =>
      match KV.find G.splits k with
      | none => none
      | some sp => some (s, g, k, G, sp)

/-- What an instruction word does when the selected split issues it. -/
def State.issue (s : State) (i : Instr) (sm : Bool) (M : Meaning) : Host.Outcome State Fault Refusal :=
  match s.selected with
  | none => .fault .noSplit
  | some (t, g, k, G, sp) => .next (s.issueAt t i sm M g k G sp)

/-! ## Effects on the issuing gang -/

/-- An effect on registers alone. -/
def onGang (f : Gang → Split → Gang) (s : State) (g _k : Nat) (G : Gang) (sp : Split) : State := s.setGang g (f G sp)

/-- Tests that read the gang and the split only. -/
def gangTests (f : Gang → Split → Tests) (_ : State) (_ _ : Nat) (G : Gang) (sp : Split) : Tests := f G sp

/-- The meaning of a fixed-latency instruction on registers. -/
def regMeaning (tests : Gang → Split → Tests) (f : Gang → Split → Gang) : Meaning :=
  { tests := gangTests tests, before := noWait, effect := onGang f }

/-- An event of the part: what it does where its own condition holds. Elsewhere it does not happen, and the machine stays as
it is (log 5). -/
def State.event (s : State) (r : Option State) : Host.Outcome State Fault Refusal := .next (r.getD s)

/-- Holds a fault found before an instruction issues, on its fetch or its format block, and waits as at a report point (17
R278, 15 R247). Whether this wait is one at which delivered accumulator tiles leave Pending (01 R34) the spec does not say: it is a
marker's, so they do once it ends (DESIGN CHOICE, log 40). -/
def State.holdFault (s : State) (g k : Nat) (kind : OpKind) (i : Instr) (sp : Split) (va : Dword) (cause : Nat) : State :=
  let op : Op :=
    { kind := kind, instr := i, pc := sp.pc, slices := sp.slices, mode := 0, dest := .zr, rel := none, acq := none,
      accs := [(0, { Acc.mk' 32 va 4 0 0 with st := .fault cause })], held := false, mat := none }
  let s := s.modGang g fun G => (G.addOp op).setSplit k { sp with st := .segwait, wait := .marker, seg := false, fetch := true }
  s.wake g

/-- A gang consumes poison at a key and halts (17 R291, R292). -/
def State.consume (s : State) (g key : Nat) : State :=
  s.haltGang g (poisonSource key) (blockPa key)

end Sys2Proof.Machine
end

