-- ==== Sys2Proof/Machine/Control.lean ====
section
/-! DEFINITION. Control transfer, parting, rejoining, yielding and exit (07 R134 to R139). -/

namespace Sys2Proof.Machine

/-! ## Targets -/

/-- PC + 4 x the sign-extended offset (03 R75). -/
def target (pc : Dword) {n : Nat} (o : BitVec n) : Dword := pc + 4 * o.signExtend 64

/-- ILLOP reason 2 for a target that R74 does not allow. -/
def targetTest (pc : Dword) : Option Trap := illopIf (!legalPc pc) 2

/-- The split continues at a target. -/
def Gang.goto (G : Gang) (k : Nat) (sp : Split) (pc : Dword) : Gang := G.setSplit k { sp with pc := pc }

/-- The class of an S source (03 R57). -/
def sSrc (r : Reg) : Bool := r.isS || r.isZ

/-- The target in an S register, tested when it is not Pending. -/
def Gang.regTarget (G : Gang) (r : Reg) : Option Trap :=
  if G.isPending r 0 then none else targetTest (G.opnd64 r)

/-! ## nop -/

/-- Table 7-1, `nop`: no effect. -/
def execNop (sm : Bool) (s : State) : Host.Outcome State Fault Refusal :=
  s.issue (.nop sm) sm (regMeaning (fun _ _ => {}) fun G _ => G)

/-! ## br, brz, brnz, call, ret, jr -/

/-- Table 7-1, `br`. -/
def execBr (sm : Bool) (o : BitVec 24) (s : State) : Host.Outcome State Fault Refusal :=
  s.issue (.br sm o) sm
    { tests := fun _ _ _ _ sp => { o1 := targetTest (target sp.pc o) }
      before := noWait
      effect := fun s g k G sp => s.setGang g (G.goto k sp (target sp.ipc o)) }

/-- A register that `brz` and `brnz` test (07 R135). -/
def condReg (d : Reg) : Bool := d.isS || d.isM || d.isZ

/-- The tests of a conditional branch taken when the 64-bit value of D compares with 0 as `onZero` says (07 R134, R135). -/
def condTests (d : Reg) (e : BitVec 16) (onZero : Bool) (G : Gang) (sp : Split) : Tests :=
  { o1 := if condReg d && !G.isPending d 0 && (G.opnd64 d == 0) == onZero then targetTest (target sp.pc e) else none
    o2 := illreg [(d, 0, condReg d)]
    o4 := G.hazardTest 0 [d] }

/-- The meaning of a conditional branch. -/
def condBranch (d : Reg) (e : BitVec 16) (onZero : Bool) : Meaning :=
  { tests := gangTests (condTests d e onZero)
    before := noWait
    effect := fun s g k G sp =>
      if (G.opnd64 d == 0) == onZero then s.setGang g (G.goto k sp (target sp.ipc e)) else s }

/-- Table 7-1, `brz`. -/
def execBrz (sm : Bool) (d : Reg) (e : BitVec 16) (s : State) : Host.Outcome State Fault Refusal :=
  s.issue (.brz sm d e) sm (condBranch d e true)

/-- Table 7-1, `brnz`. -/
def execBrnz (sm : Bool) (d : Reg) (e : BitVec 16) (s : State) : Host.Outcome State Fault Refusal :=
  s.issue (.brnz sm d e) sm (condBranch d e false)

/-- Table 7-1, `call`. -/
def execCall (sm : Bool) (o : BitVec 24) (s : State) : Host.Outcome State Fault Refusal :=
  s.issue (.call sm o) sm
    { tests := fun _ _ _ G sp => { o1 := targetTest (target sp.pc o), o4 := G.hazardTest 0 [.s 39] }
      before := noWait
      effect := fun s g k G sp => s.setGang g ((G.setS 39 (sp.ipc + 4)).goto k sp (target sp.ipc o)) }

/-- Table 7-1, `ret`. -/
def execRet (sm : Bool) (s : State) : Host.Outcome State Fault Refusal :=
  s.issue (.ret sm) sm
    { tests := fun _ _ _ G _ => { o1 := G.regTarget (.s 39), o4 := G.hazardTest 0 [.s 39] }
      before := noWait
      effect := fun s g k G sp => s.setGang g (G.goto k sp (G.sreg 39)) }

/-- Table 7-1, `jr`: A is read before D is written. -/
def execJr (sm : Bool) (d a : Reg) (s : State) : Host.Outcome State Fault Refusal :=
  s.issue (.jr sm d a) sm
    { tests := fun _ _ _ G _ =>
        { o1 := if sSrc a then G.regTarget a else none
          o2 := illreg [(d, 0, d.isSDst || d.isZ), (a, 1, sSrc a)]
          o4 := G.hazardTest 0 [d, a] }
      before := noWait
      effect := fun s g k G sp => s.setGang g ((G.writeS d (sp.ipc + 4)).goto k sp (G.opnd64 a)) }

/-! ## part -/

/-- The active lanes of a slice. -/
def Gang.sliceActive (G : Gang) (sl : BitVec 8) (t : Nat) : List Nat :=
  (lanesOf (G.active sl)).filter fun i => G.sliceOf i == t

/-- Slices whose active lanes disagree on the condition (07 R136). -/
def Gang.mixed (G : Gang) (sl : BitVec 8) (m : Word) : BitVec 8 :=
  (slicesOf sl).foldl (fun w t =>
    let L := G.sliceActive sl t
    if (L.any fun i => m.getLsbD i) && (L.any fun i => !m.getLsbD i) then w ||| BitVec.twoPow 8 t else w) 0

/-- Slices with a true condition (07 R136). -/
def Gang.trueSlices (G : Gang) (sl : BitVec 8) (m : Word) : BitVec 8 :=
  (slicesOf sl).foldl (fun w t =>
    let L := G.sliceActive sl t
    if !L.isEmpty && L.all fun i => m.getLsbD i then w ||| BitVec.twoPow 8 t else w) 0

/-- The lowest free entry of the split table, which the new split of `part` takes: the spec names no entry, though 21 R331 breaks
ties by it (DESIGN CHOICE, log 14). -/
def Gang.freeEntry (G : Gang) : Nat := ((List.range 8).find? fun j => (KV.find G.splits j).isNone).getD 8

/-- The value of an M register. -/
def Gang.maskOpnd (G : Gang) (r : Reg) : Word := (G.opnd64 r).setWidth 32

/-- The effect of `part` (07 R136). -/
def Gang.part (G : Gang) (k : Nat) (sp : Split) (d a : Reg) : Gang :=
  let t := G.trueSlices sp.slices (G.maskOpnd a)
  let f := sp.slices &&& ~~~t
  if t = 0 then G
  else if f = 0 then G.goto k sp (G.opnd64 d)
  else (G.setSplit k { sp with slices := f }).setSplit G.freeEntry { sp with slices := t, pc := G.opnd64 d, age := 0 }

/-- Table 7-3, `part` (R136). -/
def execPart (sm : Bool) (d a : Reg) (s : State) : Host.Outcome State Fault Refusal :=
  s.issue (.part sm d a) sm
    { tests := fun _ _ _ G sp =>
        let ok := d.isS && a.isM
        let mix := if ok then G.mixed sp.slices (G.maskOpnd a) else 0
        { o1 := if ok && mix == 0 && G.trueSlices sp.slices (G.maskOpnd a) != 0 then G.regTarget d else none
          o2 := illreg [(d, 0, d.isS), (a, 1, a.isM)]
          o4 := G.hazardTest 0 [d, a]
          o5 := if mix != 0 then [.slicemix mix] else [] }
      before := noWait
      effect := fun s g k G sp => s.setGang g (G.part k sp d a) }

/-! ## regang -/

/-- The address at which another split waits, when it is not this one (01 R30). -/
def Gang.otherRegang (G : Gang) (pc : Dword) : List Dword :=
  G.splits.filterMap fun p => if p.2.st = .regang && p.2.ipc != pc then some p.2.ipc else none

/-- Table 7-3, `regang` (R137). -/
def execRegang (sm : Bool) (s : State) : Host.Outcome State Fault Refusal :=
  s.issue (.regang sm) sm
    { tests := fun _ _ _ G sp =>
        { o5 := (G.otherRegang sp.pc).map fun p => .regangmix (p.setWidth 32) }
      before := noWait
      effect := fun s g k G sp =>
        s.setGang g (({ G with wd := 0 }.setSplit k { sp with st := .regang, wait := .regang, seg := sm }).tryMerge) }

/-! ## yield, exit -/

/-- Table 7-3, `yield` (R138): the wait ends at once when the handle names no outstanding copy. -/
def execYield (sm : Bool) (d : Reg) (e : BitVec 16) (s : State) : Host.Outcome State Fault Refusal :=
  s.issue (.yield sm d e) sm
    { tests := fun _ _ _ G sp =>
        { o1 := targetTest (target sp.pc e)
          o2 := illreg [(d, 0, sSrc d)]
          o4 := G.hazardTest 0 [d] }
      before := noWait
      effect := fun s g k G sp =>
        s.setGang g (G.setSplit k { sp with st := .yield, wait := .yield (G.copiesNamed (G.opnd64 d).toNat) (target sp.ipc e) }) }

/-- Table 7-3, `exit` (R139): it waits as a segment marker does (03 R78), then the slices leave (01 R43). -/
def execExit (sm : Bool) (s : State) : Host.Outcome State Fault Refusal :=
  s.issue (.exit sm) sm
    { tests := noTests
      before := noWait
      effect := fun s g k G sp => s.setGang g (G.setSplit k { sp with st := .segwait, wait := .exit }) }

end Sys2Proof.Machine
end

