-- ==== Sys2Proof/Machine/Integer.lean ====
section
/-! DEFINITION. Integer and logic instructions (07 R131, R140 to R143): the operations, and one meaning per instruction. -/

namespace Sys2Proof.Machine

/-! ## Operations of Table 7-4 -/

/-- An integer operation of two operands at any width; the flag says that TYPE makes it unsigned (03 R72). -/
abbrev IntOp := (w : Nat) → Bool → BitVec w → BitVec w → BitVec w

/-- The count of a shift or rotate: b mod w (07 R140). -/
def shiftCount (w : Nat) (b : BitVec w) : Nat := b.toNat % w

/-- ⌊a x b / 2^w⌋, signed or unsigned by TYPE. -/
def mulHigh : IntOp := fun w u a b =>
  if u then BitVec.ofNat w (a.toNat * b.toNat / 2 ^ w) else BitVec.ofInt w (a.toInt * b.toInt / 2 ^ w)

/-- Whether a is below b, signed or unsigned by TYPE. -/
def intLt {w : Nat} (u : Bool) (a b : BitVec w) : Bool := if u then a.ult b else a.slt b

/-- The smaller of a and b. -/
def intMin : IntOp := fun _ u a b => if intLt u b a then b else a

/-- The larger of a and b. -/
def intMax : IntOp := fun _ u a b => if intLt u a b then b else a

/-- a shifted left. -/
def intShl : IntOp := fun w _ a b => a <<< shiftCount w b

/-- a shifted right, unsigned. -/
def intShr : IntOp := fun w _ a b => a >>> shiftCount w b

/-- a shifted right, signed. -/
def intSar : IntOp := fun w _ a b => a.sshiftRight (shiftCount w b)

/-- a rotated left. -/
def intRot : IntOp := fun w _ a b => a.rotateLeft (shiftCount w b)

def intAdd : IntOp := fun _ _ a b => a + b
def intSub : IntOp := fun _ _ a b => a - b
def intMul : IntOp := fun _ _ a b => a * b
def intAnd : IntOp := fun _ _ a b => a &&& b
def intOr : IntOp := fun _ _ a b => a ||| b
def intXor : IntOp := fun _ _ a b => a ^^^ b

/-! ## Forms -/

/-- The general tests of an integer instruction (07 R140; 03 R59; 01 R33). -/
def intTests (d : Reg) (srcs : List (Reg × Nat)) (G : Gang) (sp : Split) : Tests :=
  let regs := d :: srcs.map Prod.fst
  { o2 := intClasses d srcs
    o3 := G.boundTest regs
    o4 := G.hazardTest (G.active sp.slices) regs }

/-- The RRR form: once per active lane, or once (07 R140). -/
def Gang.int2 (G : Gang) (sl : BitVec 8) (op : IntOp) (d a b : Reg) : Gang :=
  if vectorWise d [a, b] then
    G.forLanes (G.active sl) fun H i => H.writeV d i (op 32 G.unsignedType (G.opnd32 a i) (G.opnd32 b i))
  else G.writeS d (op 64 G.unsignedType (G.opnd64 a) (G.opnd64 b))

/-- The RRI form with an immediate already extended to 64 bits; a vector-wise one uses its low 32 bits. -/
def Gang.intImm (G : Gang) (sl : BitVec 8) (op : IntOp) (d a : Reg) (b : Dword) : Gang :=
  if vectorWise d [a] then
    G.forLanes (G.active sl) fun H i => H.writeV d i (op 32 G.unsignedType (G.opnd32 a i) (b.setWidth 32))
  else G.writeS d (op 64 G.unsignedType (G.opnd64 a) b)

/-- The meaning of an RRR integer instruction. -/
def int2 (op : IntOp) (d a b : Reg) : Meaning :=
  regMeaning (intTests d [(a, 1), (b, 2)]) fun G sp => G.int2 sp.slices op d a b

/-- The meaning of an RRI integer instruction. -/
def intImm (op : IntOp) (d a : Reg) (b : Dword) : Meaning :=
  regMeaning (intTests d [(a, 1)]) fun G sp => G.intImm sp.slices op d a b

/-- An operation of one source at any width. -/
abbrev IntOp1 := (w : Nat) → BitVec w → Nat

/-- Number of 1 bits. -/
def bitCount : IntOp1 := fun w a => ((List.range w).filter fun i => a.getLsbD i).length

/-- Number of leading 0 bits; w when a = 0. -/
def leadZeros : IntOp1 := fun w a => (((List.range w).find? fun i => a.getLsbD (w - 1 - i)).getD w)

/-- Index of the lowest 1 bit; w when a = 0. -/
def lowestOne : IntOp1 := fun w a => (((List.range w).find? fun i => a.getLsbD i).getD w)

/-- The int group's counting forms (07 Table 7-5). -/
def Gang.int1 (G : Gang) (sl : BitVec 8) (op : IntOp1) (d a : Reg) : Gang :=
  if vectorWise d [a] then
    G.forLanes (G.active sl) fun H i => H.writeV d i (BitVec.ofNat 32 (op 32 (G.opnd32 a i)))
  else G.writeS d (BitVec.ofNat 64 (op 64 (G.opnd64 a)))

/-- The meaning of a counting form. -/
def int1 (op : IntOp1) (d a : Reg) : Meaning :=
  regMeaning (intTests d [(a, 1)]) fun G sp => G.int1 sp.slices op d a

/-! ## The RRR instructions -/

/-- Table 7-4, `add`, RRR. -/
def execAdd (sm : Bool) (d a b : Reg) (s : State) : Host.Outcome State Fault Refusal :=
  s.issue (.add sm d a b) sm (int2 intAdd d a b)

/-- Table 7-4, `sub`, RRR. -/
def execSub (sm : Bool) (d a b : Reg) (s : State) : Host.Outcome State Fault Refusal :=
  s.issue (.sub sm d a b) sm (int2 intSub d a b)

/-- Table 7-4, `mul`, RRR. -/
def execMul (sm : Bool) (d a b : Reg) (s : State) : Host.Outcome State Fault Refusal :=
  s.issue (.mul sm d a b) sm (int2 intMul d a b)

/-- Table 7-4, `mulh`, RRR. -/
def execMulh (sm : Bool) (d a b : Reg) (s : State) : Host.Outcome State Fault Refusal :=
  s.issue (.mulh sm d a b) sm (int2 mulHigh d a b)

/-- Table 7-4, `and`, RRR. -/
def execAnd (sm : Bool) (d a b : Reg) (s : State) : Host.Outcome State Fault Refusal :=
  s.issue (.and sm d a b) sm (int2 intAnd d a b)

/-- Table 7-4, `or`, RRR. -/
def execOr (sm : Bool) (d a b : Reg) (s : State) : Host.Outcome State Fault Refusal :=
  s.issue (.or sm d a b) sm (int2 intOr d a b)

/-- Table 7-4, `xor`, RRR. -/
def execXor (sm : Bool) (d a b : Reg) (s : State) : Host.Outcome State Fault Refusal :=
  s.issue (.xor sm d a b) sm (int2 intXor d a b)

/-- Table 7-4, `shl`, RRR. -/
def execShl (sm : Bool) (d a b : Reg) (s : State) : Host.Outcome State Fault Refusal :=
  s.issue (.shl sm d a b) sm (int2 intShl d a b)

/-- Table 7-4, `shr`, RRR. -/
def execShr (sm : Bool) (d a b : Reg) (s : State) : Host.Outcome State Fault Refusal :=
  s.issue (.shr sm d a b) sm (int2 intShr d a b)

/-- Table 7-4, `sar`, RRR. -/
def execSar (sm : Bool) (d a b : Reg) (s : State) : Host.Outcome State Fault Refusal :=
  s.issue (.sar sm d a b) sm (int2 intSar d a b)

/-- Table 7-4, `rot`, RRR. -/
def execRot (sm : Bool) (d a b : Reg) (s : State) : Host.Outcome State Fault Refusal :=
  s.issue (.rot sm d a b) sm (int2 intRot d a b)

/-- Table 7-4, `min`, RRR. -/
def execMin (sm : Bool) (d a b : Reg) (s : State) : Host.Outcome State Fault Refusal :=
  s.issue (.min sm d a b) sm (int2 intMin d a b)

/-- Table 7-4, `max`, RRR. -/
def execMax (sm : Bool) (d a b : Reg) (s : State) : Host.Outcome State Fault Refusal :=
  s.issue (.max sm d a b) sm (int2 intMax d a b)

/-! ## The RRI instructions: b = SignExt(I8), or I8[5:0] for shifts and rotates -/

/-- Table 7-4, `add`, RRI. -/
def execAddImm (sm : Bool) (d a : Reg) (e : BitVec 8) (s : State) : Host.Outcome State Fault Refusal :=
  s.issue (.addImm sm d a e) sm (intImm intAdd d a (e.signExtend 64))

/-- Table 7-4, `mul`, RRI. -/
def execMulImm (sm : Bool) (d a : Reg) (e : BitVec 8) (s : State) : Host.Outcome State Fault Refusal :=
  s.issue (.mulImm sm d a e) sm (intImm intMul d a (e.signExtend 64))

/-- Table 7-4, `and`, RRI. -/
def execAndImm (sm : Bool) (d a : Reg) (e : BitVec 8) (s : State) : Host.Outcome State Fault Refusal :=
  s.issue (.andImm sm d a e) sm (intImm intAnd d a (e.signExtend 64))

/-- Table 7-4, `or`, RRI. -/
def execOrImm (sm : Bool) (d a : Reg) (e : BitVec 8) (s : State) : Host.Outcome State Fault Refusal :=
  s.issue (.orImm sm d a e) sm (intImm intOr d a (e.signExtend 64))

/-- Table 7-4, `xor`, RRI. -/
def execXorImm (sm : Bool) (d a : Reg) (e : BitVec 8) (s : State) : Host.Outcome State Fault Refusal :=
  s.issue (.xorImm sm d a e) sm (intImm intXor d a (e.signExtend 64))

/-- Table 7-4, `min`, RRI. -/
def execMinImm (sm : Bool) (d a : Reg) (e : BitVec 8) (s : State) : Host.Outcome State Fault Refusal :=
  s.issue (.minImm sm d a e) sm (intImm intMin d a (e.signExtend 64))

/-- Table 7-4, `max`, RRI. -/
def execMaxImm (sm : Bool) (d a : Reg) (e : BitVec 8) (s : State) : Host.Outcome State Fault Refusal :=
  s.issue (.maxImm sm d a e) sm (intImm intMax d a (e.signExtend 64))

/-- Table 7-4, `shl`, RRI. -/
def execShlImm (sm : Bool) (d a : Reg) (e : BitVec 6) (s : State) : Host.Outcome State Fault Refusal :=
  s.issue (.shlImm sm d a e) sm (intImm intShl d a (e.setWidth 64))

/-- Table 7-4, `shr`, RRI. -/
def execShrImm (sm : Bool) (d a : Reg) (e : BitVec 6) (s : State) : Host.Outcome State Fault Refusal :=
  s.issue (.shrImm sm d a e) sm (intImm intShr d a (e.setWidth 64))

/-- Table 7-4, `sar`, RRI. -/
def execSarImm (sm : Bool) (d a : Reg) (e : BitVec 6) (s : State) : Host.Outcome State Fault Refusal :=
  s.issue (.sarImm sm d a e) sm (intImm intSar d a (e.setWidth 64))

/-- Table 7-4, `rot`, RRI. -/
def execRotImm (sm : Bool) (d a : Reg) (e : BitVec 6) (s : State) : Host.Outcome State Fault Refusal :=
  s.issue (.rotImm sm d a e) sm (intImm intRot d a (e.setWidth 64))

/-! ## sel -/

/-- The effect of `sel` (07 R141): the guard selects. -/
def Gang.sel (G : Gang) (sl : BitVec 8) (d a b : Reg) : Gang :=
  G.forLanes (G.selActive sl) fun H i => H.writeV d i (if G.guard i then G.opnd32 a i else G.opnd32 b i)

/-- Table 7-4, `sel` (R141). -/
def execSel (sm : Bool) (d a b : Reg) (s : State) : Host.Outcome State Fault Refusal :=
  s.issue (.sel sm d a b) sm
    (regMeaning
      (fun G sp =>
        { o2 := illreg [(d, 0, d.isVDst || d.isZ), (a, 1, a.vecSrc), (b, 2, b.vecSrc)]
          o3 := G.boundTest [d, a, b]
          o4 := G.hazardTest (G.selActive sp.slices) [d, a, b] })
      fun G sp => G.sel sp.slices d a b)

/-! ## li, lih -/

/-- The tests of `li` and `lih`: D is V or S (07 R142). -/
def immTests (d : Reg) (G : Gang) (sp : Split) : Tests :=
  { o2 := illreg [(d, 0, d.isVDst || d.isSDst || d.isZ)]
    o3 := G.boundTest [d]
    o4 := G.hazardTest (G.active sp.slices) [d] }

/-- The effect of `li`. -/
def Gang.li (G : Gang) (sl : BitVec 8) (d : Reg) (e : BitVec 16) : Gang :=
  if d.isV then G.forLanes (G.active sl) fun H i => H.writeV d i (e.signExtend 32)
  else G.writeS d (e.signExtend 64)

/-- `lih` on one value: bits above 15 from the immediate, bits 15:0 kept. -/
def lihValue (w : Nat) (old : BitVec w) (e : BitVec 16) : BitVec w :=
  (e.signExtend w <<< 16) ||| (old &&& BitVec.ofNat w 0xFFFF)

/-- The effect of `lih`. -/
def Gang.lih (G : Gang) (sl : BitVec 8) (d : Reg) (e : BitVec 16) : Gang :=
  if d.isV then G.forLanes (G.active sl) fun H i => H.writeV d i (lihValue 32 (G.opnd32 d i) e)
  else G.writeS d (lihValue 64 (G.opnd64 d) e)

/-- `li` (07 R142). -/
def execLi (sm : Bool) (d : Reg) (e : BitVec 16) (s : State) : Host.Outcome State Fault Refusal :=
  s.issue (.li sm d e) sm (regMeaning (immTests d) fun G sp => G.li sp.slices d e)

/-- `lih` (07 R142). -/
def execLih (sm : Bool) (d : Reg) (e : BitVec 16) (s : State) : Host.Outcome State Fault Refusal :=
  s.issue (.lih sm d e) sm (regMeaning (immTests d) fun G sp => G.lih sp.slices d e)

/-! ## The int group -/

/-- The source classes of `mov` by its destination (07 Table 7-5). -/
def movSrc (d a : Reg) : Bool :=
  if d.isV then a.vecSrc
  else if d.isS then a.scaSrc
  else if d.isM then a.scaSrc
  else a.isV || a.scaSrc

/-- The effect of `mov` (07 R143, R133). -/
def Gang.mov (G : Gang) (sl : BitVec 8) (d a : Reg) : Gang :=
  if d.isV then G.forLanes (G.active sl) fun H i => H.writeV d i (G.opnd32 a i)
  else if d.isM then G.writeMask d (G.sliceMask sl) ((G.opnd64 a).setWidth 32)
  else G.writeS d (G.opnd64 a)

/-- Table 7-5, `mov`. -/
def execMov (sm : Bool) (d a : Reg) (s : State) : Host.Outcome State Fault Refusal :=
  s.issue (.mov sm d a) sm
    (regMeaning
      (fun G sp =>
        { o2 := illreg [(d, 0, d.isVDst || d.isSDst || d.isMDst || d.isZ), (a, 1, movSrc d a)]
          o3 := G.boundTest [d, a]
          o4 := G.hazardTest (G.active sp.slices) [d, a] })
      fun G sp => G.mov sp.slices d a)

/-- Table 7-5, `popc`. -/
def execPopc (sm : Bool) (d a : Reg) (s : State) : Host.Outcome State Fault Refusal :=
  s.issue (.popc sm d a) sm (int1 bitCount d a)

/-- Table 7-5, `clz`. -/
def execClz (sm : Bool) (d a : Reg) (s : State) : Host.Outcome State Fault Refusal :=
  s.issue (.clz sm d a) sm (int1 leadZeros d a)

/-- Table 7-5, `ffs`. -/
def execFfs (sm : Bool) (d a : Reg) (s : State) : Host.Outcome State Fault Refusal :=
  s.issue (.ffs sm d a) sm (int1 lowestOne d a)

end Sys2Proof.Machine
end

