-- ==== Sys2Proof/Machine/Compare.lean ====
section
/-! DEFINITION. Compares (07 R144, R145) and mask instructions (07 R146, R147), and the spans of typed operands (05 R108, 09
R159). -/

namespace Sys2Proof

/-- Types whose values fill 64 bits (05 R108). -/
def EType.isWide : EType → Bool
  | .fp64 | .cf32 => true
  | .fp32 | .fp16 | .bf16 | .e4m3 | .e5m2 | .e2m1 | .i32 | .n32 | .i8 | .n8 | .i4 | .n4 => false

end Sys2Proof

namespace Sys2Proof.Machine

/-! ## Spans -/

/-- The registers of an operand: a pair for a V register of a 64-bit type (09 R159). -/
def spanOf (wide : Bool) (r : Reg) : List Reg := if wide && r.isV then r.span 2 else [r]

/-- An odd V register for a pair raises ILLREG (09 R159). -/
def pairOk (wide : Bool) (r : Reg) : Bool := !(wide && r.isV) || r.aligned 2

/-- TYPE names a 64-bit type. -/
def Gang.wide (G : Gang) : Bool := (G.etype.map EType.isWide).getD false

/-- The code of an operand in a lane, at 64 bits. -/
def Gang.laneCode (G : Gang) (wide : Bool) (r : Reg) (lane : Nat) : Nat :=
  if wide then (G.opndPair r lane).toNat else (G.opnd32 r lane).toNat

/-- The code of a scalar operand. -/
def Gang.scalarCode (G : Gang) (r : Reg) : Nat := (G.opnd64 r).toNat

/-- Writes a result code in a lane. -/
def Gang.writeLane (G : Gang) (wide : Bool) (d : Reg) (lane : Nat) (v : Dword) : Gang :=
  if wide then G.writeVPair d lane v else G.writeV d lane (v.setWidth 32)

/-! ## Compares -/

/-- The five compares. -/
inductive Cmp where
  | eq | ne | lt | le | un
deriving DecidableEq, Repr

/-- The types that a compare accepts (Table 7-7). -/
def Cmp.accepts (c : Cmp) (t : EType) : Bool :=
  match t with
  | .i32 | .i8 | .i4 | .n32 | .n8 | .n4 => c != .un
  | .fp32 | .fp64 | .fp16 | .bf16 | .e4m3 | .e5m2 => true
  | .cf32 => c == .eq || c == .ne || c == .un
  | .e2m1 => false

/-- A compare of two numbers that are ordered. -/
def Cmp.ofOrdering (c : Cmp) (o : Ordering) : Bool :=
  match c with
  | .eq => o == .eq
  | .ne => o != .eq
  | .lt => o == .lt
  | .le => o != .gt
  | .un => false

/-- A compare of two values on paper (Table 7-7). -/
def Cmp.ofValues (c : Cmp) (x y : FV) : Bool :=
  if x.isNan || y.isNan then c == .ne || c == .un else c.ofOrdering (x.compare y)

/-- A compare of two codes under a type, on w bits (R145). No CF32 operand is flushed (log 38). -/
def Cmp.result (c : Cmp) (t : EType) (flush : Bool) (w x y : Nat) : Bool :=
  match t.int, t.fmt with
  | some (_, signed), _ => c.ofOrdering (compare (intValue w signed x) (intValue w signed y))
  | none, some f =>
    if t = .cf32 then
      let re := c.ofValues (f.value x) (f.value y)
      let im := c.ofValues (f.value (x / 2 ^ 32)) (f.value (y / 2 ^ 32))
      if c = .eq then re && im else re || im
    else c.ofValues (f.operand flush x) (f.operand flush y)
  | none, none => false

/-- The result under the mode of the gang. -/
def Gang.cmp (G : Gang) (c : Cmp) (w x y : Nat) : Bool :=
  match G.etype with
  | some t => c.result t G.flush w x y
  | none => false

/-- The tests of a vector-wise compare. -/
def cmpTests (c : Cmp) (d a b : Reg) (G : Gang) (sp : Split) : Tests :=
  { o1 := G.typeTest c.accepts
    o2 := illreg [(d, 0, d.isMDst || (d.isZ && (a.isV || b.isV))), (a, 1, a.vecSrc && pairOk G.wide a),
      (b, 2, b.vecSrc && pairOk G.wide b)]
    o3 := G.boundTest (spanOf G.wide a ++ spanOf G.wide b)
    o4 := G.hazardTest (G.active sp.slices) (d :: spanOf G.wide a ++ spanOf G.wide b) }

/-- The effect of a vector-wise compare (R133, R144). -/
def Gang.compareV (G : Gang) (sl : BitVec 8) (c : Cmp) (d a b : Reg) : Gang :=
  G.writeMask d (G.sliceMask sl)
    (maskOf fun i => G.activeLane sl i && G.cmp c 32 (G.laneCode G.wide a i) (G.laneCode G.wide b i))

/-- The meaning of a vector-wise compare. -/
def cmpV (c : Cmp) (d a b : Reg) : Meaning :=
  regMeaning (cmpTests c d a b) fun G sp => G.compareV sp.slices c d a b

/-- The tests of a scalar compare. -/
def scmpTests (c : Cmp) (d a b : Reg) (G : Gang) (_ : Split) : Tests :=
  { o1 := G.typeTest c.accepts
    o2 := illreg [(d, 0, d.isSDst || d.isZ), (a, 1, a.scaSrc), (b, 2, b.scaSrc)]
    o4 := G.hazardTest 0 [d, a, b] }

/-- The effect of a scalar compare (R144). -/
def Gang.compareS (G : Gang) (c : Cmp) (d a b : Reg) : Gang :=
  G.writeS d (if G.cmp c 64 (G.scalarCode a) (G.scalarCode b) then 1 else 0)

/-- The meaning of a scalar compare. -/
def cmpS (c : Cmp) (d a b : Reg) : Meaning :=
  regMeaning (scmpTests c d a b) fun G _ => G.compareS c d a b

/-- Table 7-7, `ceq`. -/
def execCeq (sm : Bool) (d a b : Reg) (s : State) : Host.Outcome State Fault Refusal :=
  s.issue (.ceq sm d a b) sm (cmpV .eq d a b)

/-- Table 7-7, `cne`. -/
def execCne (sm : Bool) (d a b : Reg) (s : State) : Host.Outcome State Fault Refusal :=
  s.issue (.cne sm d a b) sm (cmpV .ne d a b)

/-- Table 7-7, `clt`. -/
def execClt (sm : Bool) (d a b : Reg) (s : State) : Host.Outcome State Fault Refusal :=
  s.issue (.clt sm d a b) sm (cmpV .lt d a b)

/-- Table 7-7, `cle`. -/
def execCle (sm : Bool) (d a b : Reg) (s : State) : Host.Outcome State Fault Refusal :=
  s.issue (.cle sm d a b) sm (cmpV .le d a b)

/-- Table 7-7, `cun`. -/
def execCun (sm : Bool) (d a b : Reg) (s : State) : Host.Outcome State Fault Refusal :=
  s.issue (.cun sm d a b) sm (cmpV .un d a b)

/-- Table 7-7, `sceq`. -/
def execSceq (sm : Bool) (d a b : Reg) (s : State) : Host.Outcome State Fault Refusal :=
  s.issue (.sceq sm d a b) sm (cmpS .eq d a b)

/-- Table 7-7, `scne`. -/
def execScne (sm : Bool) (d a b : Reg) (s : State) : Host.Outcome State Fault Refusal :=
  s.issue (.scne sm d a b) sm (cmpS .ne d a b)

/-- Table 7-7, `sclt`. -/
def execSclt (sm : Bool) (d a b : Reg) (s : State) : Host.Outcome State Fault Refusal :=
  s.issue (.sclt sm d a b) sm (cmpS .lt d a b)

/-- Table 7-7, `scle`. -/
def execScle (sm : Bool) (d a b : Reg) (s : State) : Host.Outcome State Fault Refusal :=
  s.issue (.scle sm d a b) sm (cmpS .le d a b)

/-- Table 7-7, `scun`. -/
def execScun (sm : Bool) (d a b : Reg) (s : State) : Host.Outcome State Fault Refusal :=
  s.issue (.scun sm d a b) sm (cmpS .un d a b)

/-! ## Masks -/

/-- The tests of a mask instruction with its classes. -/
def maskTests (cls : List (Reg × Nat × Bool)) (G : Gang) (_ : Split) : Tests :=
  { o2 := illreg cls, o4 := G.hazardTest 0 (cls.map Prod.fst) }

/-- The meaning of an RRR mask instruction (R146). -/
def mask2 (f : Word → Word → Word) (d a b : Reg) : Meaning :=
  regMeaning (maskTests [(d, 0, d.isMDst || d.isZ), (a, 1, a.isM), (b, 2, b.isM)])
    fun G sp => G.writeMask d (G.sliceMask sp.slices) (f (G.maskOpnd a) (G.maskOpnd b))

/-- `mand` (R146). -/
def execMand (sm : Bool) (d a b : Reg) (s : State) : Host.Outcome State Fault Refusal :=
  s.issue (.mand sm d a b) sm (mask2 (fun x y => x &&& y) d a b)

/-- `mor` (R146). -/
def execMor (sm : Bool) (d a b : Reg) (s : State) : Host.Outcome State Fault Refusal :=
  s.issue (.mor sm d a b) sm (mask2 (fun x y => x ||| y) d a b)

/-- `mxor` (R146). -/
def execMxor (sm : Bool) (d a b : Reg) (s : State) : Host.Outcome State Fault Refusal :=
  s.issue (.mxor sm d a b) sm (mask2 (fun x y => x ^^^ y) d a b)

/-- Table 7-8, `mnot`. -/
def execMnot (sm : Bool) (d a : Reg) (s : State) : Host.Outcome State Fault Refusal :=
  s.issue (.mnot sm d a) sm
    (regMeaning (maskTests [(d, 0, d.isMDst), (a, 1, a.isM)])
      fun G sp => G.writeMask d (G.sliceMask sp.slices) (~~~(G.maskOpnd a)))

/-- Table 7-8, `msave`. -/
def execMsave (sm : Bool) (d a : Reg) (s : State) : Host.Outcome State Fault Refusal :=
  s.issue (.msave sm d a) sm
    (regMeaning (maskTests [(d, 0, d.isSDst || d.isZ), (a, 1, a.isM)]) fun G _ => G.writeS d (G.opnd64 a))

/-- Table 7-8, `mrest`. -/
def execMrest (sm : Bool) (d a : Reg) (s : State) : Host.Outcome State Fault Refusal :=
  s.issue (.mrest sm d a) sm
    (regMeaning (maskTests [(d, 0, d.isMDst), (a, 1, sSrc a)])
      fun G sp => G.writeMask d (G.sliceMask sp.slices) ((G.opnd64 a).setWidth 32))

/-- Table 7-8, `mpop`. -/
def execMpop (sm : Bool) (d a : Reg) (s : State) : Host.Outcome State Fault Refusal :=
  s.issue (.mpop sm d a) sm
    (regMeaning (maskTests [(d, 0, d.isSDst || d.isZ), (a, 1, a.isM)])
      fun G _ => G.writeS d (BitVec.ofNat 64 (bitCount 32 (G.maskOpnd a))))

/-- Table 7-8, `mffs`. -/
def execMffs (sm : Bool) (d a : Reg) (s : State) : Host.Outcome State Fault Refusal :=
  s.issue (.mffs sm d a) sm
    (regMeaning (maskTests [(d, 0, d.isSDst || d.isZ), (a, 1, a.isM)])
      fun G _ => G.writeS d (BitVec.ofNat 64 (lowestOne 32 (G.maskOpnd a))))

end Sys2Proof.Machine
end

