-- ==== Sys2Proof/Machine/Typed.lean ====
section
/-! DEFINITION. Typed arithmetic, divide and square root, conversion (09 R157 to R165, with 05 R114 to R125). -/

namespace Sys2Proof.Machine

/-! ## Results -/

/-- What rounding, saturation and flushing an instruction reads from `mode` at its issue (03 R71). -/
structure FMode where
  rm    : RMode
  sat   : Bool
  flush : Bool
deriving DecidableEq, Repr

/-- The rounding fields of the gang's `mode`. -/
def Gang.fmode (G : Gang) : FMode := { rm := G.rnd, sat := G.sat, flush := G.flush }

/-- `Round(v, f, RND)` with INEXACT (05 R114 to R120). -/
def FMode.round (m : FMode) (f : Fmt) (v : FV) : Nat × Bool := f.round m.rm m.sat m.flush v

/-- `Fl` of an operand code (05 R117). -/
def FMode.fl (m : FMode) (f : Fmt) (code : Nat) : FV := f.operand m.flush code

/-- A code and its flags: INEXACT, OUTL. -/
structure Res where
  code    : Nat
  inexact : Bool
  outl    : Bool
deriving DecidableEq, Repr

/-- A pair of parts as one CF32 result. -/
def Res.pair (re im : Nat × Bool) : Res :=
  { code := re.1 + 2 ^ 32 * im.1, inexact := re.2 || im.2, outl := false }

/-- A result of one part. -/
def Res.one (r : Nat × Bool) : Res := { code := r.1, inexact := r.2, outl := false }

/-! ## Binary and fused operations (Table 9-1, R161, R162) -/

/-- The operations of Table 9-1. -/
inductive FOp where
  | add | sub | mul | fma | fms | min | max
deriving DecidableEq, Repr

/-- Whether a is the lesser: -0 is below +0 (R161). -/
def FV.below (a b : FV) : Bool :=
  match a.compare b with
  | .lt => true
  | .gt => false
  | .eq =>
    match a with
    | .fin n _ _ => n
    | .nan | .inf _ => true

/-- The exact value of an operation (Table 9-1). -/
def FOp.value (op : FOp) (rm : RMode) (a b c : FV) : FV :=
  match op with
  | .add => FV.add rm a b
  | .sub => FV.add rm a b.neg
  | .mul => a.mul b
  | .fma => FV.add rm (a.mul b) c
  | .fms => FV.add rm (a.mul b) c.neg
  | .min => if a.isNan || b.isNan then .nan else if a.below b then a else b
  | .max => if a.isNan || b.isNan then .nan else if a.below b then b else a

/-- Real and imaginary parts of an operation on CF32 (R162). -/
def FOp.complex (op : FOp) (rm : RMode) (a b c : FV × FV) : FV × FV :=
  let re := FV.add rm (a.1.mul b.1) (a.2.mul b.2).neg
  let im := FV.add rm (a.1.mul b.2) (a.2.mul b.1)
  match op with
  | .add => (FV.add rm a.1 b.1, FV.add rm a.2 b.2)
  | .sub => (FV.add rm a.1 b.1.neg, FV.add rm a.2 b.2.neg)
  | .mul => (re, im)
  | .fma => (FV.add rm re c.1, FV.add rm im c.2)
  | .fms => (FV.add rm re c.1.neg, FV.add rm im c.2.neg)
  | .min | .max => (re, im)

/-- The two parts of a CF32 code as read. -/
def FMode.parts (_ : FMode) (x : Nat) : FV × FV := (fp32.operand false x, fp32.operand false (x / 2 ^ 32))

/-- The delivered result of an operation on codes of a type. -/
def FOp.run (op : FOp) (m : FMode) (t : EType) (a b c : Nat) : Res :=
  match t.fmt with
  | none => { code := 0, inexact := false, outl := false }
  | some f =>
    if t = .cf32 then
      let v := op.complex m.rm (m.parts a) (m.parts b) (m.parts c)
      Res.pair (m.round fp32 v.1) (m.round fp32 v.2)
    else Res.one (m.round f (op.value m.rm (m.fl f a) (m.fl f b) (m.fl f c)))

/-- The types of Table 9-2's first row. -/
def arithType (t : EType) : Bool :=
  match t with
  | .fp32 | .fp64 | .fp16 | .bf16 | .cf32 => true
  | .e4m3 | .e5m2 | .e2m1 | .i32 | .n32 | .i8 | .n8 | .i4 | .n4 => false

/-- The types that an operation accepts (Table 9-2). -/
def FOp.accepts (op : FOp) (t : EType) : Bool := arithType t && (t != .cf32 || (op != .min && op != .max))

/-- The types of the divide and square-root unit. -/
def divType (t : EType) : Bool := t == .fp32 || t == .fp64

/-! ## Tests and lanes -/

/-- The classes of a typed instruction: D is V, S or zr; sources are V, S or zr under R58; pairs are even (R159). -/
def typedClasses (wideD : Bool) (d : Reg) (srcs : List (Reg × Nat × Bool)) : List Trap :=
  let vw := vectorWise d (srcs.map Prod.fst)
  illreg ((d, 0, (d.isVDst || d.isSDst || d.isZ) && pairOk wideD d) ::
    srcs.map fun p => (p.1, p.2.1, (if vw then p.1.vecSrc else sSrc p.1) && pairOk p.2.2 p.1))

/-- The tests of a typed instruction: TYPE, classes, bound and hazard over every register of its spans. -/
def typedTests (ok : EType → Bool) (wideD : Bool) (d : Reg) (srcs : List (Reg × Nat × Bool)) (G : Gang) (sp : Split) :
    Tests :=
  let regs := spanOf wideD d ++ srcs.flatMap fun p => spanOf p.2.2 p.1
  { o1 := G.typeTest ok
    o2 := typedClasses wideD d srcs
    o3 := G.boundTest regs
    o4 := G.hazardTest (G.active sp.slices) regs }

/-- An operand's code as a lane sees it (lane 32: the scalar value). -/
def Gang.codeAt (G : Gang) (wide : Bool) (r : Reg) (lane : Nat) : Nat :=
  if lane = 32 then G.scalarCode r else G.laneCode wide r lane

/-- Writes a result to D in a lane, or to a scalar D (lane 32). -/
def Gang.deliver (G : Gang) (wide : Bool) (d : Reg) (lane : Nat) (v : Dword) : Gang :=
  if lane = 32 then G.writeS d v else G.writeLane wide d lane v

/-- The lanes in which an instruction executes: its active lanes, or once (03 R58). -/
def Gang.runs (G : Gang) (sl : BitVec 8) (vw : Bool) : List Nat := if vw then lanesOf (G.active sl) else [32]

/-- Runs a fixed-latency typed instruction and sets its sticky flags (03 R62). -/
def Gang.typedRun (G : Gang) (lanes : List Nat) (wide : Bool) (d : Reg) (f : Nat → Res × Dword) : Gang :=
  lanes.foldl (fun H i => (H.deliver wide d i (f i).2).orFlags (flagBits (f i).1.inexact (f i).1.outl)) G

/-- The effect of a binary or fused instruction. -/
def Gang.float3 (G : Gang) (sl : BitVec 8) (op : FOp) (d a b : Reg) : Gang :=
  match G.etype with
  | none => G
  | some t =>
    let w := t.isWide
    G.typedRun (G.runs sl (vectorWise d [a, b])) w d fun i =>
      let r := op.run G.fmode t (G.codeAt w a i) (G.codeAt w b i) (G.codeAt w d i)
      (r, BitVec.ofNat 64 r.code)

/-- The meaning of a binary or fused instruction (R160). -/
def float3 (op : FOp) (d a b : Reg) : Meaning :=
  regMeaning
    (fun G sp => typedTests op.accepts G.wide d [(a, 1, G.wide), (b, 2, G.wide)] G sp)
    fun G sp => G.float3 sp.slices op d a b

/-- Table 9-1, `fadd`. -/
def execFadd (sm : Bool) (d a b : Reg) (s : State) : Host.Outcome State Fault Refusal :=
  s.issue (.fadd sm d a b) sm (float3 .add d a b)

/-- Table 9-1, `fsub`. -/
def execFsub (sm : Bool) (d a b : Reg) (s : State) : Host.Outcome State Fault Refusal :=
  s.issue (.fsub sm d a b) sm (float3 .sub d a b)

/-- Table 9-1, `fmul`. -/
def execFmul (sm : Bool) (d a b : Reg) (s : State) : Host.Outcome State Fault Refusal :=
  s.issue (.fmul sm d a b) sm (float3 .mul d a b)

/-- Table 9-1, `fma`. -/
def execFma (sm : Bool) (d a b : Reg) (s : State) : Host.Outcome State Fault Refusal :=
  s.issue (.fma sm d a b) sm (float3 .fma d a b)

/-- Table 9-1, `fms`. -/
def execFms (sm : Bool) (d a b : Reg) (s : State) : Host.Outcome State Fault Refusal :=
  s.issue (.fms sm d a b) sm (float3 .fms d a b)

/-- Table 9-1, `fmin`. -/
def execFmin (sm : Bool) (d a b : Reg) (s : State) : Host.Outcome State Fault Refusal :=
  s.issue (.fmin sm d a b) sm (float3 .min d a b)

/-- Table 9-1, `fmax`. -/
def execFmax (sm : Bool) (d a b : Reg) (s : State) : Host.Outcome State Fault Refusal :=
  s.issue (.fmax sm d a b) sm (float3 .max d a b)

/-! ## The fun group -/

/-- `fneg` and `fabs` on a code: the sign bits alone (R163). -/
def signCode (neg : Bool) (t : EType) (code : Nat) : Nat :=
  match t.fmt with
  | none => code
  | some f =>
    let top := 2 ^ (f.bits - 1)
    let one (c : Nat) : Nat :=
      let m := c % top
      if neg && decide (c % 2 ^ f.bits < top) then m + top else m
    if t = .cf32 then one (code % 2 ^ 32) + 2 ^ 32 * one (code / 2 ^ 32) else one code

/-- The effect of `fneg` and `fabs`. -/
def Gang.floatSign (G : Gang) (sl : BitVec 8) (neg : Bool) (d a : Reg) : Gang :=
  match G.etype with
  | none => G
  | some t =>
    let w := t.isWide
    G.typedRun (G.runs sl (vectorWise d [a])) w d fun i =>
      let c := signCode neg t (G.codeAt w a i)
      ({ code := c, inexact := false, outl := false }, BitVec.ofNat 64 c)

/-- Table 9-3, `fneg`. -/
def execFneg (sm : Bool) (d a : Reg) (s : State) : Host.Outcome State Fault Refusal :=
  s.issue (.fneg sm d a) sm
    (regMeaning (fun G sp => typedTests arithType G.wide d [(a, 1, G.wide)] G sp)
      fun G sp => G.floatSign sp.slices true d a)

/-- Table 9-3, `fabs`. -/
def execFabs (sm : Bool) (d a : Reg) (s : State) : Host.Outcome State Fault Refusal :=
  s.issue (.fabs sm d a) sm
    (regMeaning (fun G sp => typedTests (FOp.accepts .min) G.wide d [(a, 1, G.wide)] G sp)
      fun G sp => G.floatSign sp.slices false d a)

/-! ## The divide and square-root unit (R164) -/

/-- The access that carries a computed result to its delivery. -/
def Acc.computed (lane : Nat) (r : Res) : Nat × Acc :=
  (lane, { Acc.mk' lane 0 0 0 0 with
    st := .performed, ans := BitVec.ofNat 128 r.code, code := if r.inexact then 1 else 0 })

/-- Sets the destination span Pending in lanes, or as a whole (lane 32). -/
def Gang.pendAll (G : Gang) (regs : List Reg) (lanes : List Nat) (o : Nat) : Gang :=
  regs.foldl (fun G r => lanes.foldl (fun G i => G.setPending r i o) G) G

/-- An outstanding instruction of a split, with the mode it read at issue (03 R71). -/
def Op.make (kind : OpKind) (i : Instr) (G : Gang) (sp : Split) (d : Reg) (accs : KV Acc) : Op :=
  { kind := kind, instr := i, pc := sp.ipc, slices := sp.slices, mode := G.mode, dest := d, rel := none, acq := none,
    accs := accs, held := false, mat := none }

/-- Issues a divide or square root: its results are computed with the mode read at issue and delivered later. -/
def Gang.calc (G : Gang) (sp : Split) (i : Instr) (srcs : List Reg) (d : Reg) (f : Nat → Res) : Gang :=
  let lanes := G.runs sp.slices (vectorWise d srcs)
  if lanes.isEmpty then G
  else
    let o := G.nextOp
    (G.pendAll (spanOf G.wide d) lanes o).addOp (Op.make .calc i G sp d (lanes.map fun i => Acc.computed i (f i)))

/-- One result of the unit. -/
def Gang.unit (G : Gang) (v : Fmt → FMode → FV) : Res :=
  match G.etype.bind EType.fmt with
  | none => { code := 0, inexact := false, outl := false }
  | some f => Res.one (G.fmode.round f (v f G.fmode))

/-- The meaning of a divide or square root. -/
def calcMeaning (i : Instr) (d : Reg) (srcs : List (Reg × Nat)) (f : Gang → Nat → Res) : Meaning :=
  regMeaning
    (fun G sp => typedTests divType G.wide d (srcs.map fun p => (p.1, p.2, G.wide)) G sp)
    fun G sp => G.calc sp i (srcs.map Prod.fst) d (f G)

/-- Table 9-1, `div` (R164). -/
def execDiv (sm : Bool) (d a b : Reg) (s : State) : Host.Outcome State Fault Refusal :=
  s.issue (.div sm d a b) sm
    (calcMeaning (.div sm d a b) d [(a, 1), (b, 2)] fun G i =>
      G.unit fun f m => FV.div (m.fl f (G.codeAt G.wide a i)) (m.fl f (G.codeAt G.wide b i)))

/-- Table 9-3, `sqrt`. -/
def execSqrt (sm : Bool) (d a : Reg) (s : State) : Host.Outcome State Fault Refusal :=
  s.issue (.sqrt sm d a) sm
    (calcMeaning (.sqrt sm d a) d [(a, 1)] fun G i => G.unit fun f m => FV.sqrt (m.fl f (G.codeAt G.wide a i)))

/-- Table 9-3, `rcp`. -/
def execRcp (sm : Bool) (d a : Reg) (s : State) : Host.Outcome State Fault Refusal :=
  s.issue (.rcp sm d a) sm
    (calcMeaning (.rcp sm d a) d [(a, 1)] fun G i => G.unit fun f m => FV.rcp (m.fl f (G.codeAt G.wide a i)))

/-- Table 9-3, `rsqrt`. -/
def execRsqrt (sm : Bool) (d a : Reg) (s : State) : Host.Outcome State Fault Refusal :=
  s.issue (.rsqrt sm d a) sm
    (calcMeaning (.rsqrt sm d a) d [(a, 1)] fun G i => G.unit fun f m => FV.rsqrt (m.fl f (G.codeAt G.wide a i)))

/-! ## cvt (R165; 05 R121 to R123) -/

/-- Whether a conversion is not ILLOP (05 Table 5-6). -/
def cvtLegal (src dst : EType) : Bool :=
  if src = .cf32 then dst == .fp32 || dst == .cf32 else if dst = .cf32 then src == .fp32 else true

/-- A conversion of a code (05 Table 5-6); an E2M1 escape reads as +0 and sets OUTL (05 R106). INEXACT compares with the operand
as read, so that a subnormal source that FLUSH reads as zero sets none: the spec settles this for typed arithmetic alone (05
R124, 09 R161; DESIGN CHOICE, log 37). -/
def cvtCode (m : FMode) (src dst : EType) (code : Nat) : Res :=
  match src.int, src.fmt with
  | some (w, signed), _ =>
    let x := intValue w signed code
    match dst.int, dst.fmt with
    | some (w', signed'), _ => Res.one (intToInt m.sat w' signed' x)
    | none, some f => Res.one (m.round f (FV.ofInt x))
    | none, none => Res.one (0, false)
  | none, some f =>
    if src = .cf32 || dst = .cf32 then
      let re := m.round fp32 (m.fl fp32 code)
      if dst = .fp32 then Res.one re
      else if src = .fp32 then Res.pair re (0, false)
      else Res.pair re (m.round fp32 (m.fl fp32 (code / 2 ^ 32)))
    else
      let esc := src = .e2m1 && decide (code % 16 = 8)
      let x := if esc then FV.fin false 0 0 else m.fl f code
      let r := match dst.int, dst.fmt with
        | some (w', signed'), _ => fvToInt m.rm m.sat w' signed' x
        | none, some f' => m.round f' x
        | none, none => (0, false)
      { code := r.1, inexact := r.2, outl := esc }
  | none, none => Res.one (0, false)

/-- A result code as it fills its register (05 R109). -/
def fillCode (t : EType) (code : Nat) : Dword :=
  match t.int with
  | some (w, signed) => extendInt w signed code
  | none => BitVec.ofNat 64 code

/-- The effect of `cvt`. -/
def Gang.cvt (G : Gang) (sl : BitVec 8) (d a : Reg) (src : EType) : Gang :=
  match G.etype with
  | none => G
  | some dst =>
    G.typedRun (G.runs sl (vectorWise d [a])) dst.isWide d fun i =>
      let r := cvtCode G.fmode src dst (G.codeAt src.isWide a i)
      (r, fillCode dst r.code)

/-- The tests of `cvt`: a pair that Table 5-6 marks ILLOP depends on TYPE (reason 4). -/
def cvtTests (d a : Reg) (src : EType) (G : Gang) (sp : Split) : Tests :=
  let t := typedTests (fun _ => true) G.wide d [(a, 1, src.isWide)] G sp
  { t with o1 := match t.o1, G.etype with
      | some x, _ => some x
      | none, some dst => illopIf (!cvtLegal src dst) 4
      | none, none => none }

/-- Table 9-2, `cvt` (R165). -/
def execCvt (sm : Bool) (d a : Reg) (t : EType) (s : State) : Host.Outcome State Fault Refusal :=
  s.issue (.cvt sm d a t) sm (regMeaning (cvtTests d a t) fun G sp => G.cvt sp.slices d a t)

end Sys2Proof.Machine
end

