-- ==== Sys2Proof/Machine/Exchange.lean ====
section
/-! DEFINITION. Lane exchange, byte tables, dot products, reductions, scan and register-indexed access (09 R166 to R173). -/

namespace Sys2Proof.Machine

/-! ## Source lanes (R157, R158) -/

/-- Lane j is available to the executing split (R157). -/
def Gang.available (G : Gang) (sl : BitVec 8) (j : Nat) : Bool := (G.liveOf sl).getLsbD j

/-- `Src(x, j)` (R157). -/
def Gang.src (G : Gang) (sl : BitVec 8) (r : Reg) (j : Nat) : Word := if G.available sl j then G.opnd32 r j else 0

/-- A V register or zr. -/
def vSrc (r : Reg) : Bool := r.isV || r.isZ

/-- A V destination or zr. -/
def vDst (r : Reg) : Bool := r.isVDst || r.isZ

/-- The tests of a lane-crossing instruction with V source A: A is tested in every available lane (R158). -/
def crossTests (d a : Reg) (more : List (Reg × Nat × Bool)) (G : Gang) (sp : Split) : Tests :=
  let rest := more.map Prod.fst
  { o2 := illreg ((d, 0, vDst d) :: (a, 1, vSrc a) :: more)
    o3 := G.boundTest (d :: a :: rest)
    o4 := G.hazardTest (G.active sp.slices) [d] ++ G.hazardTest (G.liveOf sp.slices) [a] ++
      G.hazardTest (G.active sp.slices) rest }

/-- Writes a value in each active lane. -/
def Gang.eachActive (G : Gang) (sl : BitVec 8) (d : Reg) (f : Nat → Word) : Gang :=
  G.forLanes (G.active sl) fun H i => H.writeV d i (f i)

/-- `shfl` (R166). -/
def execShfl (sm : Bool) (d a b : Reg) (s : State) : Host.Outcome State Fault Refusal :=
  s.issue (.shfl sm d a b) sm
    (regMeaning (crossTests d a [(b, 2, b.vecSrc)])
      fun G sp => G.eachActive sp.slices d fun i => G.src sp.slices a ((G.opnd32 b i).toNat % 32))

/-- The source lane of a pattern (Table 9-5); `none` gives 0. -/
def LanePat.lane (p : LanePat) (i k : Nat) : Option Nat :=
  match p with
  | .bcast => some k
  | .xor => some (i ^^^ k)
  | .rotd => some ((i + k) % 32)
  | .down => if i + k ≤ 31 then some (i + k) else none
  | .up => if k ≤ i then some (i - k) else none

/-- `shfi` (R167). -/
def execShfi (sm : Bool) (d a : Reg) (p : LanePat) (k : BitVec 5) (s : State) : Host.Outcome State Fault Refusal :=
  s.issue (.shfi sm d a p k) sm
    (regMeaning (crossTests d a [])
      fun G sp => G.eachActive sp.slices d fun i =>
        match LanePat.lane p i k.toNat with
        | some j => G.src sp.slices a j
        | none => 0)

/-- `lsh` (R168). -/
def execLsh (sm : Bool) (d a b : Reg) (s : State) : Host.Outcome State Fault Refusal :=
  s.issue (.lsh sm d a b) sm
    (regMeaning (crossTests d a [(b, 2, sSrc b)])
      fun G sp => G.eachActive sp.slices d fun i =>
        if i = 0 then (G.opnd64 b).setWidth 32 else G.src sp.slices a (i - 1))

/-! ## Byte tables (R169) -/

/-- Byte j of the table held in a scalar pair. -/
def Gang.tableByte (G : Gang) (b : Reg) (j : Nat) : Byte :=
  if b.isZ then 0 else (G.opnd64 (b.plus (j / 8))).extractLsb' (8 * (j % 8)) 8

/-- The lookup of four nibbles, low or high, of a word. -/
def Gang.lookup (G : Gang) (b : Reg) (high : Bool) (x : Word) : Word :=
  let t (n : Nat) : Byte := G.tableByte b ((x.extractLsb' (8 * n + (if high then 4 else 0)) 4).toNat)
  t 3 ++ t 2 ++ t 1 ++ t 0

/-- The class of a table pair: an even s register, or zr. -/
def tableReg (b : Reg) : Bool := (b.sNum.isSome && b.aligned 2) || b.isZ

/-- The meaning of `btl` and `btlh`. -/
def lookupMeaning (high : Bool) (d a b : Reg) : Meaning :=
  regMeaning
    (fun G sp =>
      { o2 := illreg [(d, 0, vDst d), (a, 1, vSrc a), (b, 2, tableReg b)]
        o3 := G.boundTest [d, a]
        o4 := G.hazardTest (G.active sp.slices) (d :: a :: b.span 2) })
    fun G sp => G.eachActive sp.slices d fun i => G.lookup b high (G.opnd32 a i)

/-- `btl` (R169). -/
def execBtl (sm : Bool) (d a b : Reg) (s : State) : Host.Outcome State Fault Refusal :=
  s.issue (.btl sm d a b) sm (lookupMeaning false d a b)

/-- `btlh` (R169). -/
def execBtlh (sm : Bool) (d a b : Reg) (s : State) : Host.Outcome State Fault Refusal :=
  s.issue (.btlh sm d a b) sm (lookupMeaning true d a b)

/-! ## Dot products (R170) -/

/-- Element k of b bits of a word. -/
def packed (w : Word) (b k : Nat) : Nat := w.toNat / 2 ^ (b * k) % 2 ^ b

/-- The dot product of two words of n elements of b bits on an accumulator, for a type of Table 9-7. -/
def dotRes (m : FMode) (t : EType) (b n : Nat) (c x y : Word) : Res :=
  match t.int, t.fmt with
  | some (_, signed), _ =>
    let e (w : Word) (k : Nat) : Int := intValue b signed (packed w b k)
    let v := (List.range n).foldl (fun v k => v + e x k * e y k) (intValue 32 signed c.toNat)
    Res.one (intToInt m.sat 32 signed v)
  | none, some f =>
    let esc (w : Word) (k : Nat) : Bool := t = .e2m1 && packed w b k == 8
    let e (w : Word) (k : Nat) : FV := if esc w k then .fin false 0 0 else f.value (packed w b k)
    let v := (List.range n).foldl (fun v k => FV.add m.rm v ((e x k).mul (e y k))) (m.fl fp32 c.toNat)
    let r := m.round fp32 v
    { code := r.1, inexact := r.2, outl := (List.range n).any fun k => esc x k || esc y k }
  | none, none => Res.one (0, false)

/-- The effect of a dot product. -/
def Gang.dot (G : Gang) (sl : BitVec 8) (b n : Nat) (d x y : Reg) : Gang :=
  match G.etype with
  | none => G
  | some t =>
    G.typedRun (G.runs sl (vectorWise d [x, y])) false d fun i =>
      let at_ (r : Reg) : Word := BitVec.ofNat 32 (G.codeAt false r i)
      let r := dotRes G.fmode t b n (at_ d) (at_ x) (at_ y)
      (r, BitVec.ofNat 64 r.code)

/-- The types of `dot8` and `dot4` (Table 9-7). -/
def dotType (b : Nat) (t : EType) : Bool :=
  match t with
  | .i8 | .n8 | .e4m3 | .e5m2 => b == 8
  | .i4 | .n4 | .e2m1 => b == 4
  | .fp32 | .fp64 | .fp16 | .bf16 | .cf32 | .i32 | .n32 => false

/-- The meaning of a dot product. -/
def dotMeaning (b n : Nat) (d x y : Reg) : Meaning :=
  regMeaning
    (fun G sp =>
      { o1 := G.typeTest (dotType b)
        o2 := illreg [(d, 0, vDst d), (x, 1, x.vecSrc), (y, 2, y.vecSrc)]
        o3 := G.boundTest [d, x, y]
        o4 := G.hazardTest (G.active sp.slices) [d, x, y] })
    fun G sp => G.dot sp.slices b n d x y

/-- `dot8` (R170). -/
def execDot8 (sm : Bool) (d a b : Reg) (s : State) : Host.Outcome State Fault Refusal :=
  s.issue (.dot8 sm d a b) sm (dotMeaning 8 4 d a b)

/-- `dot4` (R170). -/
def execDot4 (sm : Bool) (d a b : Reg) (s : State) : Host.Outcome State Fault Refusal :=
  s.issue (.dot4 sm d a b) sm (dotMeaning 4 8 d a b)

/-! ## Reductions and scan (R171, R172) -/

/-- The reductions. -/
inductive RedOp where
  | add | min | max
deriving DecidableEq, Repr

/-- The types that a reduction accepts (Table 9-8). -/
def RedOp.accepts (op : RedOp) (t : EType) : Bool :=
  match t with
  | .i32 | .i8 | .i4 | .n32 | .n8 | .n4 | .fp32 | .fp64 | .fp16 | .bf16 => true
  | .cf32 => op == .add
  | .e4m3 | .e5m2 | .e2m1 => false

/-- The typed operation that a reduction repeats. -/
def RedOp.step (op : RedOp) : FOp :=
  match op with
  | .add => .add
  | .min => .min
  | .max => .max

/-- An integer reduction (Table 9-8), from the lane values. -/
def redInt (op : RedOp) (signed : Bool) (l : List Int) : Int :=
  match op with
  | .add => l.foldl (fun x y => x + y) 0
  | .min => l.foldl min (if signed then 2 ^ 31 - 1 else 2 ^ 32 - 1)
  | .max => l.foldl max (if signed then -(2 ^ 31) else 0)

/-- The value of a floating-point reduction of no lane (Table 9-8). -/
def RedOp.emptyCode (op : RedOp) (f : Fmt) : Nat :=
  match op with
  | .add => 0
  | .min => (2 ^ f.ebits - 1) * 2 ^ f.mbits
  | .max => (2 ^ f.ebits - 1) * 2 ^ f.mbits + f.signBit true

/-- The first value of a sequential reduction: Round(Fl(a)). -/
def redFirst (m : FMode) (t : EType) (code : Nat) : Res :=
  if t = .cf32 then Res.pair (m.round fp32 (m.parts code).1) (m.round fp32 (m.parts code).2)
  else
    match t.fmt with
    | some f => Res.one (m.round f (m.fl f code))
    | none => Res.one (0, false)

/-- A sequential reduction of codes in lane order, with its flags (R171). -/
def redFloat (op : RedOp) (m : FMode) (t : EType) : List Nat → Res
  | [] =>
    match t.fmt with
    | some f => Res.one (op.emptyCode f, false)
    | none => Res.one (0, false)
  | c :: rest =>
    rest.foldl (fun acc x =>
      let r := op.step.run m t acc.code x 0
      { r with inexact := r.inexact || acc.inexact }) (redFirst m t c)

/-- A reduction of the codes of the lanes given, as 64 bits and flags. -/
def Gang.reduce (G : Gang) (op : RedOp) (a : Reg) (lanes : List Nat) : Res × Dword :=
  match G.etype with
  | none => (Res.one (0, false), 0)
  | some t =>
    let codes := lanes.map fun i => G.laneCode t.isWide a i
    match t.int with
    | some (_, signed) =>
      (Res.one (0, false), BitVec.ofInt 64 (redInt op signed (codes.map fun c => intValue 32 signed c)))
    | none =>
      let r := redFloat op G.fmode t codes
      (r, BitVec.ofNat 64 r.code)

/-- The tests of a reduction or scan: the source span in every available lane (R158). -/
def redTests (op : RedOp) (dOk aOk : Bool) (dSpan : List Reg) (d a : Reg) (G : Gang) (sp : Split) : Tests :=
  let aSpan := spanOf G.wide a
  { o1 := G.typeTest op.accepts
    o2 := illreg [(d, 0, dOk), (a, 1, aOk && pairOk G.wide a)]
    o3 := G.boundTest (dSpan ++ aSpan)
    o4 := G.hazardTest (G.active sp.slices) dSpan ++ G.hazardTest (G.liveOf sp.slices) aSpan }

/-- The meaning of a reduction (R171). -/
def redMeaning (op : RedOp) (d a : Reg) : Meaning :=
  regMeaning (redTests op (d.isSDst || d.isZ) a.isV [d] d a)
    fun G sp =>
      let r := G.reduce op a (lanesOf (G.active sp.slices))
      (G.writeS d r.2).orFlags (flagBits r.1.inexact r.1.outl)

/-- `redadd` (R171). -/
def execRedadd (sm : Bool) (d a : Reg) (s : State) : Host.Outcome State Fault Refusal :=
  s.issue (.redadd sm d a) sm (redMeaning .add d a)

/-- `redmin` (R171). -/
def execRedmin (sm : Bool) (d a : Reg) (s : State) : Host.Outcome State Fault Refusal :=
  s.issue (.redmin sm d a) sm (redMeaning .min d a)

/-- `redmax` (R171). -/
def execRedmax (sm : Bool) (d a : Reg) (s : State) : Host.Outcome State Fault Refusal :=
  s.issue (.redmax sm d a) sm (redMeaning .max d a)

/-- The effect of `scan` (R172). -/
def Gang.scan (G : Gang) (sl : BitVec 8) (d a : Reg) : Gang :=
  let lanes := lanesOf (G.active sl)
  G.typedRun lanes G.wide d fun i => G.reduce .add a (lanes.filter fun j => decide (j ≤ i))

/-- `scan` (R172). -/
def execScan (sm : Bool) (d a : Reg) (s : State) : Host.Outcome State Fault Refusal :=
  s.issue (.scan sm d a) sm
    (regMeaning (fun G sp => redTests .add (vDst d && pairOk G.wide d) (vSrc a) (spanOf G.wide d) d a G sp)
      fun G sp => G.scan sp.slices d a)

/-! ## Register-indexed access (R173) -/

/-- The indices at or above the bound, in active lanes whose index register is not Pending. -/
def Gang.indexBound (G : Gang) (sl : BitVec 8) (r : Reg) : List Trap :=
  ((lanesOf (G.active sl)).filter fun i =>
    !G.isPending r i && decide (G.regBound ≤ (G.opnd32 r i).toNat)).map fun i => .regbound (G.opnd32 r i).toNat

/-- The indexed registers that are Pending in their lanes. -/
def Gang.indexHazard (G : Gang) (sl : BitVec 8) (r : Reg) : List Trap :=
  ((lanesOf (G.active sl)).filter fun i =>
    !G.isPending r i && (G.pendingOp (G.opnd32 r i).toNat i).isSome).map fun i => .hazard (G.opnd32 r i).toNat

/-- The tests of `rget` and `rput` with the index register x. -/
def indexTests (cls : List (Reg × Nat × Bool)) (x : Reg) (G : Gang) (sp : Split) : Tests :=
  let regs := cls.map Prod.fst
  { o2 := illreg cls
    o3 := G.boundTest regs ++ G.indexBound sp.slices x
    o4 := G.hazardTest (G.active sp.slices) regs ++ G.indexHazard sp.slices x }

/-- `rget` (R173). -/
def execRget (sm : Bool) (d a : Reg) (s : State) : Host.Outcome State Fault Refusal :=
  s.issue (.rget sm d a) sm
    (regMeaning (indexTests [(d, 0, vDst d), (a, 1, a.vecSrc)] a)
      fun G sp => G.eachActive sp.slices d fun i => G.vreg (G.opnd32 a i).toNat i)

/-- `rput` (R173): D names the index register. -/
def execRput (sm : Bool) (d a : Reg) (s : State) : Host.Outcome State Fault Refusal :=
  s.issue (.rput sm d a) sm
    (regMeaning (indexTests [(d, 0, d.vecSrc), (a, 1, a.vecSrc)] d)
      fun G sp => G.forLanes (G.active sp.slices) fun H i => H.setV (G.opnd32 d i).toNat i (G.opnd32 a i))

end Sys2Proof.Machine
end

