-- ==== Sys2Proof/Machine/LoadStore.lean ====
section
/-! DEFINITION. Plain loads and stores (07 R148 to R154), with the register window (03 R68, R70), the lane-private window
(03 R67) and the L1 at issue (11 R182 to R184). An access of 16 bytes is two accesses of 8 (11 R188). -/

namespace Sys2Proof.Machine

/-! ## Forms -/

/-- A plain access: its size, data register, whether it is vector-wise, and its effective addresses (R149). -/
structure Plain where
  load : Bool
  size : Nat
  d    : Reg
  /-- The address registers. -/
  regs : List Reg
  vec  : Bool
  ea   : Gang → Nat → Dword

/-- Base + index (R149). -/
def plainIdx (load : Bool) (size : Nat) (d a b : Reg) : Plain :=
  { load := load, size := size, d := d, regs := [a, b], vec := d.isV || a.isV || b.isV,
    ea := fun G i => G.base a i + G.base b i }

/-- Base + immediate (R149). -/
def plainImm (load : Bool) (size : Nat) (d a : Reg) (o : BitVec 5) : Plain :=
  { load := load, size := size, d := d, regs := [a], vec := d.isV || a.isV,
    ea := fun G i => G.base a i + o.signExtend 64 * BitVec.ofNat 64 size }

/-- Strided (R153). -/
def plainStride (load : Bool) (d a b : Reg) : Plain :=
  { load := load, size := 4, d := d, regs := [a, b], vec := true,
    ea := fun G i => G.opnd64 a + BitVec.ofNat 64 i * G.opnd64 b }

/-- The registers of a span by size and class (Table 7-11). -/
def memSpan (size : Nat) (d : Reg) : List Reg :=
  if d.isV then d.span (max 1 (size / 4)) else if d.isS then d.span (max 1 (size / 8)) else [d]

/-- The span starts where Table 7-11 requires. -/
def memAligned (size : Nat) (d : Reg) : Bool :=
  if d.isV then size ≤ 4 || d.aligned (size / 4) else size ≤ 8 || d.aligned (size / 8)

/-- The registers of one half of a span: half h of an access of 16 bytes, or the whole. -/
def halfSpan (size : Nat) (d : Reg) (h : Nat) : List Reg :=
  if d.isV then (d.plus (2 * h)).span (max 1 (min size 8 / 4)) else if d.isS then [d.plus h] else []

/-- The classes of a plain access (R149, R150). `strict`: D must be V, and addresses S or zr (R153). -/
def Plain.classes (x : Plain) (strict : Bool) : List Trap :=
  let dOk := if strict then (if x.load then x.d.isVDst else x.d.isV)
    else if x.load then x.d.isVDst || x.d.isSDst || x.d.isZ else x.d.isV || x.d.isS || x.d.isZ
  let src (r : Reg) : Bool := if strict || (x.load && x.d.isS) then sSrc r else r.vecSrc
  illreg ((x.d, 0, dOk && memAligned x.size x.d) :: (x.regs.zipIdx.map fun p => (p.1, p.2 + 1, src p.1)))

/-- The lanes that perform it (R149). -/
def Plain.lanes (x : Plain) (G : Gang) (sl : BitVec 8) : List Nat := G.runs sl x.vec

/-- Addresses of the lanes whose address registers are not Pending. -/
def Plain.eas (x : Plain) (G : Gang) (sl : BitVec 8) : List (Nat × Dword) :=
  ((x.lanes G sl).filter fun i => !x.regs.any fun r => G.isPending r i).map fun i => (i, x.ea G i)

/-! ## The register window (03 R68, R70) -/

/-- The register words that n bytes at a window-1 offset touch, as (register, lane). -/
def regWords (off n : Nat) : List (Nat × Nat) :=
  (List.range ((off % 4 + n + 3) / 4)).map fun j => ((off / 4 + j) / 32, (off / 4 + j) % 32)

/-- The window-1 words that an access touches; a misaligned access touches none (R151). -/
def winWords (size : Nat) (va : Dword) : List (Nat × Nat) :=
  if localWindow va = some 1 && va.toNat % size = 0 then regWords (offset va) size else []

/-- REGBOUND of a register-window access (R68). -/
def Gang.winBound (G : Gang) (size : Nat) (eas : List (Nat × Dword)) : List Trap :=
  eas.flatMap fun e =>
    (winWords size e.2).filterMap fun w => if G.regBound ≤ w.1 then some (.regbound w.1) else none

/-- HAZARD of a register-window access (R70). -/
def Gang.winHazard (G : Gang) (size : Nat) (eas : List (Nat × Dword)) : List Trap :=
  eas.flatMap fun e =>
    (winWords size e.2).filterMap fun w => if (G.pendingOp w.1 w.2).isSome then some (.hazard w.1) else none

/-- Reads n bytes of the register window. -/
def Gang.winRead (G : Gang) (off : Nat) : Nat → Nat
  | 0 => 0
  | n + 1 =>
    ((G.vreg (off / 128) (off / 4 % 32)).toNat / 2 ^ (8 * (off % 4)) % 256) + 256 * Gang.winRead G (off + 1) n

/-- A word with n bytes from byte o replaced by the low bytes of v. -/
def wordPut (w : Word) (o n v : Nat) : Word :=
  let keep := w.toNat / 2 ^ (8 * (o + n)) * 2 ^ (8 * (o + n)) + w.toNat % 2 ^ (8 * o)
  BitVec.ofNat 32 (keep + v % 2 ^ (8 * n) * 2 ^ (8 * o))

/-- The register words that a window-1 store of n bytes leaves, as (register x 32 + lane, value), from the registers as they
were. -/
def Gang.winStore (G : Gang) (off n v : Nat) : List (Nat × Word) :=
  if n < 4 then [(off / 4, wordPut (KV.get G.v (off / 4) 0) (off % 4) n v)]
  else (List.range (n / 4)).map fun j => (off / 4 + j, BitVec.ofNat 32 (v / 2 ^ (32 * j)))

/-- Applies the words of a window-1 store. Where two lanes write one word, which one wins is free (R70, log 4). -/
def State.winApply (g : Nat) : List (Nat × Word) → List Nat → State → State
  | [], _, s => s
  | (k, w) :: rest, done, s =>
    if done.contains k then
      let s' := if Config.freeChoice s.fresh % 2 = 1 then s.modGang g fun G => { G with v := KV.put 0 G.v k w } else s
      State.winApply g rest done s'.tick
    else State.winApply g rest (k :: done) (s.modGang g fun G => { G with v := KV.put 0 G.v k w })

/-! ## Tests and waits -/

/-- The tests of a plain access (R150, R68, R70; 11 R200). -/
def Plain.tests (x : Plain) (strict : Bool) (s : State) (_ _ : Nat) (G : Gang) (sp : Split) : Tests :=
  let regs := memSpan x.size x.d ++ x.regs
  let eas := x.eas G sp.slices
  { o2 := x.classes strict
    o3 := G.boundTest regs ++ G.winBound x.size eas
    o4 := G.hazardTest (G.active sp.slices) regs ++ G.winHazard x.size eas
    o5 := (s.clampTest G (!x.load) (eas.map fun e => (e.2, x.size))).toList }

/-- Waits before issue: the thirty-third memory instruction (17 R271), the thirty-third miss (17 R289). -/
def memWait (s : State) (G : Gang) (sp : Split) (vas : List Dword) : Before :=
  if G.opHold sp.slices || s.missHold G vas then .wait else .go

/-! ## Issue -/

/-- A store or atomic of the gang that overlaps and is unacknowledged (11 R184). -/
def Gang.ownPending (G : Gang) (a : Acc) : Bool :=
  G.storePending a.va a.size ||
    (match a.place.bind Place.key with
     | none => false
     | some k =>
       G.ops.any fun p => p.2.kind.writes && p.2.goodAccs.any fun q =>
         match q.2.place.bind Place.key with
         | some k' => decide (k < k' + q.2.size) && decide (k' < k + a.size)
         | none => false)

/-- A load access that is answered at issue: windows 0 and 1, and a hit in the L1 that no own store holds back. -/
def State.loadNow (s : State) (G : Gang) (a : Acc) : Acc :=
  match a.st with
  | .ready =>
    match a.place with
    | some (.priv g l off) =>
      match (Place.priv g l off).key with
      | some k =>
        let r := s.readAns k a.size
        { a with st := .performed, ans := r.1, code := r.2 }
      | none => a
    | some (.reg off) => { a with st := .performed, ans := BitVec.ofNat 128 (G.winRead off a.size) }
    | some (.hbm pa) =>
      match s.sector G.core pa with
      | some w =>
        if a.noL1 || G.ownPending a then a
        else { a with st := .performed, ans := BitVec.ofNat 128 (sectorRead w (pa % 32) a.size) }
      | none => a
    | some (.carve _ _) | some (.scratch _ _) | some (.share _ _) | some (.remote _) | none => a
  | .xlate | .waiting | .refused | .sent _ | .performed | .fault _ => a

/-- The halves of an access: (half, address, bytes). -/
def halves (va : Dword) (size : Nat) : List (Nat × Dword × Nat) :=
  if size = 16 then [(0, va, 8), (1, va + 8, 8)] else [(0, va, size)]

/-- A fresh access of a lane, a half of it, admitted or misaligned (R151). -/
def State.newAcc (s : State) (g : Nat) (G : Gang) (sp : Split) (n : Need) (size lane : Nat) (ea : Dword)
    (h : Nat × Dword × Nat) (data : BitVec 128) : Nat × Acc :=
  let a := Acc.mk' lane h.2.1 h.2.2 data 0
  (lane * 2 + h.1,
    if ea.toNat % size ≠ 0 then { a with st := .fault causeAlign } else s.letIn g G sp.slices n a)

/-- Issues a load (R152). -/
def State.issueLoad (x : Plain) (i : Instr) (s : State) (g : Nat) (G : Gang) (sp : Split) : State :=
  let lanes := x.lanes G sp.slices
  let accs := lanes.flatMap fun l =>
    (halves (x.ea G l) x.size).map fun h =>
      let p := s.newAcc g G sp OpKind.load.need x.size l (x.ea G l) h 0
      (p.1, s.loadNow G p.2)
  if accs.isEmpty then s
  else
    let o := G.nextOp
    let dest := if x.d.isZ then [] else memSpan x.size x.d
    s.setGang g ((G.pendAll dest lanes o).addOp (Op.make .load i G sp x.d accs))

/-- The data of a store: the low bytes of the span (R150). -/
def Gang.storeData (G : Gang) (size : Nat) (d : Reg) (lane : Nat) : Nat :=
  if d.isV then
    ((List.range (max 1 (size / 4))).map fun j => (G.opnd32 (d.plus j) lane).toNat * 2 ^ (32 * j)).sum % 2 ^ (8 * size)
  else if d.isS then
    ((G.opnd64 d).toNat + (if size = 16 then (G.opnd64 (d.plus 1)).toNat * 2 ^ 64 else 0)) % 2 ^ (8 * size)
  else 0

/-- A store access that is performed at issue, in windows 0 and 1. -/
def Acc.isLocal (a : Acc) : Bool :=
  match a.st, a.place with
  | .ready, some (.priv _ _ _) => true
  | .ready, some (.reg _) => true
  | _, _ => false

/-- The range of keys of a window-0 access. -/
def Acc.privRange (a : Acc) : Option (Nat × Nat) :=
  match a.place with
  | some (.priv g l off) => ((Place.priv g l off).key).map fun k => (k, a.size)
  | some (.reg _) | some (.hbm _) | some (.carve _ _) | some (.scratch _ _) | some (.share _ _) | some (.remote _)
  | none => none

/-- Performs the window-0 stores of a list of accesses of one instruction; it clears the mark of a block of which it writes
every byte (17 R290). -/
def State.privStores (s : State) (accs : KV Acc) : State :=
  let m := accs.foldl (fun (m : Memory) p =>
    match p.2.privRange with
    | some r => m.store r.1 r.2 p.2.data.toNat
    | none => m) s.mem
  { s with mem := m.clearCover (accs.filterMap fun p => p.2.privRange) }

/-- The register words of the window-1 stores of a list of accesses. -/
def Gang.winStores (G : Gang) (accs : KV Acc) : List (Nat × Word) :=
  accs.flatMap fun p =>
    match p.2.place with
    | some (.reg off) => G.winStore off p.2.size p.2.data.toNat
    | some (.priv _ _ _) | some (.hbm _) | some (.carve _ _) | some (.scratch _ _) | some (.share _ _)
    | some (.remote _) | none => []

/-- Stores to global memory update the L1 copy at issue (11 R183). -/
def State.l1Stores (s : State) (core : Nat) (accs : KV Acc) : State :=
  accs.foldl (fun s p =>
    match p.2.st, p.2.place with
    | .ready, some (.hbm pa) => s.l1Store core pa p.2.size p.2.data.toNat
    | _, _ => s) s

/-- Issues the accesses of a store: local ones are performed, the others are outstanding. -/
def State.issueStores (i : Instr) (d : Reg) (s : State) (g : Nat) (G : Gang) (sp : Split) (accs : KV Acc) : State :=
  let here := accs.filter fun p => p.2.isLocal
  let rest := accs.filter fun p => !p.2.isLocal
  let s := State.winApply g (G.winStores here) [] (s.privStores here)
  let s := s.l1Stores G.core rest
  if rest.isEmpty then s else s.modGang g fun G => G.addOp (Op.make .store i G sp d rest)

/-- Issues a store (R152). -/
def State.issueStore (x : Plain) (i : Instr) (s : State) (g : Nat) (G : Gang) (sp : Split) : State :=
  let accs := (x.lanes G sp.slices).flatMap fun l =>
    let data := G.storeData x.size x.d l
    (halves (x.ea G l) x.size).map fun h =>
      s.newAcc g G sp OpKind.store.need x.size l (x.ea G l) h (BitVec.ofNat 128 (data / 2 ^ (64 * h.1)))
  s.issueStores i x.d g G sp accs

/-- The meaning of a plain access. -/
def Plain.meaning (x : Plain) (strict : Bool) (i : Instr) : Meaning :=
  { tests := x.tests strict
    before := fun s _ _ G sp => memWait s G sp ((x.lanes G sp.slices).map (x.ea G))
    effect := fun s g _ G sp => if x.load then s.issueLoad x i g G sp else s.issueStore x i g G sp }

/-- Table 7-10, `ldb`, base + index. -/
def execLdb (sm : Bool) (d a b : Reg) (s : State) : Host.Outcome State Fault Refusal :=
  s.issue (.ldb sm d a b) sm ((plainIdx true 1 d a b).meaning false (.ldb sm d a b))

/-- Table 7-10, `ldh`, base + index. -/
def execLdh (sm : Bool) (d a b : Reg) (s : State) : Host.Outcome State Fault Refusal :=
  s.issue (.ldh sm d a b) sm ((plainIdx true 2 d a b).meaning false (.ldh sm d a b))

/-- Table 7-10, `ldw`, base + index. -/
def execLdw (sm : Bool) (d a b : Reg) (s : State) : Host.Outcome State Fault Refusal :=
  s.issue (.ldw sm d a b) sm ((plainIdx true 4 d a b).meaning false (.ldw sm d a b))

/-- Table 7-10, `ldd`, base + index. -/
def execLdd (sm : Bool) (d a b : Reg) (s : State) : Host.Outcome State Fault Refusal :=
  s.issue (.ldd sm d a b) sm ((plainIdx true 8 d a b).meaning false (.ldd sm d a b))

/-- Table 7-10, `ldq`, base + index. -/
def execLdq (sm : Bool) (d a b : Reg) (s : State) : Host.Outcome State Fault Refusal :=
  s.issue (.ldq sm d a b) sm ((plainIdx true 16 d a b).meaning false (.ldq sm d a b))

/-- Table 7-10, `stb`, base + index. -/
def execStb (sm : Bool) (d a b : Reg) (s : State) : Host.Outcome State Fault Refusal :=
  s.issue (.stb sm d a b) sm ((plainIdx false 1 d a b).meaning false (.stb sm d a b))

/-- Table 7-10, `sth`, base + index. -/
def execSth (sm : Bool) (d a b : Reg) (s : State) : Host.Outcome State Fault Refusal :=
  s.issue (.sth sm d a b) sm ((plainIdx false 2 d a b).meaning false (.sth sm d a b))

/-- Table 7-10, `stw`, base + index. -/
def execStw (sm : Bool) (d a b : Reg) (s : State) : Host.Outcome State Fault Refusal :=
  s.issue (.stw sm d a b) sm ((plainIdx false 4 d a b).meaning false (.stw sm d a b))

/-- Table 7-10, `std`, base + index. -/
def execStd (sm : Bool) (d a b : Reg) (s : State) : Host.Outcome State Fault Refusal :=
  s.issue (.std sm d a b) sm ((plainIdx false 8 d a b).meaning false (.std sm d a b))

/-- Table 7-10, `stq`, base + index. -/
def execStq (sm : Bool) (d a b : Reg) (s : State) : Host.Outcome State Fault Refusal :=
  s.issue (.stq sm d a b) sm ((plainIdx false 16 d a b).meaning false (.stq sm d a b))

/-- Table 7-10, `ldb`, base + immediate. -/
def execLdbImm (sm : Bool) (d a : Reg) (o : BitVec 5) (s : State) : Host.Outcome State Fault Refusal :=
  s.issue (.ldbImm sm d a o) sm ((plainImm true 1 d a o).meaning false (.ldbImm sm d a o))

/-- Table 7-10, `ldh`, base + immediate. -/
def execLdhImm (sm : Bool) (d a : Reg) (o : BitVec 5) (s : State) : Host.Outcome State Fault Refusal :=
  s.issue (.ldhImm sm d a o) sm ((plainImm true 2 d a o).meaning false (.ldhImm sm d a o))

/-- Table 7-10, `ldw`, base + immediate. -/
def execLdwImm (sm : Bool) (d a : Reg) (o : BitVec 5) (s : State) : Host.Outcome State Fault Refusal :=
  s.issue (.ldwImm sm d a o) sm ((plainImm true 4 d a o).meaning false (.ldwImm sm d a o))

/-- Table 7-10, `ldd`, base + immediate. -/
def execLddImm (sm : Bool) (d a : Reg) (o : BitVec 5) (s : State) : Host.Outcome State Fault Refusal :=
  s.issue (.lddImm sm d a o) sm ((plainImm true 8 d a o).meaning false (.lddImm sm d a o))

/-- Table 7-10, `ldq`, base + immediate. -/
def execLdqImm (sm : Bool) (d a : Reg) (o : BitVec 5) (s : State) : Host.Outcome State Fault Refusal :=
  s.issue (.ldqImm sm d a o) sm ((plainImm true 16 d a o).meaning false (.ldqImm sm d a o))

/-- Table 7-10, `stb`, base + immediate. -/
def execStbImm (sm : Bool) (d a : Reg) (o : BitVec 5) (s : State) : Host.Outcome State Fault Refusal :=
  s.issue (.stbImm sm d a o) sm ((plainImm false 1 d a o).meaning false (.stbImm sm d a o))

/-- Table 7-10, `sth`, base + immediate. -/
def execSthImm (sm : Bool) (d a : Reg) (o : BitVec 5) (s : State) : Host.Outcome State Fault Refusal :=
  s.issue (.sthImm sm d a o) sm ((plainImm false 2 d a o).meaning false (.sthImm sm d a o))

/-- Table 7-10, `stw`, base + immediate. -/
def execStwImm (sm : Bool) (d a : Reg) (o : BitVec 5) (s : State) : Host.Outcome State Fault Refusal :=
  s.issue (.stwImm sm d a o) sm ((plainImm false 4 d a o).meaning false (.stwImm sm d a o))

/-- Table 7-10, `std`, base + immediate. -/
def execStdImm (sm : Bool) (d a : Reg) (o : BitVec 5) (s : State) : Host.Outcome State Fault Refusal :=
  s.issue (.stdImm sm d a o) sm ((plainImm false 8 d a o).meaning false (.stdImm sm d a o))

/-- Table 7-10, `stq`, base + immediate. -/
def execStqImm (sm : Bool) (d a : Reg) (o : BitVec 5) (s : State) : Host.Outcome State Fault Refusal :=
  s.issue (.stqImm sm d a o) sm ((plainImm false 16 d a o).meaning false (.stqImm sm d a o))

/-- `lds` (R153). -/
def execLds (sm : Bool) (d a b : Reg) (s : State) : Host.Outcome State Fault Refusal :=
  s.issue (.lds sm d a b) sm ((plainStride true d a b).meaning true (.lds sm d a b))

/-- `sts` (R153). -/
def execSts (sm : Bool) (d a b : Reg) (s : State) : Host.Outcome State Fault Refusal :=
  s.issue (.sts sm d a b) sm ((plainStride false d a b).meaning true (.sts sm d a b))

end Sys2Proof.Machine
end

