-- ==== Sys2Proof/Machine/Sync.lean ====
section
/-! DEFINITION. Atomics, the order group, futures, rings, named barriers, remote writes and counters, and the pool group (13
R211 to R235), as their instructions issue. What their requests do at their homes is in Homes.lean. -/

namespace Sys2Proof.Machine

/-! ## Shared -/

/-- An access of a scalar-wise or vector-wise request that R69, R203 or R223 keeps out of windows 0 to `low` - 1. A misaligned
one in such a window meets ALIGN: the spec states that order for atomics alone (R213), and it is taken for all (DESIGN CHOICE,
log 37). -/
def State.syncAcc (s : State) (g : Nat) (G : Gang) (sp : Split) (low align size lane : Nat) (va : Dword)
    (data : BitVec 128) (cmp : Dword) : Acc :=
  let a := Acc.mk' lane va size data cmp
  if va.toNat % align ≠ 0 then { a with st := .fault causeAlign }
  else
    match localWindow va with
    | some w => if w < low then { a with st := .fault causeWindow } else s.letIn g G sp.slices ⟨true, true, false⟩ a
    | none => s.letIn g G sp.slices ⟨true, true, false⟩ a

/-- Invalidates the addressed sectors in the core's L1 (11 R183). -/
def State.l1Drops (s : State) (core : Nat) (accs : KV Acc) : State :=
  accs.foldl (fun s p =>
    match p.2.place with
    | some (.hbm pa) => s.l1Drop core pa p.2.size
    | some (.reg _) | some (.priv _ _ _) | some (.carve _ _) | some (.scratch _ _) | some (.share _ _)
    | some (.remote _) | none => s) s

/-- The scope of a request by where its target lies: chip, or system on another module (11 Table 11-3). -/
def targetScope (node : BitVec 12) (va : Dword) : Scope :=
  if !va.getLsbD 63 && va.extractLsb' 48 12 != node then .sys else .chip

/-- Adds an outstanding request with its release and acquire scopes, makes registers Pending and gives the split its
wait. -/
def State.request (s : State) (g k : Nat) (G : Gang) (sp : Split) (i : Instr) (kind : OpKind) (d : Reg)
    (accs : KV Acc) (rel acq : Option Scope) (pend : List Reg) (waits : Bool) : State :=
  let o := G.nextOp
  let s := s.l1Drops G.core accs
  let G' := (G.pendAll pend [0] o).addOp { Op.make kind i G sp d accs with rel := rel, acq := acq }
  s.setGang g (if waits then G'.setSplit k { sp with st := .evwait, wait := .op o } else G')

/-- The effect of an instruction whose split waits. -/
def waitEffect (st : SplitState) (w : Wait) (s : State) (g k : Nat) (G : Gang) (sp : Split) : State :=
  s.setGang g (G.setSplit k { sp with st := st, wait := w })

/-! ## Atomics (R211 to R215) -/

/-- An atomic executes vector-wise (R212). -/
def atomicVec (d a : Reg) : Bool := d.isV || (d.isZ && a.isV)

/-- The registers of the data operand. -/
def atomicSpan (op : AtomicOp) (d : Reg) : List Reg := if op = .cas then d.span 2 else [d]

/-- The classes of an atomic (R212). -/
def atomicClasses (op : AtomicOp) (ret : Bool) (d a : Reg) : List Trap :=
  let dOk := if ret then d.isVDst || d.isSDst || d.isZ else d.isV || d.isS || d.isZ
  let pair := op ≠ .cas || (d.aligned 2 && !d.isZ)
  illreg [(d, 0, dOk && pair), (a, 1, if atomicVec d a then a.vecSrc else sSrc a)]

/-- `afadd` accepts FP32 vector-wise and FP64 scalar-wise (R212). -/
def atomicType (op : AtomicOp) (vec : Bool) (t : EType) : Bool :=
  op != .fadd || (if vec then t == .fp32 else t == .fp64)

/-- Its size. -/
def atomicSize (vec : Bool) : Nat := if vec then 4 else 8

/-- The meaning of an atomic (R213, R215). -/
def atomicMeaning (op : AtomicOp) (ret : Bool) (i : Instr) (d a : Reg) (c : Scope) : Meaning :=
  let vec := atomicVec d a
  let size := atomicSize vec
  { tests := fun s _ _ G sp =>
      let regs := atomicSpan op d ++ [a]
      { o1 := G.typeTest (atomicType op vec)
        o2 := atomicClasses op ret d a
        o3 := G.boundTest regs
        o4 := G.hazardTest (G.active sp.slices) regs
        o5 := (s.clampTest G true (((G.runs sp.slices vec).filter fun l => !G.isPending a l).map fun l => (G.base a l, size))).toList }
    before := fun s _ _ G sp => memWait s G sp ((G.runs sp.slices vec).map fun l => G.base a l)
    effect := fun s g _ G sp =>
      let lanes := G.runs sp.slices vec
      let x (r : Reg) (l : Nat) : Dword := if vec then (G.opnd32 r l).setWidth 64 else G.opnd64 r
      let accs : KV Acc := lanes.map fun l =>
        let data := if op = .cas then x (d.plus 1) l else x d l
        (l * 2, s.syncAcc g G sp 2 size size l (G.base a l) (data.setWidth 128) (if op = .cas then x d l else 0))
      if accs.isEmpty then s
      else
        let o := G.nextOp
        let s := s.l1Drops G.core accs
        s.setGang g (((if ret then G.pendAll (if d.isZ then [] else [d]) lanes o else G).addOp
          { Op.make (.atomic op (!G.unsignedType) ret) i G sp d accs with
            rel := some c, acq := if ret then some c else none })) }

/-- Table 13-1, `aadd`. -/
def execAadd (sm : Bool) (d a : Reg) (c : Scope) (s : State) : Host.Outcome State Fault Refusal :=
  s.issue (.aadd sm d a c) sm (atomicMeaning .add false (.aadd sm d a c) d a c)

/-- Table 13-1, `aadd`, return form. -/
def execAaddR (sm : Bool) (d a : Reg) (c : Scope) (s : State) : Host.Outcome State Fault Refusal :=
  s.issue (.aaddR sm d a c) sm (atomicMeaning .add true (.aaddR sm d a c) d a c)

/-- Table 13-1, `amin`. -/
def execAmin (sm : Bool) (d a : Reg) (c : Scope) (s : State) : Host.Outcome State Fault Refusal :=
  s.issue (.amin sm d a c) sm (atomicMeaning .min false (.amin sm d a c) d a c)

/-- Table 13-1, `amin`, return form. -/
def execAminR (sm : Bool) (d a : Reg) (c : Scope) (s : State) : Host.Outcome State Fault Refusal :=
  s.issue (.aminR sm d a c) sm (atomicMeaning .min true (.aminR sm d a c) d a c)

/-- Table 13-1, `amax`. -/
def execAmax (sm : Bool) (d a : Reg) (c : Scope) (s : State) : Host.Outcome State Fault Refusal :=
  s.issue (.amax sm d a c) sm (atomicMeaning .max false (.amax sm d a c) d a c)

/-- Table 13-1, `amax`, return form. -/
def execAmaxR (sm : Bool) (d a : Reg) (c : Scope) (s : State) : Host.Outcome State Fault Refusal :=
  s.issue (.amaxR sm d a c) sm (atomicMeaning .max true (.amaxR sm d a c) d a c)

/-- Table 13-1, `aand`. -/
def execAand (sm : Bool) (d a : Reg) (c : Scope) (s : State) : Host.Outcome State Fault Refusal :=
  s.issue (.aand sm d a c) sm (atomicMeaning .and false (.aand sm d a c) d a c)

/-- Table 13-1, `aand`, return form. -/
def execAandR (sm : Bool) (d a : Reg) (c : Scope) (s : State) : Host.Outcome State Fault Refusal :=
  s.issue (.aandR sm d a c) sm (atomicMeaning .and true (.aandR sm d a c) d a c)

/-- Table 13-1, `aor`. -/
def execAor (sm : Bool) (d a : Reg) (c : Scope) (s : State) : Host.Outcome State Fault Refusal :=
  s.issue (.aor sm d a c) sm (atomicMeaning .or false (.aor sm d a c) d a c)

/-- Table 13-1, `aor`, return form. -/
def execAorR (sm : Bool) (d a : Reg) (c : Scope) (s : State) : Host.Outcome State Fault Refusal :=
  s.issue (.aorR sm d a c) sm (atomicMeaning .or true (.aorR sm d a c) d a c)

/-- Table 13-1, `axor`. -/
def execAxor (sm : Bool) (d a : Reg) (c : Scope) (s : State) : Host.Outcome State Fault Refusal :=
  s.issue (.axor sm d a c) sm (atomicMeaning .xor false (.axor sm d a c) d a c)

/-- Table 13-1, `axor`, return form. -/
def execAxorR (sm : Bool) (d a : Reg) (c : Scope) (s : State) : Host.Outcome State Fault Refusal :=
  s.issue (.axorR sm d a c) sm (atomicMeaning .xor true (.axorR sm d a c) d a c)

/-- Table 13-1, `axch`. -/
def execAxch (sm : Bool) (d a : Reg) (c : Scope) (s : State) : Host.Outcome State Fault Refusal :=
  s.issue (.axch sm d a c) sm (atomicMeaning .xch false (.axch sm d a c) d a c)

/-- Table 13-1, `axch`, return form. -/
def execAxchR (sm : Bool) (d a : Reg) (c : Scope) (s : State) : Host.Outcome State Fault Refusal :=
  s.issue (.axchR sm d a c) sm (atomicMeaning .xch true (.axchR sm d a c) d a c)

/-- Table 13-1, `acas`. -/
def execAcas (sm : Bool) (d a : Reg) (c : Scope) (s : State) : Host.Outcome State Fault Refusal :=
  s.issue (.acas sm d a c) sm (atomicMeaning .cas false (.acas sm d a c) d a c)

/-- Table 13-1, `acas`, return form. -/
def execAcasR (sm : Bool) (d a : Reg) (c : Scope) (s : State) : Host.Outcome State Fault Refusal :=
  s.issue (.acasR sm d a c) sm (atomicMeaning .cas true (.acasR sm d a c) d a c)

/-- Table 13-1, `afadd`. -/
def execAfadd (sm : Bool) (d a : Reg) (c : Scope) (s : State) : Host.Outcome State Fault Refusal :=
  s.issue (.afadd sm d a c) sm (atomicMeaning .fadd false (.afadd sm d a c) d a c)

/-- Table 13-1, `afadd`, return form. -/
def execAfaddR (sm : Bool) (d a : Reg) (c : Scope) (s : State) : Host.Outcome State Fault Refusal :=
  s.issue (.afaddR sm d a c) sm (atomicMeaning .fadd true (.afaddR sm d a c) d a c)

/-! ## The order group (R217) -/

/-- Table 13-3, `acq`. -/
def execAcq (sm : Bool) (c : Scope) (s : State) : Host.Outcome State Fault Refusal :=
  s.issue (.acq sm c) sm { tests := noTests, before := noWait, effect := waitEffect .segwait (.acq c) }

/-- Table 13-3, `rel`. -/
def execRel (sm : Bool) (c : Scope) (s : State) : Host.Outcome State Fault Refusal :=
  s.issue (.rel sm c) sm { tests := noTests, before := noWait, effect := waitEffect .evwait (.rel c) }

/-- Table 13-3, `fence`. -/
def execFence (sm : Bool) (c : Scope) (s : State) : Host.Outcome State Fault Refusal :=
  s.issue (.fence sm c) sm { tests := noTests, before := noWait, effect := waitEffect .segwait (.fence c) }

/-- Table 13-3, `fsc` (11 R197). -/
def execFsc (sm : Bool) (sys : Bool) (s : State) : Host.Outcome State Fault Refusal :=
  s.issue (.fsc sm sys) sm { tests := noTests, before := noWait, effect := waitEffect .segwait (.fsc sys) }

/-- Table 13-3, `xfence`. -/
def execXfence (sm : Bool) (s : State) : Host.Outcome State Fault Refusal :=
  s.issue (.xfence sm) sm { tests := noTests, before := noWait, effect := waitEffect .segwait .marker }

/-! ## Futures (R219 to R221) -/

/-- The tests of a request with address register a, data or destination d, on n bytes. -/
def syncTests (cls : List (Reg × Nat × Bool)) (more : List Reg) (a : Reg) (writes : Bool) (n : Nat) (s : State)
    (_ _ : Nat) (G : Gang) (_ : Split) : Tests :=
  { o2 := illreg cls
    o4 := G.hazardTest 0 (cls.map Prod.fst ++ more)
    o5 := (s.clampTest G writes [(G.opnd64 a, n)]).toList }

/-- `fwr` (R220): `stat` is Pending until the response. -/
def execFwr (sm : Bool) (d a : Reg) (s : State) : Host.Outcome State Fault Refusal :=
  s.issue (.fwr sm d a) sm
    { tests := syncTests [(d, 0, sSrc d), (a, 1, sSrc a)] [.stat] a true 8
      before := fun s _ _ G sp => memWait s G sp [G.opnd64 a]
      effect := fun s g k G sp =>
        let acc := s.syncAcc g G sp 4 8 8 32 (G.opnd64 a) ((G.opnd64 d).setWidth 128) 0
        s.request g k G sp (.fwr sm d a) .fwr .stat [(64, acc)] (some (targetScope s.node (G.opnd64 a))) none [.stat]
          false }

/-- The meaning of a future read (R221). -/
def frdMeaning (consume : Bool) (i : Instr) (d a : Reg) : Meaning :=
  { tests := syncTests [(d, 0, d.isSDst || d.isZ), (a, 1, sSrc a)] [.stat] a consume 8
    before := fun s _ _ G sp => memWait s G sp [G.opnd64 a]
    effect := fun s g k G sp =>
      let acc := s.syncAcc g G sp 4 8 8 32 (G.opnd64 a) 0 0
      s.request g k G sp i (.frd consume) d [(64, acc)] none (some (targetScope s.node (G.opnd64 a))) [d, .stat] true }

/-- `frd` (R221). -/
def execFrd (sm : Bool) (d a : Reg) (s : State) : Host.Outcome State Fault Refusal :=
  s.issue (.frd sm d a) sm (frdMeaning false (.frd sm d a) d a)

/-- `frd.c` (R221). -/
def execFrdC (sm : Bool) (d a : Reg) (s : State) : Host.Outcome State Fault Refusal :=
  s.issue (.frdC sm d a) sm (frdMeaning true (.frdC sm d a) d a)

/-! ## Rings (R225 to R229) -/

/-- The one access of a ring instruction, on the control block. -/
def State.ringAcc (s : State) (g : Nat) (G : Gang) (sp : Split) (a : Reg) (v : Dword) : Acc :=
  s.syncAcc g G sp 4 64 64 32 (G.opnd64 a) (v.setWidth 128) 0

/-- `rclaim` (R225): D and `stat` are Pending until it is granted. -/
def execRclaim (sm : Bool) (d a : Reg) (s : State) : Host.Outcome State Fault Refusal :=
  s.issue (.rclaim sm d a) sm
    { tests := syncTests [(d, 0, d.isSDst || d.isZ), (a, 1, sSrc a)] [.stat] a true 64
      before := fun s _ _ G sp => memWait s G sp [G.opnd64 a]
      effect := fun s g k G sp =>
        s.request g k G sp (.rclaim sm d a) .rclaim d [(64, s.ringAcc g G sp a (G.opnd64 d))] none none [d, .stat] true }

/-- `rcommit` (R225, R227). -/
def execRcommit (sm : Bool) (d a : Reg) (s : State) : Host.Outcome State Fault Refusal :=
  s.issue (.rcommit sm d a) sm
    { tests := syncTests [(d, 0, sSrc d), (a, 1, sSrc a)] [] a true 64
      before := fun s _ _ G sp => memWait s G sp [G.opnd64 a]
      effect := fun s g k G sp =>
        s.request g k G sp (.rcommit sm d a) .rcommit .zr [(64, s.ringAcc g G sp a (G.opnd64 d))]
          (some (targetScope s.node (G.opnd64 a))) none [] false }

/-- `rawait` (R225, R227). -/
def execRawait (sm : Bool) (d a : Reg) (s : State) : Host.Outcome State Fault Refusal :=
  s.issue (.rawait sm d a) sm
    { tests := syncTests [(d, 0, d.isSDst || d.isZ), (a, 1, sSrc a)] [.stat] a true 64
      before := fun s _ _ G sp => memWait s G sp [G.opnd64 a]
      effect := fun s g k G sp =>
        s.request g k G sp (.rawait sm d a) .rawait d [(64, s.ringAcc g G sp a (G.opnd64 d))] none
          (some (targetScope s.node (G.opnd64 a))) [d, .stat] true }

/-- `rretire` (R225, R227): `stat` is Pending until its response. -/
def execRretire (sm : Bool) (d a : Reg) (s : State) : Host.Outcome State Fault Refusal :=
  s.issue (.rretire sm d a) sm
    { tests := syncTests [(d, 0, sSrc d), (a, 1, sSrc a)] [.stat] a true 64
      before := fun s _ _ G sp => memWait s G sp [G.opnd64 a]
      effect := fun s g k G sp =>
        s.request g k G sp (.rretire sm d a) .rretire .stat [(64, s.ringAcc g G sp a (G.opnd64 d))] none none [.stat]
          false }

/-- The effect of `rbind` (R228, R229): a ring already bound is left alone; a fifth binding faults. -/
def State.bindRing (s : State) (g k : Nat) (G : Gang) (sp : Split) (i : Instr) (a : Reg) : State :=
  let va := G.opnd64 a
  let acc := s.ringAcc g G sp a 0
  if acc.st.isFault then s.request g k G sp i .rbind .zr [(64, acc)] none none [] false
  else if G.binds.any fun b => b.1 == va then s
  else if 4 ≤ G.binds.length then
    s.request g k G sp i .rbind .zr [(64, { acc with st := .fault causeRing })] none none [] false
  else s.request g k { G with binds := G.binds ++ [(va, none)] } sp i .rbind .zr [(64, acc)] none none [] false

/-- `rbind` (R228). -/
def execRbind (sm : Bool) (a : Reg) (s : State) : Host.Outcome State Fault Refusal :=
  s.issue (.rbind sm a) sm
    { tests := syncTests [(a, 1, sSrc a)] [] a true 64
      before := fun s _ _ G sp => memWait s G sp [G.opnd64 a]
      effect := fun s g k G sp => s.bindRing g k G sp (.rbind sm a) a }

/-! ## Named barriers (R230, R231) -/

/-- The barriers that the gang's launch declares. -/
def State.barriersOf (s : State) (G : Gang) : Nat := ((s.params G).map LaunchParams.barriers).getD 0

/-- The group holds an ABANDONED condition (01 R49). -/
def State.isAbandoned (s : State) (G : Gang) : Bool := ((s.group G.group).map Group.abandoned).getD false

/-- The barrier state that a gang sees. -/
def State.barrierOf (s : State) (G : Gang) (b : Nat) : Barrier :=
  match s.group G.group with
  | some gr => gr.barrier b
  | none => { phase := 0, m := 0, n := 0, arrived := [], strikes := 0 }

/-- The meaning of `bar` and `barar`. -/
def arriveMeaning (d a : Reg) (n : BitVec 6) (waits : Bool) : Meaning :=
  { tests := fun s g _ G sp =>
      let m : Word := (G.opnd64 d).setWidth 32
      { o1 := illopIf (s.barriersOf G ≤ n.toNat) 3
        o2 := illreg [(d, 0, d.isM || d.isS), (a, 1, a.isS)]
        o4 := G.hazardTest 0 [d, a, .stat]
        o5 := if !s.isAbandoned G && G.mismatch g (s.barrierOf G n.toNat) sp.slices m (G.opnd64 a).toNat
          then [.maskmismatch n.toNat] else [] }
    before := noWait
    effect := fun s g k G sp =>
      if s.isAbandoned G then s.setGang g (G.setStat 6)
      else
        waitEffect (if waits then .barwait else .evwait)
          (.barRel n.toNat ((G.opnd64 d).setWidth 32) (G.opnd64 a).toNat waits) s g k G sp }

/-- `bar` (R231). -/
def execBar (sm : Bool) (d a : Reg) (n : BitVec 6) (s : State) : Host.Outcome State Fault Refusal :=
  s.issue (.bar sm d a n) sm (arriveMeaning d a n true)

/-- `barar` (R231). -/
def execBarar (sm : Bool) (d a : Reg) (n : BitVec 6) (s : State) : Host.Outcome State Fault Refusal :=
  s.issue (.barar sm d a n) sm (arriveMeaning d a n false)

/-- The standing arrivals of a split at a barrier (01 R47). -/
def Gang.arrivals (G : Gang) (sl : BitVec 8) (b : Nat) : List Arrival :=
  (slicesOf sl).filterMap fun t => KV.find G.arrs (arrKey t b)

/-- The discarded arrivals of a split at a barrier count as reported. -/
def Gang.clearDiscarded (G : Gang) (sl : BitVec 8) (b : Nat) : Gang :=
  (slicesOf sl).foldl (fun G t =>
    match KV.find G.arrs (arrKey t b) with
    | some x => if x.discarded then { G with arrs := KV.del G.arrs (arrKey t b) } else G
    | none => G) G

/-- `barw` (01 R47, R231): BARTIMEOUT for a discarded arrival not yet reported; a wait while the phase of its arrival is not
complete. -/
def execBarw (sm : Bool) (n : BitVec 6) (s : State) : Host.Outcome State Fault Refusal :=
  s.issue (.barw sm n) sm
    { tests := fun s _ _ G _ =>
        { o1 := illopIf (s.barriersOf G ≤ n.toNat) 3, o4 := G.hazardTest 0 [.stat] }
      before := fun s g k G sp =>
        if !s.isAbandoned G && (G.arrivals sp.slices n.toNat).any Arrival.discarded then
          .ends ((s.setGang g (G.clearDiscarded sp.slices n.toNat)).raise g k (.bartimeout n.toNat)
            ((encode (.barw sm n)).getD 0) sp.pc [])
        else .go
      effect := fun s g k G sp =>
        let arr := G.arrivals sp.slices n.toNat
        if s.isAbandoned G then s.setGang g (G.setStat 6)
        else if arr.isEmpty then s.setGang g (G.setStat 0)
        else if arr.any fun x => decide (x.phase = (s.barrierOf G n.toNat).phase) then
          waitEffect .barwait (.bar n.toNat) s g k G sp
        else waitEffect .evwait (.acqQuiet G.scope) s g k (G.setStat 0) sp }

/-! ## rwr and rwait (R232, R233) -/

/-- Where the counter of an `rwr` stands among its accesses: after every lane. -/
def counterKey : Nat := 1000

/-- The node that an address names: the own module for a local address. -/
def nodeOf (node : BitVec 12) (va : Dword) : BitVec 12 := if va.getLsbD 63 then node else va.extractLsb' 48 12

/-- The data of an `rwr` by lane: address and bytes (R232). -/
def rwrData (G : Gang) (sl : BitVec 8) (d a : Reg) : List (Nat × Dword × Dword) :=
  if d.isV then (lanesOf (G.active sl)).map fun i => (i, G.opnd64 a + BitVec.ofNat 64 (4 * i), (G.opnd32 d i).setWidth 64)
  else [(32, G.opnd64 a, G.opnd64 d)]

/-- The accesses of an `rwr`; data of any lane on another module than the counter is a NODE fault of every part, also of one
that is misaligned or in a window where it may not lie: the spec gives no order among these causes (DESIGN CHOICE, log 37). -/
def State.rwrAccs (s : State) (g : Nat) (G : Gang) (sp : Split) (d a b : Reg) : KV Acc :=
  let size := if d.isV then 4 else 8
  let data := (rwrData G sp.slices d a).map fun x =>
    (x.1 * 2,
      let acc := s.syncAcc g G sp 2 size size x.1 x.2.1 (x.2.2.setWidth 128) 0
      if (G.opnd64 a).toNat % size ≠ 0 then { acc with st := .fault causeAlign } else acc)
  let all := data ++ [(counterKey, s.syncAcc g G sp 4 8 8 32 (G.opnd64 b) 1 0)]
  if all.any fun p => nodeOf s.node p.2.va != nodeOf s.node (G.opnd64 b)
  then all.map fun p => (p.1, { p.2 with st := .fault causeNode }) else all

/-- `rwr` (R232). -/
def execRwr (sm : Bool) (d a b : Reg) (s : State) : Host.Outcome State Fault Refusal :=
  s.issue (.rwr sm d a b) sm
    { tests := fun s _ _ G sp =>
        { o2 := illreg [(d, 0, d.isV || sSrc d), (a, 1, sSrc a), (b, 2, sSrc b)]
          o3 := G.boundTest [d]
          o4 := G.hazardTest (G.active sp.slices) [d, a, b]
          o5 := (s.clampTest G true
            ((G.opnd64 b, 8) :: (rwrData G sp.slices d a).map fun x => (x.2.1, if d.isV then 4 else 8))).toList }
      before := fun s _ _ G sp =>
        memWait s G sp (G.opnd64 b :: (rwrData G sp.slices d a).map fun x => x.2.1)
      effect := fun s g k G sp =>
        s.request g k G sp (.rwr sm d a b) .rwr .zr (s.rwrAccs g G sp d a b)
          (some (targetScope s.node (G.opnd64 b))) none [] false }

/-- `rwait` (R233). -/
def execRwait (sm : Bool) (d : Reg) (e : BitVec 16) (s : State) : Host.Outcome State Fault Refusal :=
  s.issue (.rwait sm d e) sm
    { tests := syncTests [(d, 0, sSrc d)] [.stat] d true 8
      before := fun s _ _ G sp => memWait s G sp [G.opnd64 d]
      effect := fun s g k G sp =>
        let acc := s.syncAcc g G sp 4 8 8 32 (G.opnd64 d) (e.setWidth 128) 0
        s.request g k G sp (.rwait sm d e) .rwait .stat [(64, acc)] none (some (targetScope s.node (G.opnd64 d))) []
          true }

/-! ## The pool group (R234, R235) -/

/-- `give` (R234, 01 R37). -/
def execGive (sm : Bool) (e : BitVec 16) (s : State) : Host.Outcome State Fault Refusal :=
  s.issue (.give sm e) sm
    { tests := fun _ _ _ G _ =>
        { o3 := if G.topGranules < e.toNat then [.regbound G.regBound] else [] }
      before := noWait
      effect := waitEffect .evwait (.give e.toNat) }

/-- `claim` (R234, 01 R38). -/
def execClaim (sm : Bool) (e : BitVec 16) (s : State) : Host.Outcome State Fault Refusal :=
  s.issue (.claim sm e) sm
    { tests := fun _ _ _ G _ =>
        { o3 := if 4 ≤ G.segs.length || 24 < G.granules + e.toNat then [.regbound G.regBound] else []
          o4 := G.hazardTest 0 [.stat] }
      before := noWait
      effect := fun s g k G sp =>
        let s := waitEffect .claimwait (.claim e.toNat) s g k G sp
        (s.modGroup G.group fun gr => { gr with claims := gr.claims ++ [(g, k)] }).serveClaims G.group }

/-- Whether the gang's launch has a sharing group (11 R178, R179). -/
def State.hasShare (s : State) (G : Gang) : Bool := ((s.params G).map fun p => decide (p.shareBytes ≠ 0)).getD false

/-- `bjoin` (R235). -/
def execBjoin (sm : Bool) (s : State) : Host.Outcome State Fault Refusal :=
  s.issue (.bjoin sm) sm
    { tests := noTests
      before := noWait
      effect := fun s g k G sp =>
        waitEffect .evwait (.acqQuiet .bent) s g k { G with member := G.member || s.hasShare G } sp }

/-- `bleave` (R235). -/
def execBleave (sm : Bool) (s : State) : Host.Outcome State Fault Refusal :=
  s.issue (.bleave sm) sm { tests := noTests, before := noWait, effect := waitEffect .evwait .bleave }

end Sys2Proof.Machine
end

