-- ==== Sys2Proof/Machine/Matrix.lean ====
section
/-! DEFINITION. The matrix instructions and the events of the matrix unit (15 R238 to R251). -/

namespace Sys2Proof.Machine

/-! ## tcfg (R239) -/

/-- The fields of a tile descriptor. -/
def tileOf (d : Dword) : Tile :=
  { m := (d.extractLsb' 0 8).toNat, n := (d.extractLsb' 8 8).toNat, k := (d.extractLsb' 16 16).toNat }

/-- A descriptor that `tcfg` refuses under a TYPE: Resv bits, ranges, K against the k-step (R239). -/
def tileBad (t : EType) (d : Dword) : Bool :=
  let x := tileOf d
  d.extractLsb' 32 32 != 0 || x.m = 0 || 32 < x.m || x.n < 4 || 64 < x.n || x.n % 4 ≠ 0 || x.k = 0 ||
    x.k % t.kStep ≠ 0

/-- Matrix instructions are ILLOP in a protected launch (17 R294). -/
def Gang.protTest (G : Gang) : Option Trap := illopIf G.prot 4

/-- `tcfg` (R239): it waits as `xfence` does and for every matrix instruction of the gang, then the block changes. -/
def execTcfg (sm : Bool) (a : Reg) (s : State) : Host.Outcome State Fault Refusal :=
  s.issue (.tcfg sm a) sm
    { tests := fun _ _ _ G _ =>
        { o1 := G.protTest.or (G.typeTest fun t => t.int.isNone)
          o2 := illreg [(a, 1, a.isS)]
          o4 := G.hazardTest 0 [a]
          o5 := match G.etype with
            | some t => (illopIf (tileBad t (G.opnd64 a)) 4).toList
            | none => [] }
      before := noWait
      effect := fun s g k G sp => waitEffect .segwait (.tcfg (G.opnd64 a)) s g k G sp }

/-! ## Arguments and tests -/

/-- The instruction's arguments with a format block that was read; `none` when the tile is unconfigured or the block is
malformed. With zr as its accumulator it has no tile and no rows (03 R57). -/
def Gang.matArgs (G : Gang) (sl : BitVec 8) (kind : MatKind) (d a : Reg) (fbVa : Dword) (l : List Byte) : Option MatArgs :=
  match G.tile, Fb.ofBytes l with
  | some t, some f =>
    some { kind := kind, vC := d.vNum.getD noBase, vA := a.vNum.getD 0, tile := t, fb := f, fbVa := fbVa, comp := G.comp,
           rows := if d.isZ then 0 else maskOf fun i => G.activeLane sl i && decide (i < t.m) }
  | _, _ => none

/-- The byte ranges that are tested against destination ranges of the clamp table (R246, step 3). -/
def MatArgs.sideList (x : MatArgs) (idx : Nat) : List SideRead :=
  if x.mults then x.fb.sideReads x.fbVa x.tile.n x.tile.k x.rows (idx % 4) else []

/-- Steps 2 to 5 of R246. -/
def MatArgs.tests (x : MatArgs) (s : State) (G : Gang) : List Trap :=
  firstTrap (illopIf x.illegal 4).toList
    (firstTrap (s.clampTest G false ((x.sideList G.idx).map fun r => (r.va, r.len))).toList
      (firstTrap (tilesBound G.regBound x.tiles) (x.hazard G)))

/-- The accumulator register is Pending by an instruction that is not a matrix instruction on the same base (R245, R246:
position 4 tests only the registers the word names). Pending by one on the same base with another tile is found at step 5 of R246,
behind its other conditions: the spec does not say at which of the two places (DESIGN CHOICE, log 36). -/
def Gang.accHazard (G : Gang) (lanes : Word) (d : Reg) : List Trap :=
  match d.vNum with
  | none => []
  | some v =>
    G.spanHazard lanes (fun o =>
      match (KV.find G.ops o).bind Op.mat with
      | some m => m.chained && m.vC == v
      | none => false) v 1

/-- The format block's address register: B of `mma` and `mmc`, A of `mzero` and `mfin`. -/
def fbReg (kind : MatKind) (a b : Reg) : Reg :=
  match kind with
  | .mma | .mmc => b
  | .mzero | .mfin => a

/-- The tests of a matrix instruction (R244, R246, R250). That A names `lid`, `bnd` or `alt` raises ILLREG, and the ILLOP of a
protected launch is tested at order 1: both are the model's choice (log 36). zr is a destination of `mzero` and `mfin` (03
R57); `mma` and `mmc` refuse every register that is not of class V (R244), and B of them as well as A of `tcfg` is an S
register and nothing else (R239, R244), so that zr raises ILLREG there: the model's choice, since 03 R57 accepts zr as an S
source (DEDUCED, log 11). Step 1 tests the block's bytes; the others need the block, which is read only once the gang's own
stores to it are acknowledged (R245, R247). -/
def matTests (kind : MatKind) (d a b : Reg) (s : State) (g _ : Nat) (G : Gang) (sp : Split) : Tests :=
  let r := fbReg kind a b
  let va := G.opnd64 r
  let mult := kind = .mma || kind = .mmc
  { o1 := G.protTest
    o2 := illreg ((d, 0, d.isVDst || (!mult && d.isZ)) :: (if mult then [(a, 1, a.isVDst), (b, 2, b.isS)] else [(a, 1, sSrc a)]))
    o3 := G.boundTest (if mult then [d, a] else [d])
    o4 := G.accHazard (G.active sp.slices) d ++ G.hazardTest (G.active sp.slices) (if mult then [a, b] else [a])
    o5 := firstTrap (s.clampTest G false [(va, 32)]).toList
      (if G.storePending va 32 then []
       else
         match (s.matRead g G sp.slices G.nextOp va 32).1 with
         | .ok l =>
           match G.matArgs sp.slices kind d a va l with
           | none => [.illop 4]
           | some x => x.tests s G
         | .fault _ | .poison _ => []) }

/-- What holds or ends a matrix instruction before it issues (R247): own stores not yet acknowledged, a block that cannot be
read, a poisoned block. -/
def matBefore (kind : MatKind) (i : Instr) (d a b : Reg) (s : State) (g k : Nat) (G : Gang) (sp : Split) : Before :=
  let va := G.opnd64 (fbReg kind a b)
  if G.opHold sp.slices || G.storePending va 32 then .wait
  else
    match s.matRead g G sp.slices G.nextOp va 32 with
    | (.fault c, t) => .held fun s => ({ s with agenda := t.agenda, fresh := t.fresh } : State).holdFault g k .format i sp va c
    | (.poison p, _) => .held fun s => s.consume g p
    | (.ok l, _) =>
      match G.matArgs sp.slices kind d a va l with
      | none => .go
      | some x => if (x.sideList G.idx).any fun r => G.storePending r.va r.len then .wait else .go

/-! ## Issue -/

/-- Registers captured from a gang: n registers from v in the lanes given, by offset x 32 + lane. -/
def Gang.capture (G : Gang) (lanes : Word) (v n : Nat) : KV Word :=
  (List.range n).foldl (fun m j => (lanesOf lanes).foldl (fun m i => KV.put 0 m (j * 32 + i) (G.vreg (v + j) i)) m) []

/-- The value that a row's register held when the oldest Pending instruction on the tile issued (Table 15-7). -/
def Gang.origReg (G : Gang) (vC v lane : Nat) : Word :=
  let older := G.ops.findSome? fun p =>
    match p.2.mat with
    | some m => if m.vC = vC && m.rows.getLsbD lane then some (KV.get m.orig (v * 32 + lane) 0) else none
    | none => none
  older.getD (G.vreg v lane)

/-- The original values of a tile's rows. -/
def Gang.origs (G : Gang) (rows : Word) (vC n : Nat) : KV Word :=
  (List.range n).foldl (fun m j =>
    (lanesOf rows).foldl (fun m i => KV.set m ((vC + j) * 32 + i) (G.origReg vC (vC + j) i)) m) []

/-- What a matrix instruction captures at issue. -/
def MatArgs.mat (x : MatArgs) (G : Gang) (l : List Byte) (sides : KV Byte) : Mat :=
  let n := x.tile.n
  let quad := x.mults && x.fb.quad
  { kind := x.kind, m := x.tile.m, n := n, k := x.tile.k, comp := x.comp, fb := l, fbVa := x.fbVa, rows := x.rows,
    vC := x.vC
    tileA := if x.mults then G.capture x.rows x.vA (x.fb.lenA x.tile.k) else []
    tileB := if x.mults then G.capture 0xFFFFFFFF x.fb.vB (x.fb.lenB n x.tile.k) else []
    sides := sides, orig := G.origs x.rows x.vC (x.fb.lenC n x.comp), quad := quad
    waited := if quad then some 0 else none, quarters := [], done := false }

/-- Makes the accumulator and lo tiles Pending in the rows (R245). -/
def Gang.pendTile (G : Gang) (rows : Word) (v n o : Nat) : Gang :=
  (List.range n).foldl (fun G j =>
    (lanesOf rows).foldl (fun G i => { G with pend := KV.set G.pend ((v + j) * 32 + i) o }) G) G

/-- The gangs that share a quad slot (01 R16; R248). -/
def State.quadGangs (s : State) (G : Gang) : List Nat :=
  match s.group G.group with
  | none => []
  | some gr => gr.gangs.filter fun h =>
      match s.gang h with
      | some H => H.idx / 4 == G.idx / 4
      | none => false

/-- A gang of the quad slot does not exist or has retired (R249). -/
def State.quadBroken (s : State) (G : Gang) : Bool :=
  let live := (s.quadGangs G).filter fun h =>
    match s.gang h with
    | some H => H.st != .retired && H.st != .killed
    | none => false
  decide (live.length < 4)

/-- The quad instruction of a gang that waits for assembly: its oldest, once its reads have been made. -/
def Gang.quadOp (G : Gang) : Option (Nat × Op × Mat) :=
  (G.ops.findSome? fun p =>
    match p.2.mat with
    | some m => if m.waited.isSome then some (p.1, p.2, m) else none
    | none => none).filter fun q => !q.2.2.reread

/-- Replaces the captured part of a matrix instruction. -/
def Gang.setMat (G : Gang) (o : Nat) (f : Mat → Mat) : Gang :=
  { G with ops := KV.mod G.ops o fun op => { op with mat := op.mat.map f } }

/-- The split that waits for the quad of instruction `op` goes on (R248). -/
def Gang.quadDone (G : Gang) (op : Op) : Gang :=
  G.splits.foldl (fun G p =>
    if p.2.wait = .quad && p.2.st = .evwait && op.ofSplit p.2.slices then G.finishSplit p.1 else G) G

/-- Ends a waiting quad instruction with a QUAD fault (R249), beside those that its reads have met. Table 17-8 names neither an
address nor a lane for it: its record holds the address of the format block and a lane field of all ones (DESIGN CHOICE, log
36). -/
def State.quadFault (s : State) (g : Nat) : State :=
  match s.gang g with
  | none => s
  | some G =>
    match G.quadOp with
    | none => s
    | some (o, op, m) =>
      (s.modGang g fun G =>
        ({ G with ops := KV.mod G.ops o fun op =>
            { op with
              accs := KV.set op.accs 65536 { Acc.mk' 32 m.fbVa 1 0 0 with st := .fault causeQuad }
              mat := some { m with waited := none } } }).quadDone op).wake g

/-- What the four instructions of a quad must agree in (R249). -/
def Mat.agrees (m : Mat) (x : Mat) : Bool :=
  m.kind == x.kind && m.m = x.m && m.n = x.n && m.k = x.k && m.comp == x.comp && m.fb.take 3 == x.fb.take 3

/-- Assembles a quad once all four instructions wait (R248, R249). -/
def State.assemble (s : State) (G : Gang) : State :=
  let all := (s.quadGangs G).filterMap fun h =>
    match s.gang h with
    | some H => H.quadOp.map fun q => (h, H.idx % 4, q)
    | none => none
  if all.length < 4 then s
  else
    let ok := match all with
      | [] => false
      | x :: r => r.all fun y => x.2.2.2.2.agrees y.2.2.2.2
    if ok then
      let quarters := all.map fun x => (x.2.1, x.2.2.2.2.tileB, x.2.2.2.2.sides)
      all.foldl (fun s x =>
        (s.modGang x.1 fun H =>
          (H.setMat x.2.2.1 fun m => { m with waited := none, quarters := quarters }).quadDone x.2.2.2.1).wake x.1) s
    else all.foldl (fun s x => s.quadFault x.1) s

/-- Starts the wait of a quad instruction that has been issued (R248, R249). -/
def State.startQuad (s : State) (g k : Nat) (sp : Split) : State :=
  let s := s.setWait g k .evwait .quad
  match s.gang g with
  | none => s
  | some G => if s.quadBroken G then s.quadFault g else s.assemble { G with splits := KV.set G.splits k sp }

/-- The effect of a matrix instruction (R244, R245, R250). -/
def matEffect (kind : MatKind) (i : Instr) (d a b : Reg) (s : State) (g k : Nat) (G : Gang) (sp : Split) : State :=
  let va := G.opnd64 (fbReg kind a b)
  match s.matRead g G sp.slices G.nextOp va 32 with
  | (.fault _, s) => s
  | (.poison _, s) => s
  | (.ok l, s) =>
    match G.matArgs sp.slices kind d a va l with
    | none => s
    | some x =>
      let start (s : State) (accs : KV Acc) (sides : KV Byte) : State :=
        let m := x.mat G l sides
        let op := { Op.make .matrix i G sp d accs with mat := some m }
        let s := s.modGang g fun G => (G.pendTile x.rows x.vC (x.fb.lenC x.tile.n x.comp) G.nextOp).addOp op
        if m.quad then s.startQuad g k sp else s
      match s.readSides g G sp.slices G.nextOp (x.sideList G.idx) with
      | (.poison p, s) => s.consume g p
      | (.ok sides, s) => start s [] sides
      | (.faults f, s) =>
        -- it has issued and updates no row (R247); in a quad its partners assemble with it (R248)
        let (sides, s) := s.freeSides (x.sideList G.idx)
        start s (s.sideFaults G f) sides

/-- The meaning of a matrix instruction. -/
def matMeaning (kind : MatKind) (i : Instr) (d a b : Reg) : Meaning :=
  { tests := matTests kind d a b, before := matBefore kind i d a b, effect := matEffect kind i d a b }

/-- `mma` (R244). -/
def execMma (sm : Bool) (d a b : Reg) (s : State) : Host.Outcome State Fault Refusal :=
  s.issue (.mma sm d a b) sm (matMeaning .mma (.mma sm d a b) d a b)

/-- `mmc` (R244). -/
def execMmc (sm : Bool) (d a b : Reg) (s : State) : Host.Outcome State Fault Refusal :=
  s.issue (.mmc sm d a b) sm (matMeaning .mmc (.mmc sm d a b) d a b)

/-- `mzero` (R250). -/
def execMzero (sm : Bool) (d a : Reg) (s : State) : Host.Outcome State Fault Refusal :=
  s.issue (.mzero sm d a) sm (matMeaning .mzero (.mzero sm d a) d a .zr)

/-- `mfin` (R250). -/
def execMfin (sm : Bool) (d a : Reg) (s : State) : Host.Outcome State Fault Refusal :=
  s.issue (.mfin sm d a) sm (matMeaning .mfin (.mfin sm d a) d a .zr)

/-! ## Events -/

/-- The oldest matrix instruction on a tile that has not been delivered may deliver (R245). -/
def Gang.matReady (G : Gang) (o : Nat) : Option (Op × Mat) :=
  match KV.find G.ops o with
  | none => none
  | some op =>
    match op.mat with
    | none => none
    | some m =>
      let behind := G.ops.any fun p =>
        decide (p.1 < o) && (match p.2.mat with
          | some m' => !m'.done && m'.vC == m.vC
          | none => false)
      if m.done || !op.badAccs.isEmpty || m.waited.isSome || m.reread || behind then none else some (op, m)

/-- The reads of scales and outlier records that a captured matrix instruction makes. -/
def Mat.sideList (m : Mat) (idx : Nat) : List SideRead :=
  match m.kind, Fb.ofBytes m.fb with
  | .mma, some f | .mmc, some f => f.sideReads m.fbVa m.n m.k m.rows (idx % 4)
  | _, _ => []

/-- The gang's own quarter of an assembled quad takes the scales that were read again. -/
def Mat.requarter (m : Mat) (quadrant : Nat) (sides : KV Byte) : Mat :=
  { m with
    sides := sides
    quarters := m.quarters.map fun x => if x.1 == quadrant then (x.1, m.tileB, sides) else x }

/-- A quad instruction issued again waits for its partners again (R249). -/
def State.requad (s : State) (g : Nat) : State :=
  match s.gang g with
  | none => s
  | some G => if s.quadBroken G then s.quadFault g else s.assemble G

/-- Makes the reads of a replayed matrix instruction again (R247); `none` while an earlier store of its gang to one of their bytes
is unacknowledged (07 R154). -/
def State.reread (s : State) (g o : Nat) : Option State :=
  match s.gang g with
  | none => none
  | some G =>
    match (KV.find G.ops o).bind fun op => op.mat.map fun m => (op, m) with
    | none => none
    | some (op, m) =>
      let l := m.sideList G.idx
      if !m.reread || l.any fun r => G.storeBefore o r.va r.len then none
      else
        let put (s : State) (accs : KV Acc) (sides : KV Byte) : State :=
          let m := { m.requarter (G.idx % 4) sides with reread := false }
          let op := { op with accs := accs, mat := some m }
          let s := s.modGang g fun G => { G with ops := KV.set G.ops o op }
          if m.waited.isSome then s.requad g else s
        match s.readSides g G op.slices o l with
        | (.poison p, s) => some (s.consume g p)
        | (.ok sides, s) => some (put s [] sides)
        | (.faults f, s) =>
          let (sides, s) := s.freeSides l
          some (put s (s.sideFaults G f) sides)

/-- MATRIX_COMPLETE (R245): the tiles are delivered; they stay Pending until the next marker. Of a replayed instruction whose reads
have been held back, the reads are made (R247). -/
def execMatrixComplete (g o : Nat) (s : State) : Host.Outcome State Fault Refusal :=
  s.event
    (match s.gang g with
     | none => none
     | some G =>
       match G.matReady o with
       | none => (s.reread g o).map fun s => s.wake g
       | some (_, m) => some ((s.setGang g ((m.deliver G).setMat o fun m => { m with done := true })).wake g))

/-- The barrier timeout of a gang's launch (01 R48). -/
def State.timeoutOf (s : State) (G : Gang) : Nat := ((s.params G).map LaunchParams.timeout).getD 0

/-- QUAD_TIMEOUT (R249): a partner has not issued within the group's barrier timeout. -/
def execQuadTimeout (g sp : Nat) (s : State) : Host.Outcome State Fault Refusal :=
  s.event
    (match s.gang g with
     | none => none
     | some G =>
       match KV.find G.splits sp, G.quadOp with
       | some _, some (_, _, m) =>
         if (m.waited.getD 0) ≤ s.timeoutOf G then none else some (s.quadFault g)
       | _, _ => none)

end Sys2Proof.Machine
end

