-- ==== Sys2Proof/Machine/Search.lean ====
section
/-! DEFINITION. The search, ridge and task instructions as they issue (19 R304, R305, R310 to R317). -/

namespace Sys2Proof.Machine

/-! ## Shared -/

/-- Search instructions are ILLOP in a protected launch (R320); at order 1 of Table 3-10, which is the model's choice (log 36). -/
def searchProt (G : Gang) : Option Trap := illopIf G.prot 4

/-- The mask of lanes of a list for which a condition holds. -/
def badLanes (lanes : Word) (f : Nat → Bool) : Word := maskOf fun i => lanes.getLsbD i && f i

/-- SEARCHOVF, when a lane meets it. -/
def searchOvf (lanes : Word) : List Trap := if lanes ≠ 0 then [.searchovf lanes] else []

/-- `Fail(i)` would read a malformed record (R299). -/
def State.failBad (s : State) (g i : Nat) : Bool := (s.failLane' g i).isNone

/-- `Fail` in the lanes of a mask, in increasing order. -/
def State.failLanes (s : State) (g : Nat) (lanes : List Nat) : State :=
  lanes.foldl (fun s i => (s.failLane' g i).getD s) s

/-! ## try (R310) -/

/-- The registers of a brace mask. -/
def braceRegs (e : BitVec 16) : List Reg :=
  (List.range 16).filterMap fun j => if e.getLsbD j then some (Reg.ofNum (BitVec.ofNat 8 j)) else none

/-- Writes a brace record at an offset of a lane's region (Table 19-2). -/
def State.pushBrace (s : State) (g lane off : Nat) (G : Gang) (n : Nat) (e : BitVec 16) : State :=
  let s := s.privWrite g lane off 4 (n - 1)
  let s := s.privWrite g lane (off + 4) 4 1
  let s := s.privWrite g lane (off + 8) 4 (G.ttOf lane)
  let s := s.privWrite g lane (off + 12) 4 (G.bound lane).toNat
  let s := s.privWrite g lane (off + 16) 2 e.toNat
  let s := s.privWrite g lane (off + 18) 14 0
  (List.range 16).foldl (fun s j =>
    s.privWrite g lane (off + 32 + 4 * j) 4 (if e.getLsbD j then (G.vreg j lane).toNat else 0)) s

/-- One lane of `try`. -/
def State.tryLane (s : State) (g lane n : Nat) (e : BitVec 16) : State :=
  if n = 0 then (s.failLane' g lane).getD s
  else
    match s.gang g with
    | none => s
    | some G =>
      let s := s.setGang g ({ G with search := KV.set G.search lane .run }.setAlt lane 0)
      if n < 2 then s
      else
        let off := G.btOf lane - 96
        (s.pushBrace g lane off G n e).modGang g fun G => { G with bt := KV.set G.bt lane off }

/-- `try` (R310). -/
def execTryBrace (sm : Bool) (d : Reg) (e : BitVec 16) (s : State) : Host.Outcome State Fault Refusal :=
  s.issue (.tryBrace sm d e) sm
    { tests := fun s g _ G sp =>
        let regs := d :: braceRegs e
        let n (i : Nat) : Nat := (G.opnd32 d i).toNat
        { o1 := searchProt G
          o2 := illreg [(d, 0, d.vecSrc)]
          o3 := G.boundTest regs
          o4 := G.hazardTest (G.active sp.slices) (regs ++ [.bnd, .alt])
          o5 := searchOvf (badLanes (G.active sp.slices) fun i =>
            (2 ≤ n i && decide (G.btOf i < G.ttOf i + 96)) || (n i = 0 && s.failBad g i)) }
      before := noWait
      effect := fun s g _ G sp =>
        (lanesOf (G.active sp.slices)).foldl (fun s i => s.tryLane g i (G.opnd32 d i).toNat e) s }

/-! ## stt (R311) -/

/-- The offset of a lane's trailed store. -/
def sttOffset (G : Gang) (a : Reg) (o : BitVec 5) (size lane : Nat) : Dword :=
  G.base a lane + o.signExtend 64 * BitVec.ofNat 64 size

/-- The fault of a lane's trailed store. -/
def sttFault (G : Gang) (x : Dword) (size : Nat) : Option Nat :=
  if x.toNat % size ≠ 0 then some causeAlign else if G.tb < x.toNat + size then some causeWindow else none

/-- One lane of a trailed store: the trail entry, then the store (Table 19-3). -/
def State.sttLane (s : State) (g lane x size code v : Nat) : State :=
  match s.gang g with
  | none => s
  | some G =>
    let tt := G.ttOf lane
    let old := s.privRead g lane x size
    let s := s.privWrite g lane tt 8 (2 ^ 63 + x)
    let s := s.privWrite g lane (tt + 8) 4 old
    let s := s.privWrite g lane (tt + 12) 4 code
    let s := s.modGang g fun G => { G with tt := KV.set G.tt lane (tt + 16) }
    s.privWrite g lane x size v

/-- The effect of a trailed store. A faulting lane's x is an offset, and the spec does not say what address its record holds: the
model records x with bit 63 set, as a trail entry holds it (DESIGN CHOICE, log 36). -/
def State.sttAll (s : State) (g : Nat) (G : Gang) (sp : Split) (i : Instr) (d a : Reg) (o : BitVec 5) (size code : Nat) :
    State :=
  let lanes := lanesOf (G.active sp.slices)
  let bad : KV Acc := lanes.filterMap fun l =>
    let x := sttOffset G a o size l
    (sttFault G x size).map fun c =>
      (l * 2, { Acc.mk' l (x ||| 0x8000000000000000#64) size ((G.opnd32 d l).setWidth 128) 0 with st := .fault c })
  let s := if bad.isEmpty then s else s.setGang g (G.addOp (Op.make .store i G sp d bad))
  lanes.foldl (fun s l =>
    let x := sttOffset G a o size l
    if (sttFault G x size).isSome then s else s.sttLane g l x.toNat size code (G.opnd32 d l).toNat) s

/-- The meaning of a trailed store of 2^code bytes. -/
def sttMeaning (code : Nat) (i : Instr) (d a : Reg) (o : BitVec 5) : Meaning :=
  { tests := fun _ _ _ G sp =>
      { o1 := searchProt G
        o2 := illreg [(d, 0, d.vecSrc), (a, 1, a.vecSrc)]
        o3 := G.boundTest [d, a]
        o4 := G.hazardTest (G.active sp.slices) [d, a]
        o5 := searchOvf (badLanes (G.active sp.slices) fun l => decide (G.btOf l < G.ttOf l + 16)) }
    before := fun s _ _ G sp => memWait s G sp []
    effect := fun s g _ G sp => s.sttAll g G sp i d a o (2 ^ code) code }

/-- `sttb` (R311). -/
def execSttb (sm : Bool) (d a : Reg) (o : BitVec 5) (s : State) : Host.Outcome State Fault Refusal :=
  s.issue (.sttb sm d a o) sm (sttMeaning 0 (.sttb sm d a o) d a o)

/-- `stth` (R311). -/
def execStth (sm : Bool) (d a : Reg) (o : BitVec 5) (s : State) : Host.Outcome State Fault Refusal :=
  s.issue (.stth sm d a o) sm (sttMeaning 1 (.stth sm d a o) d a o)

/-- `stt` (R311). -/
def execStt (sm : Bool) (d a : Reg) (o : BitVec 5) (s : State) : Host.Outcome State Fault Refusal :=
  s.issue (.stt sm d a o) sm (sttMeaning 2 (.stt sm d a o) d a o)

/-! ## fail, resume, cut, bset -/

/-- Discards what is outstanding for a lane that fails: writes stand, responses and held faults go (R312). -/
def Gang.dropLane (G : Gang) (lane : Nat) : Gang :=
  ((G.cancelOps lane true true).cancelRows lane).clearLanePending lane

/-- The records of a report as its instructions stand: a lane that has gone leaves them, and one left with no lane is removed
(R307, R312). -/
def Gang.standingRecs (G : Gang) (sl : BitVec 8) (recs : List FaultRec) : List FaultRec :=
  recs.filterMap fun r =>
    if r.eng then some r
    else
      match KV.find G.ops r.op with
      | none => none
      | some op => if (G.within sl op).badAccs.isEmpty then none else some ((G.within sl op).record r.op)

/-- The records that the handler reads. -/
def Gang.pruneRecs (G : Gang) : Gang :=
  { G with trap := G.trap.map fun t => { t with recs := G.standingRecs t.tslice t.recs } }

/-- `fail` (R312). -/
def execFail (sm : Bool) (s : State) : Host.Outcome State Fault Refusal :=
  s.issue (.fail sm) sm
    { tests := fun s g _ G sp =>
        { o1 := searchProt G, o5 := searchOvf (badLanes (G.active sp.slices) fun i => s.failBad g i) }
      before := noWait
      effect := fun s g _ G sp =>
        let lanes := lanesOf (G.active sp.slices)
        (s.setGang g (lanes.foldl Gang.dropLane G).pruneRecs).failLanes g lanes }

/-- The lanes that `resume` resumes. -/
def Gang.pendLanes (G : Gang) (sl : BitVec 8) : Word :=
  maskOf fun i => (G.liveOf sl).getLsbD i && G.searchOf i == .pend

/-- `resume` (R313). -/
def execResume (sm : Bool) (d : Reg) (s : State) : Host.Outcome State Fault Refusal :=
  s.issue (.resume sm d) sm
    (regMeaning (fun G _ => { o1 := searchProt G, o2 := illreg [(d, 0, d.isMDst || d.isZ)] })
      fun G sp =>
        let w := G.pendLanes sp.slices
        let G := (lanesOf w).foldl (fun G i => { G with search := KV.set G.search i .run }) G
        (G.setM 0 (G.mreg 0 ||| w)).writeMask d (G.sliceMask sp.slices) w)

/-- Brace depth of a lane (R295). -/
def Gang.depth (G : Gang) (lane : Nat) : Nat := (G.privBytes - G.btOf lane) / 96

/-- One lane of `cut` with mark m. -/
def Gang.cutLane (G : Gang) (lane m : Nat) : Gang :=
  let bt := if m < G.depth lane then G.privBytes - 96 * m else G.btOf lane
  { G with
    bt := KV.set G.bt lane bt
    tt := if bt = G.privBytes then KV.set G.tt lane G.tb else G.tt }

/-- `cut` (R314). -/
def execCut (sm : Bool) (d a : Reg) (s : State) : Host.Outcome State Fault Refusal :=
  s.issue (.cut sm d a) sm
    (regMeaning
      (fun G sp =>
        { o1 := searchProt G
          o2 := illreg [(d, 0, vDst d), (a, 1, a.vecSrc)]
          o3 := G.boundTest [d, a]
          o4 := G.hazardTest (G.active sp.slices) [d, a] })
      fun G sp =>
        G.forLanes (G.active sp.slices) fun H i =>
          (H.cutLane i (G.opnd32 a i).toNat).writeV d i (BitVec.ofNat 32 (G.depth i)))

/-- `bset` (R315). -/
def execBset (sm : Bool) (a : Reg) (s : State) : Host.Outcome State Fault Refusal :=
  s.issue (.bset sm a) sm
    (regMeaning
      (fun G sp =>
        { o2 := illreg [(a, 1, a.vecSrc)]
          o3 := G.boundTest [a]
          o4 := G.hazardTest (G.active sp.slices) [a, .bnd] })
      fun G sp => G.forLanes (G.active sp.slices) fun H i => H.setBnd i (G.opnd32 a i))

/-! ## Ridge instructions -/

/-- The better of the values that active lanes offer; `none` with no lane (R304). -/
def Gang.bestOffer (G : Gang) (sl : BitVec 8) (isMax : Bool) (a : Reg) : Option Word :=
  if a.isV then
    (lanesOf (G.active sl)).foldl (fun b i =>
      match b with
      | none => some (G.opnd32 a i)
      | some x => some (better isMax x (G.opnd32 a i))) none
  else some ((G.opnd64 a).setWidth 32)

/-- The effect of an offer (R304). -/
def State.offer (s : State) (G : Gang) (isMax : Bool) (k : Fin 16) (v : Option Word) : State :=
  let r := (s.ctx G.ctx).ridge k.val
  match v with
  | none => s
  | some v =>
    if r.cfg.enable && r.cfg.isMax == isMax then
      let C := s.core G.core
      let c := better isMax (s.ridgeCopy G.core G.ctx k.val) v
      let s := s.setCore G.core { C with ridge := KV.set C.ridge (G.ctx * 16 + k.val) c }
      { s with ridgeMsgs := s.ridgeMsgs ++ [{ ctx := G.ctx, k := k, val := v, dest := .offer }] }
    else s

/-- The number of a ridge register in an operand. -/
def ridgeIdx (v : Dword) : Fin 16 := ⟨v.toNat % 16, Nat.mod_lt _ (by decide)⟩

/-- The meaning of `rmin` and `rmax`. -/
def offerMeaning (isMax : Bool) (d a : Reg) : Meaning :=
  { tests := fun _ _ _ G sp =>
      { o2 := illreg [(d, 0, sSrc d), (a, 1, a.vecSrc)]
        o3 := G.boundTest [a]
        o4 := G.hazardTest (G.active sp.slices) [d, a] }
    before := noWait
    effect := fun s _ _ G sp => s.offer G isMax (ridgeIdx (G.opnd64 d)) (G.bestOffer sp.slices isMax a) }

/-- `rmin` (R304). -/
def execRmin (sm : Bool) (d a : Reg) (s : State) : Host.Outcome State Fault Refusal :=
  s.issue (.rmin sm d a) sm (offerMeaning false d a)

/-- `rmax` (R304). -/
def execRmax (sm : Bool) (d a : Reg) (s : State) : Host.Outcome State Fault Refusal :=
  s.issue (.rmax sm d a) sm (offerMeaning true d a)

/-- `rrd` (R305): the copy is read at delivery. -/
def execRrd (sm : Bool) (d a : Reg) (s : State) : Host.Outcome State Fault Refusal :=
  s.issue (.rrd sm d a) sm
    { tests := fun _ _ _ G sp =>
        { o2 := illreg [(d, 0, d.isVDst || d.isSDst || d.isZ), (a, 1, sSrc a)]
          o3 := G.boundTest [d]
          o4 := G.hazardTest (G.active sp.slices) [d, a] }
      before := noWait
      effect := fun s g _ G sp =>
        let lanes := G.runs sp.slices d.isV
        let accs : KV Acc := lanes.map fun l => (l, { Acc.mk' l 0 0 0 0 with st := .performed })
        if accs.isEmpty then s
        else
          s.setGang g ((G.pendAll (if d.isZ then [] else [d]) lanes G.nextOp).addOp
            (Op.make (.rrd (ridgeIdx (G.opnd64 a)).val) (.rrd sm d a) G sp d accs)) }

/-! ## steal (R316) -/

/-- The oldest brace of a lane with alternatives left, as its offset and record: from the oldest downward. `none` when there
is none; `some none` when a malformed record is met. -/
def State.oldestBrace (s : State) (g lane : Nat) (G : Gang) : Nat → Nat → Option (Option (Nat × Brace))
  | 0, _ => none
  | fuel + 1, off =>
    if off < G.btOf lane || G.privBytes < off + 96 then none
    else
      let b := s.brace g lane off
      if b.malformed G.tb (G.btOf lane) then some none
      else if 0 < b.remaining then some (some (off, b))
      else if off < 96 then none
      else State.oldestBrace s g lane G fuel (off - 96)

/-- What one search for a victim gave. -/
inductive Victim where
  | none
  | bad (lanes : Word)
  | take (lane off : Nat) (b : Brace)

/-- The victim of the next thief: most remaining alternatives, ties to the lowest lane; or every lane whose record is
malformed (R299). -/
def State.victim (s : State) (g : Nat) (G : Gang) (sl : BitVec 8) : Victim :=
  (lanesOf (G.liveOf sl)).foldl (fun v w =>
    match v, s.oldestBrace g w G 48 (G.privBytes - 96) with
    | .bad l, some .none => .bad (l ||| BitVec.twoPow 32 w)
    | .bad l, _ => .bad l
    | _, some .none => .bad (BitVec.twoPow 32 w)
    | v, .none => v
    | .none, some (some (off, b)) => .take w off b
    | .take l o x, some (some (off, b)) => if x.remaining < b.remaining then .take w off b else .take l o x) .none

/-- Keys of the accesses of a `steal`: of lane t, registers 0 to 15, 16 `bnd`, 17 `alt`, 32 and up the 16-byte pieces of
its program area; lane 32 is `stat`. -/
def stealKey (lane j : Nat) : Nat := lane * 256 + j

/-- One result of a steal, on its way. -/
def stealAcc (lane j size : Nat) (v : BitVec 128) : Nat × Acc :=
  (stealKey lane j, { Acc.mk' lane 0 size 0 0 with st := .performed, ans := v })

/-- The program area that a thief receives: the victim's, with the trail undone down to the mark (R316). -/
def State.stolenArea (s : State) (g t w : Nat) (G : Gang) (b : Brace) : Option State :=
  let s := (List.range (G.tb / 16)).foldl (fun s j => s.privWrite g t (16 * j) 16 (s.privRead g w (16 * j) 16)) s
  State.undoTo g w t G.tb b.mark 256 (G.ttOf w) s

/-- What a steal has done so far: the machine, results on their way, whether work was taken, lanes with a malformed
record. -/
structure Stolen where
  s    : State
  accs : KV Acc
  took : Bool
  stop : Bool
  bad  : Word

/-- One thief's take. -/
def Stolen.take (x : Stolen) (g t : Nat) (G : Gang) (sl : BitVec 8) : Stolen :=
  if x.stop then x
  else
    match x.s.victim g G sl with
    | .none => { x with stop := true }
    | .bad l => { x with stop := true, bad := x.bad ||| l }
    | .take w off b =>
      match x.s.stolenArea g t w G b with
      | none => { x with stop := true, bad := x.bad ||| BitVec.twoPow 32 w }
      | some area =>
        let regs : KV Acc := (List.range 16).filterMap fun j =>
          if b.mask.getLsbD j && decide (j < G.regBound) then some (stealAcc t j 4 ((b.reg.getD j 0).setWidth 128))
          else none
        let mem : KV Acc := (List.range (G.tb / 16)).map fun j =>
          stealAcc t (32 + j) 16 (BitVec.ofNat 128 (area.privRead g t (16 * j) 16))
        let s := x.s.privWrite g w (off + 4) 4 (b.next + 1)
        let s := s.privWrite g w off 4 (b.remaining - 1)
        let s := s.modGang g fun G =>
          { G with
            bt := KV.set G.bt t G.privBytes, tt := KV.set G.tt t G.tb, search := KV.set G.search t .pend }
        { s := s
          accs := x.accs ++ regs ++
            [stealAcc t 16 4 (b.bound.setWidth 128), stealAcc t 17 4 (BitVec.ofNat 128 b.next)] ++ mem
          took := true, stop := false, bad := x.bad }

/-- The thieves of a split (R316). -/
def Gang.thieves (G : Gang) (sl : BitVec 8) : List Nat :=
  (lanesOf (G.liveOf sl)).filter fun i => G.searchOf i == .idle

/-- The takes of every thief in increasing lane order. -/
def State.stealAll (s : State) (g : Nat) (G : Gang) (sl : BitVec 8) : Stolen :=
  (G.thieves sl).foldl (fun x t => x.take g t G sl) { s := s, accs := [], took := false, stop := false, bad := 0 }

/-- The registers that `steal` tests and makes Pending in its thieves. -/
def stealRegs : List Reg := (List.range 16).map (fun j => Reg.ofNum (BitVec.ofNat 8 j)) ++ [.bnd, .alt]

/-- Code of `stat` for a steal (R316). -/
def stealStatus (G : Gang) (sl : BitVec 8) (took : Bool) : Nat :=
  if took then 0 else if (lanesOf (G.liveOf sl)).all fun i => G.searchOf i == .idle then 1 else 2

/-- The results of a steal: for every thief the eighteen registers, those that keep their value with code 1, then the pieces
of its program area, and `stat`. -/
def stealAccs (thieves : List Nat) (taken : KV Acc) (code : Nat) : KV Acc :=
  let keep (t j : Nat) : Nat × Acc :=
    let a := stealAcc t j 4 0
    (a.1, { a.2 with code := 1 })
  let regs := thieves.flatMap fun t => (List.range 18).map (keep t)
  let all := regs ++ taken ++ [stealAcc 32 0 8 (BitVec.ofNat 128 code)]
  all.foldl (fun m p => KV.set m p.1 p.2) []

/-- The register that a result of a steal delivers. -/
def stealReg (j : Nat) : Option Reg :=
  if j < 16 then some (Reg.ofNum (BitVec.ofNat 8 j)) else if j = 16 then some .bnd else if j = 17 then some .alt else none

/-- `steal` (R316): the choice and the victims' braces change at issue; registers, copies and `stat` land at delivery. -/
def execSteal (sm : Bool) (s : State) : Host.Outcome State Fault Refusal :=
  s.issue (.steal sm) sm
    { tests := fun s g _ G sp =>
        let idle := maskOf fun i => (G.thieves sp.slices).contains i
        { o1 := searchProt G
          o4 := G.hazardTest idle stealRegs ++ G.hazardTest 0 [.stat]
          o5 := searchOvf (s.stealAll g G sp.slices).bad }
      before := noWait
      effect := fun s g _ G sp =>
        let x := s.stealAll g G sp.slices
        let thieves := G.thieves sp.slices
        let accs := stealAccs thieves x.accs (stealStatus G sp.slices x.took)
        x.s.modGang g fun H =>
          ((H.pendAll stealRegs thieves H.nextOp).setPending .stat 0 H.nextOp).addOp
            (Op.make .steal (.steal sm) G sp .stat accs) }

/-! ## spawn (R317) -/

/-- The register base of `spawn`: v<n>, n a multiple of 16, or zr, whose record is all zeros (03 R57). -/
def spawnReg (d : Reg) : Bool :=
  match d.vNum with
  | some n => n % 16 == 0
  | none => d.isZ

/-- `spawn` (R317): the split waits until every lane's record is accepted or rejected. -/
def execSpawn (sm : Bool) (d : Reg) (s : State) : Host.Outcome State Fault Refusal :=
  s.issue (.spawn sm d) sm
    { tests := fun _ _ _ G sp =>
        { o1 := searchProt G
          o2 := illreg [(d, 0, spawnReg d)]
          o3 := G.boundTest (d.span 16)
          o4 := G.hazardTest (G.active sp.slices) (d.span 16 ++ [.stat]) }
      before := noWait
      effect := fun s g k G sp =>
        waitEffect .evwait (.spawn (d.vNum.getD noBase) (G.active sp.slices) 0 0) s g k G sp }

end Sys2Proof.Machine
end

