-- ==== Sys2Proof/Machine/Engines.lean ====
section
/-! DEFINITION. The copy engine, queue registers, the gather engine and counter waits (17 R252 to R262), as their
instructions issue and as the engines run. The network engine is in Net.lean. -/

namespace Sys2Proof.Machine

/-! ## cpy (R252 to R255) -/

/-- An even S register s<k>, as `cpy` names one (17 R252). -/
def evenS (r : Reg) : Bool := r.sNum.isSome && r.aligned 2

/-- The second register of an even S register; zr stands for itself (03 R57). -/
def Reg.second (r : Reg) : Reg := if r.isZ then r else r.plus 1

/-- The conditions of R254 on the two ranges of a copy; `none` when it is not refused. -/
def State.copyRefused (s : State) (g : Nat) (G : Gang) (dst src len : Dword) : Option Nat :=
  let n := (len.setWidth 32).toNat
  let more := if len.extractLsb' 32 32 != 0 || overlap dst n src n then [causeRange] else []
  firstCause (s.rangeFault g G dst n ++ s.rangeFault g G src n ++ more)

/-- Lanes of `live` that are not active for the executing split (R252). -/
def Gang.partialLanes (G : Gang) (sl : BitVec 8) : Word := G.live &&& ~~~(G.active sl)

/-- The sequence number after one (R253). -/
def nextSeq (x : BitVec 32) : BitVec 32 := if x = 0xFFFFFFFF#32 then 1 else x + 1

/-- The effect of `cpy`. -/
def State.startCopy (s : State) (g : Nat) (G : Gang) (sp : Split) (i : Instr) (d a b : Reg) : State :=
  let h := G.seq
  let dst := G.opnd64 a
  let src := G.opnd64 (a.plus 1)
  let len := G.opnd64 b
  let G' := { G with seq := nextSeq h }.writeS d (h.setWidth 64)
  match s.copyRefused g G dst src len with
  | some c => s.setGang g (G'.addOp (engineOp sp.ipc i sp.slices (h.setWidth 64) c dst))
  | none =>
    -- a copy of length 0 moves nothing, and completes with the release that it makes (R254, log 35)
    if len = 0 && G.released sp.slices .chip G.nextOp then s.setGang g G'
    else
      let c : Copy :=
        { dst := dst, src := src, len := len.toNat, pc := sp.ipc, word := (encode i).getD 0, slices := sp.slices,
          before := G.nextOp, moved := [], stopped := [], declined := [] }
      let cl (isDst : Bool) (va : Dword) : Clamp :=
        { ctx := G.ctx, gang := g, own := h.toNat, isDst := isDst, lo := va.toNat, len := len.toNat }
      (s.clamp G.core (if len = 0 then [] else [cl true dst, cl false src])).setGang g { G' with copies := KV.set G'.copies h.toNat c }

/-- `cpy` (R252 to R255): it waits before issue as a seventeenth copy, and while the clamp table has not the two entries it
needs (R253; 11 R199). -/
def execCpy (sm : Bool) (d a b : Reg) (s : State) : Host.Outcome State Fault Refusal :=
  s.issue (.cpy sm d a b) sm
    { tests := fun _ _ _ G sp =>
        { o2 := illreg [(d, 0, d.isSDst || d.isZ), (a, 1, evenS a), (b, 2, sSrc b)]
          o4 := G.hazardTest 0 [d, a, a.plus 1, b]
          o5 := if G.partialLanes sp.slices ≠ 0 then [.partialLanes (G.partialLanes sp.slices)] else [] }
      before := fun s g _ G _ =>
        let needs := G.opnd64 b ≠ 0 && (s.copyRefused g G (G.opnd64 a) (G.opnd64 (a.plus 1)) (G.opnd64 b)).isNone
        if 16 ≤ G.copies.length || (needs && decide (s.clampRoom G.core < 2)) then .wait else .go
      effect := fun s g _ G sp => s.startCopy g G sp (.cpy sm d a b) d a b }

/-- `cwait` (R256). -/
def execCwait (sm : Bool) (a : Reg) (s : State) : Host.Outcome State Fault Refusal :=
  s.issue (.cwait sm a) sm
    { tests := fun _ _ _ G _ => { o2 := illreg [(a, 1, sSrc a)], o4 := G.hazardTest 0 [a] }
      before := noWait
      effect := fun s g k G sp => waitEffect .evwait (.cwait (G.copiesNamed (G.opnd64 a).toNat)) s g k G sp }

/-! ## Queue registers (R257, R258) -/

/-- The number of a Q register. -/
def Reg.qIdx (r : Reg) : Fin 8 :=
  match r with
  | .q n => n
  | .v _ | .s _ | .m _ | .zr | .lid | .role | .bnd | .alt | .mode | .stat | .live => 0

/-- A counter base that lies in global memory of the own module or in window 4, aligned to 8 (23 R354). -/
def State.counterOk (s : State) (g : Nat) (G : Gang) (va : Dword) : Bool :=
  va.toNat % 8 = 0 &&
    (match s.locate g G 32 va 8 with
     | .place (.carve _ _) => true
     | .translate => true
     | .place (.hbm _) | .place (.scratch _ _) | .place (.share _ _) | .place (.priv _ _ _) | .place (.reg _)
     | .place (.remote _) | .fault _ => false)

/-- A binding word that raises ILLOP (R257; 23 R354). -/
def State.bindBad (s : State) (g : Nat) (G : Gang) (w base : Dword) : Bool :=
  w.extractLsb' 2 62 != 0 || w.extractLsb' 0 2 == 3 ||
    (w.extractLsb' 0 2 == 2 && (!s.hostif.feat.getLsbD 4 || !s.counterOk g G base))

/-- `qbind` (R257; 23 R354). That its ILLOP is tested at order 5 of Table 3-10 is the model's choice (log 36). -/
def execQbind (sm : Bool) (d a : Reg) (s : State) : Host.Outcome State Fault Refusal :=
  s.issue (.qbind sm d a) sm
    { tests := fun s g _ G _ =>
        { o2 := illreg [(d, 0, d.isQ), (a, 1, evenS a || a.isZ)]
          o4 := G.hazardTest 0 [a, Reg.second a]
          o5 := (illopIf (s.bindBad g G (G.opnd64 a) (G.opnd64 (Reg.second a))) 4).toList }
      before := noWait
      effect := fun s g k G sp =>
        waitEffect .evwait (.qbind (Reg.qIdx d) (G.opnd64 a) (G.opnd64 (Reg.second a))) s g k G sp }

/-- A bound Q register (R258). -/
def Gang.boundQ (G : Gang) (r : Reg) : Bool := r.isQ && (G.queue (Reg.qIdx r).val).engine != 0

/-- `mov q, s`, a push (R258). -/
def execQueuePush (sm : Bool) (d a : Reg) (s : State) : Host.Outcome State Fault Refusal :=
  s.issue (.queuePush sm d a) sm
    { tests := fun _ _ _ G _ =>
        { o2 := illreg [(d, 0, G.boundQ d), (a, 1, sSrc a)], o4 := G.hazardTest 0 [a] }
      before := noWait
      effect := fun s g k G sp =>
        waitEffect .evwait (.push (Reg.qIdx d) (G.opnd64 a) (.queuePush sm d a)) s g k G sp }

/-- The completion that the next pop of a queue register takes: the first to be popped that no Pending pop has (R258). -/
def Gang.nextPop (G : Gang) (q : Nat) : Option Req :=
  let taken := G.ops.flatMap fun p => if p.2.kind = .pop q then p.2.accs.map fun a => a.2.data.toNat else []
  (G.queue q).reqs.find? fun r => r.pops && !taken.contains (r.id + 1)

/-- `mov s, q`, a pop (R258): D and `stat` are Pending; with no request outstanding it delivers 0 with OK. -/
def execQueuePop (sm : Bool) (d a : Reg) (s : State) : Host.Outcome State Fault Refusal :=
  s.issue (.queuePop sm d a) sm
    { tests := fun _ _ _ G _ =>
        { o2 := illreg [(d, 0, d.isSDst || d.isZ), (a, 1, G.boundQ a)], o4 := G.hazardTest 0 [d, .stat] }
      before := noWait
      effect := fun s g _ G sp =>
        let q := (Reg.qIdx a).val
        let acc := match G.nextPop q with
          | some r => { Acc.mk' 32 0 8 (BitVec.ofNat 128 (r.id + 1)) 0 with st := .waiting }
          | none => { Acc.mk' 32 0 8 0 0 with st := .performed }
        s.setGang g ((G.pendAll [d, .stat] [0] G.nextOp).addOp (Op.make (.pop q) (.queuePop sm d a) G sp d [(64, acc)])) }

/-! ## nwait (R261) -/

/-- `nwait` (R261): the threshold stands in the access. -/
def execNwait (sm : Bool) (d a : Reg) (s : State) : Host.Outcome State Fault Refusal :=
  s.issue (.nwait sm d a) sm
    { tests := fun _ _ _ G _ =>
        { o2 := illreg [(d, 0, sSrc d), (a, 1, sSrc a)], o4 := G.hazardTest 0 [d, a] }
      before := fun s _ _ G sp => memWait s G sp [G.opnd64 d]
      effect := fun s g k G sp =>
        let va := G.opnd64 d
        let acc := Acc.mk' 32 va 8 ((G.opnd64 a).setWidth 128) 0
        let acc :=
          if va.toNat % 8 ≠ 0 then { acc with st := .fault causeAlign }
          else if !s.counterOk g G va then { acc with st := .fault causeWindow }
          else s.letIn g G sp.slices OpKind.nwait.need acc
        s.setGang g ((G.addOp (Op.make .nwait (.nwait sm d a) G sp .zr [(64, acc)])).setSplit k
          { sp with st := .evwait, wait := .nwait G.nextOp }) }

/-! ## The copy engine runs -/

/-- Wakes every gang on a core: clamp entries have been freed (11 R199). -/
def State.wakeCore (s : State) (core : Nat) : State :=
  s.gangs.foldl (fun s p => if p.2.core = core then s.wake p.1 else s) s

/-- The progress of a copy. -/
def Copy.progress (c : Copy) : Progress := { moved := c.moved, stopped := c.stopped, declined := c.declined }

/-- Bytes j to j + n - 1 moved, those apart that a fault stops; destination blocks that the bytes moved cover whole lose their
old marks (17 R290). -/
def State.engineMove (s : State) (g : Nat) (G : Gang) (src dst : Dword) (p : Progress) (j n : Nat) :
    Plan (List Nat × List Nat) × State :=
  let (P, s) := s.plan (fun s i => s.enginePair g G (src + BitVec.ofNat 64 i) (dst + BitVec.ofNat 64 i) 1) 1 p j n
  let s := s.clearWritten dst (P.items.flatMap fun x => x.2.2.map fun k => (x.1, k))
  (P, P.items.foldl (fun s x => s.putBytesAt G.core x.2) s)

/-- COPY_ENGINE_RUN (R255): bytes j to j + n - 1 of an outstanding copy, once the release of the accesses before it has
completed (11 R191). Bytes that fault are recorded for the device OS (R262). -/
def execCopyEngineRun (g h j n : Nat) (s : State) : Host.Outcome State Fault Refusal :=
  s.event
    (match s.onChip g with
     | none => none
     | some G =>
       match KV.find G.copies h with
       | none => none
       | some c =>
         if c.len < j + n || !G.released c.slices .chip c.before then none
         else
           let (P, s) := s.engineMove g G c.src c.dst c.progress j n
           let c' := { c with moved := P.prog.moved, stopped := P.prog.stopped, met := lowestMet c.met P.met }
           let s := s.modGang g fun G => { G with copies := KV.set G.copies h c' }
           some (match P.met with
             | none => s
             | some x => s.askOs g G h c.pc c.word c.slices (BitVec.ofNat 64 h) x.2))

/-- COPY_COMPLETE (R255, R262): the clamp entries are removed, then the copy is complete; a declined byte makes an ENGINE
fault, reported after its completion wait. -/
def execCopyComplete (g h : Nat) (s : State) : Host.Outcome State Fault Refusal :=
  s.event
    (match s.onChip g with
     | none => none
     | some G =>
       match KV.find G.copies h with
       | none => none
       | some c =>
         if !ivlCovers c.len c.moved [] c.declined || !G.released c.slices .chip c.before then none
         else
           let s := s.unclamp G.core g h
           let va := c.at_.getD c.dst
           let s := s.modGang g fun G =>
             let G := { G with copies := KV.del G.copies h }
             if c.declined.isEmpty then G
             else G.addOp
               { engineOp c.pc (instrOf c.word) c.slices (BitVec.ofNat 64 h) causeEngine va with held := true }
           some (s.wakeCore G.core))

/-! ## The gather engine runs (R259, R260) -/

/-- One element of a gather: performed whole, or stopped by the first fault that its index, the element of the table or its
destination meets. -/
def State.gatherElem (s : State) (g : Nat) (G : Gang) (base : Dword) (t : Gather) (j : Nat) : Found Unit :=
  match s.engineRead g G (t.index + BitVec.ofNat 64 (4 * j)) 4 with
  | (.inr x, s) => (.inr x, s)
  | (.inl l, s) =>
    let src := base + BitVec.ofNat 64 (t.size * leNat l)
    let dst := t.dst + BitVec.ofNat 64 (t.size * j)
    match s.enginePair g G src dst t.size with
    | (.inr x, s) => (.inr x, s)
    | (.inl x, s) => (.inl (), s.putBytesAt G.core x)

/-- The requests of a gather binding that the engine works on. -/
def QReg.running (Q : QReg) : List Req := Q.reqs.filter fun r => r.st == .queued

/-- Replaces a request of a queue register of a gang. -/
def State.setReq (s : State) (g q id : Nat) (f : Req → Req) : State :=
  s.modGang g fun G => G.setQueue q ((G.queue q).setReq id f)

/-- GATHER_RUN (R260): element j mod 65,536 of the request number ⌊j / 65,536⌋ among those being performed. -/
def execGatherRun (g q j : Nat) (s : State) : Host.Outcome State Fault Refusal :=
  s.event
    (match s.onChip g with
     | none => none
     | some G =>
       let Q := G.queue q
       match Q.running[j / 65536]? with
       | none => none
       | some r =>
         let t := gatherOf r.tag r.words
         let e := j % 65536
         let p : Progress := { moved := r.moved, stopped := r.stopped, declined := r.declined }
         if Q.engine ≠ 1 || t.count ≤ e || !p.open_ e || !G.released r.slices .chip r.before then none
         else
           match s.gatherElem g G Q.base t e with
           | (.inl _, s) => some (s.setReq g q r.id fun r => { r with moved := ivlAdd r.moved e (e + 1) })
           | (.inr x, s) =>
             some ((s.setReq g q r.id fun r =>
               { r with stopped := ivlAdd r.stopped e (e + 1), met := lowestMet r.met (some (e, x)) }).askReq g G r x))

/-- GATHER_COMPLETE (R260): the clamp entries are removed before the pop can deliver (11 R201). -/
def execGatherComplete (g q : Nat) (s : State) : Host.Outcome State Fault Refusal :=
  s.event
    (match s.onChip g with
     | none => none
     | some G =>
       let Q := G.queue q
       match Q.running.find? fun r => ivlCovers (gatherOf r.tag r.words).count r.moved [] r.declined with
       | none => none
       | some r =>
         if Q.engine ≠ 1 then none
         else
           let fault := if r.declined.isEmpty then none else r.fault
           let s := s.unclamp G.core g (reqOwner r.id)
           some ((s.setReq g q r.id fun r => { r with st := .done, fault := fault }).wakeCore G.core))

/-! ## The device OS answers engine faults (R262) -/

/-- Cells of a range of keys become EMPTY (11 R203). -/
def Memory.emptyCells (m : Memory) (key n : Nat) : Memory :=
  { m with full := m.full.filter fun c => decide (8 * c < key) || decide (key + n ≤ 8 * c) }

/-- The physical ranges that the leaves of a table of a level and of the tables below it map (17 R287). -/
def State.leavesOf (s : State) : Nat → Nat → List (Nat × Nat)
  | 0, table => (s.tableEntries table).filterMap fun i => leafRange 0 (s.pte table i)
  | l + 1, table =>
    (s.tableEntries table).flatMap fun i =>
      let e := s.pte table i
      if e % 2 = 1 && !pteMalformed (l + 1) e && e / 2 % 2 = 0 then s.leavesOf l (e / 2 ^ 12 % 2 ^ 40 * 2 ^ 12)
      else (leafRange (l + 1) e).toList

/-- The physical ranges that a created context maps. -/
def State.mappedRanges (s : State) : List (Nat × Nat) :=
  s.ctxs.flatMap fun p => if p.2.created then s.leavesOf 3 p.2.root else []

/-- Cells of a range of keys that no context mapped before become EMPTY (11 R203). -/
def Memory.emptyNew (m : Memory) (old : List (Nat × Nat)) (r : Nat × Nat) : Memory :=
  { m with full := m.full.filter fun c =>
      decide (8 * c < r.1) || decide (r.1 + r.2 ≤ 8 * c) || old.any fun o => decide (o.1 ≤ 8 * c) && decide (8 * c < o.1 + o.2) }

/-- Writes an entry of the page tables (17 R289: the TLBs do not follow). Memory that it maps and that nothing mapped before holds
EMPTY cells (11 R203). Wait events whose counter the entry overlaps are tested (21 R324). -/
def State.writeEntry (s : State) (w : PteWrite) : State :=
  let key := w.addr / 8 * 8 % 2 ^ 52
  let t : State := { s with mem := s.mem.store key 8 w.val.toNat }
  let old := s.mappedRanges
  let new := t.mappedRanges.filter fun r => !old.contains r
  ({ t with mem := new.foldl (fun m r => m.emptyNew old r) t.mem } : State).testWaits

/-- Writes entries of the page tables. -/
def State.writeTables (s : State) (tbl : List PteWrite) : State := tbl.foldl State.writeEntry s

/-- The queue register and request that an engine fault names. -/
def Gang.reqNamed (G : Gang) (h : Nat) : Option (Nat × Req) :=
  G.queues.findSome? fun p => (p.2.reqs.find? fun r => reqOwner r.id == h).map fun r => (p.1, r)

/-- Reads a gather request whose read had faulted, again (R260). -/
def State.rereadReq (s : State) (g q : Nat) (r : Req) : Option State :=
  match s.gang g with
  | none => none
  | some G =>
    match s.engineRead g G r.tag 32 with
    | (.inr at_, s) => some (s.askReq g G r at_)
    | (.inl bytes, s) =>
      let (r, cl) := s.gatherRead g G r bytes
      if s.clampRoomOf G < cl.length then none
      else
        let s := (s.clamp G.clampCore cl).setReq g q r.id fun _ => r
        some ((s.modGang g fun G => G.refusal r.pc (instrOf r.word) r.slices r).wake g)

/-- ENGINE_FAULT_MAP (R262, R260): the stopped elements are tried again, those of a saved gang once it is restored (R284). -/
def execEngineFaultMap (g h : Nat) (tbl : List PteWrite) (s : State) : Host.Outcome State Fault Refusal :=
  s.event
    (let s := s.writeTables tbl
     match s.gang g with
     | none => none
     | some G =>
       match KV.find G.copies h with
       | some c =>
         if c.stopped.isEmpty then none
         else some (s.setGang g { G with copies := KV.set G.copies h { c with stopped := [], met := none } })
       | none =>
         match G.reqNamed h with
         | none => none
         | some (q, r) =>
           if r.st == .reading then s.rereadReq g q r
           else if r.stopped.isEmpty then none
           else some (s.setReq g q r.id fun r => { r with stopped := [], met := none }))

/-- Adds the ranges of a list to a list. -/
def ivlAll (l m : List (Nat × Nat)) : List (Nat × Nat) := m.foldl (fun l p => ivlAdd l p.1 p.2) l

/-- The address that the lowest stopped element of a request of a queue register met. -/
def State.reqStopAt (s : State) (Q : QReg) (r : Req) : Dword :=
  match r.met with
  | some x => x.2
  | none => s.netAt Q r ((r.stopped.head?.map Prod.fst).getD 0)

/-- A copy whose stopped bytes the device OS has declined: the fault names what the lowest of them met. -/
def Copy.decline (c : Copy) : Copy :=
  { c with
    stopped := [], declined := ivlAll c.declined c.stopped, at_ := some (c.at_.getD ((c.met.map Prod.snd).getD c.dst))
    met := none }

/-- ENGINE_FAULT_DECLINE (R262, R260): the stopped elements stay unperformed; a request that could not be read is done. -/
def execEngineFaultDecline (g h : Nat) (s : State) : Host.Outcome State Fault Refusal :=
  s.event
    (match s.gang g with
     | none => none
     | some G =>
       match KV.find G.copies h with
       | some c =>
         if c.stopped.isEmpty then none
         else
           some (s.setGang g { G with copies := KV.set G.copies h c.decline })
       | none =>
         match G.reqNamed h with
         | none => none
         | some (q, r) =>
           if r.st == .reading then
             some ((s.setReq g q r.id fun r => { r with st := .done, fault := some (causeEngine, r.tag) }).wake g)
           else if r.stopped.isEmpty then none
           else
             let at_ := s.reqStopAt (G.queue q) r
             some (s.setReq g q r.id fun r =>
               { r with
                 stopped := [], declined := ivlAll r.declined r.stopped, met := none
                 fault := if r.fault.isSome then r.fault else some (causeEngine, at_) }))

end Sys2Proof.Machine
end

