-- ==== Sys2Proof/Machine/Kill.lean ====
section
/-! DEFINITION. The kill of a context (17 R285, steps 1 to 4; 11 R207; 23 R345) and completion records (23 R348). -/

namespace Sys2Proof.Machine

/-! ## Host queues and completion rings -/

/-- The key of host queue q of context c. -/
def hqKey (c q : Nat) : Nat := c * 32 + q

/-- The registers of a host queue. -/
def State.hostQueue (s : State) (c q : Nat) : HostQueue := KV.get s.hostif.queues (hqKey c q) HostQueue.init

/-- Replaces the registers of a host queue. -/
def State.setHostQueue (s : State) (c q : Nat) (Q : HostQueue) : State :=
  { s with hostif := { s.hostif with queues := KV.set s.hostif.queues (hqKey c q) Q } }

/-- The registers of a completion ring. -/
def State.compRing (s : State) (c : Nat) : CompRing := KV.get s.hostif.rings c CompRing.init

/-- Replaces the registers of a completion ring. -/
def State.setCompRing (s : State) (c : Nat) (R : CompRing) : State :=
  { s with hostif := { s.hostif with rings := KV.set s.hostif.rings c R } }

/-- Adds a completion record, in the order in which completions occur (23 R348). -/
def State.complete (s : State) (c q : Nat) (head : Word) (status : Nat) : State :=
  let R := s.compRing c
  s.setCompRing c
    { R with waiting := R.waiting ++
        [{ head := head, queue := q, status := status, inc := (s.ctx c).inc, strike := s.strike.toNat }] }

/-- Status codes of a completion record (23 Table 23-5). -/
def compOk : Nat := 0
def compMalformed : Nat := 1
def compBadLaunch : Nat := 2
def compKilled : Nat := 3
def compFault : Nat := 4

/-- KILLED completions for n records from head (23 R345). -/
def State.killRecords (s : State) (c q : Nat) (head : Word) : Nat → State
  | 0 => s
  | n + 1 => (s.killRecords c q head n).complete c q (head + BitVec.ofNat 32 n) compKilled

/-- Clears a queue of a killed context (23 R345): a copy in progress and every record not taken completes with KILLED; a
queue stopped with reason 1 has no slot read. -/
def State.killQueue (s : State) (c q : Nat) : State :=
  let Q := s.hostQueue c q
  let s := match Q.copy with
    | some (_, head) => s.complete c q head compKilled
    | none => s
  let s := if Q.stopped && Q.reason = 1 then s else s.killRecords c q Q.head (Q.tail - Q.head).toNat
  s.setHostQueue c q { Q with head := Q.tail, copy := none, stopped := false, reason := 0 }

/-! ## Kill (17 R285) -/

/-- What stands of a killed gang's requests: future reads and requests that wait at their home are removed (11
Table 11-4). -/
def Gang.standing (G : Gang) (left : Bool) : KV Op :=
  (G.orphanOps left).filterMap fun p =>
    let accs := p.2.accs.filter fun q => !p.2.kind.withdrawn || (p.2.kind = .rclaim && q.2.st != .waiting)
    if accs.isEmpty then none else some (p.1, { p.2 with accs := accs })

/-- A gang that is killed: it issues nothing, what has left the core stands. -/
def Gang.killed (G : Gang) (left : Bool) : Gang :=
  { G with
    st := .killed, live := 0, splits := [], trap := none, held := [], pend := [], ops := G.standing left, copies := []
    queues := [] }

/-- Kills the gangs of a context, and breaks the rings whose claims they have not committed (13 R228). What waits at other modules
is withdrawn there (11 Table 11-4). -/
def State.killGangs (s : State) (c : Nat) : State :=
  let left := Config.freeChoice s.fresh % 2 = 1
  s.gangs.foldl (fun s p =>
    if p.2.ctx = c && p.2.st != .killed then
      (((s.withdrawFar p.1).modGang p.1 fun G => G.killed left).l1Forget p.2.core (p.2.lostStores left)).breakRings p.1
    else s) s.tick

/-- Removes the clamp entries of a context on every core (11 Table 11-4). -/
def State.unclampCtx (s : State) (c : Nat) : State :=
  { s with cores := s.cores.map fun p => (p.1, { p.2 with clamps := p.2.clamps.filter fun e => e.ctx != c }) }

/-- The context that a received packet's job names (23 R349). -/
def State.jobCtx (s : State) (job : BitVec 16) : Option Nat :=
  (s.ctxs.find? fun p => p.2.job == some job && p.2.st != .free).map Prod.fst

/-- The context of a request held at a home. -/
def State.deferredCtx (s : State) (d : Deferred) : Option Nat :=
  match d.ext with
  | some p => s.jobCtx p.job
  | none => (s.gang d.g).map Gang.ctx

/-- Launches of a context, killed: those of the host complete with KILLED (23 R348). -/
def State.killLaunches (s : State) (c : Nat) : State :=
  s.launches.foldl (fun s p =>
    if p.2.ctx = c && !p.2.completed then
      let s := { s with launches := KV.set s.launches p.1 { p.2 with completed := true } }
      match p.2.host with
      | some (q, head) => s.complete c q head compKilled
      | none => s
    else s) s

/-- Discards saved groups, with their gangs (17 R285, step 2). -/
def State.dropSaved (s : State) (c : Nat) : State :=
  let dead := (s.groups.filter fun p => p.2.ctx = c && p.2.saved).map Prod.fst
  { s with
    groups := s.groups.filter fun p => !dead.contains p.1
    gangs := s.gangs.filter fun p => !dead.contains p.2.group }

/-- The queues of a context with no unit (17 R285, step 2; 19 R320). -/
def Ctx.clearUnits (C : Ctx) : Ctx := { C with queues := C.queues.map fun p => (p.1, { p.2 with units := [] }) }

/-- A kill of a context (17 R285, steps 1 to 4; 17 R282: in any state but FREE and KILLING). Ridge offers that were issued
stand (19 R304, Table 19-8). -/
def State.killContext (s : State) (c : Nat) : State :=
  let C := s.ctx c
  if C.st = .free || C.st = .killing then s
  else
    let s := s.setCtx c { C.clearUnits with st := .killing, restore := false }
    let s := s.killGangs c
    let s := s.withdrawHeld fun d => s.deferredCtx d == some c
    let s := { s with removals := s.removals.filter fun r => r.ctx != c }
    let s := s.unclampCtx c
    let s := s.killLaunches c
    let s := s.dropSaved c
    let s := (List.range 32).foldl (fun s q => s.killQueue c q) s
    s.gangs.foldl (fun s p => s.wake p.1) s

/-- A kill for an error of level 4, with its record (25 Table 25-5). -/
def State.killFor (s : State) (c source loc pa : Nat) : State :=
  (s.logErr 4 source loc pa (some c) 0).killContext c

/-- A kill for poison that a table walk of a context, or the home of a ring, has read at a key (25 Table 25-5). -/
def State.killPoison (s : State) (c key : Nat) : State := s.killFor c (poisonSource key) (s.blockLoc (poisonSource key) key) (blockPa key)

/-- Requests leave the homes that hold them; where the control block of a ring reads as poison as those behind them are to be
served, the contexts of those are killed (25 Table 25-5). -/
def State.withdrawAt (s : State) (out : Deferred → Bool) : State :=
  let keys := ((s.deferred.filter out).filter fun d => d.ringWaiter.isSome).map Deferred.key
  let s := s.withdrawHeld out
  keys.foldl (fun s key =>
    if s.mem.poisoned key 64 then
      ((s.heldOn key).filterMap s.deferredCtx).foldl (fun s c =>
        if (s.ctx c).st = .killing then s
        else s.killPoison c key) s
    else s) s

end Sys2Proof.Machine
end

