-- ==== Sys2Proof/Machine/Faults.lean ====
section
/-! DEFINITION. Held memory faults: replay (17 R276), their end without replay (17 R269), the device OS's answers (17 R275,
R277), fetch faults (17 R278), and the delivery of results and acknowledgements (01 R32, 11 R185). -/

namespace Sys2Proof.Machine

/-! ## Ending held faults (R269, step 3) -/

/-- Clears Pending of the registers that an instruction makes Pending, in the lanes of a list or, for registers held once,
when lane 32 is listed. -/
def Gang.clearPend (G : Gang) (o : Nat) (lanes : List Nat) : Gang :=
  { G with pend := G.pend.filter fun p =>
      !(p.2 == o &&
        (if (Reg.ofNum (BitVec.ofNat 8 (p.1 / 32))).isV then lanes.contains (p.1 % 32) else true)) }

/-- Removes an instruction. -/
def Gang.endOp (G : Gang) (o : Nat) : Gang := { G with ops := KV.del G.ops o }

/-- Ends the held faults of one instruction in the lanes of the slices `sl`: the faulting accesses are never performed. A matrix
instruction ends whole. -/
def Gang.endFault (G : Gang) (sl : BitVec 8) (o : Nat) : Gang :=
  match KV.find G.ops o with
  | none => G
  | some op =>
    if op.mat.isSome then (G.clearPend o lanes32).endOp o
    else
      let G := G.clearPend o ((G.within sl op).badAccs.map fun p => p.2.lane)
      let unbound := G.binds.filter fun b => b.2.isSome || !op.accs.any fun p => p.2.va == b.1
      let G := if op.kind = .rbind then { G with binds := unbound } else G
      -- a fault in any part of an `rwr` means that its counter is not changed (13 R232)
      let rest := op.accs.filter fun p =>
        !(p.2.st.isFault && G.owns sl p.2) && !(op.kind = .rwr && p.1 = counterKey && p.2.st != .performed)
      if rest.isEmpty then G.endOp o else { G with ops := KV.set G.ops o { op with accs := rest } }

/-- Ends every fault that a trap's records name, in the lanes of the split that trapped. -/
def Gang.endFaults (G : Gang) (sl : BitVec 8) (recs : List FaultRec) : Gang :=
  recs.foldl (fun G r => G.endFault sl r.op) G

/-! ## Replay (R276) -/

/-- The lowest window that an access of an instruction may address beyond the two of the core (13 R213, R219, R223, R232,
R233). -/
def OpKind.lowWindow (k : OpKind) (key : Nat) : Nat :=
  match k with
  | .load | .store | .atomic _ _ _ => 2
  | .rwr => if key = counterKey then 4 else 2
  | .fwr | .frd _ | .rclaim | .rcommit | .rawait | .rretire | .rbind | .rwait | .nwait => 4
  | .calc | .rrd _ | .steal | .pop _ | .matrix | .format | .fetch | .engine _ => 8

/-- Data and counter of an `rwr` lie on two modules (13 R232). -/
def Op.twoModules (op : Op) (node : BitVec 12) : Bool :=
  match op.kind, KV.find op.accs counterKey with
  | .rwr, some c => op.accs.any fun p => nodeOf node p.2.va != nodeOf node c.va
  | _, _ => false

/-- A trailed store, whose faults depend on nothing that changes: its offset, its size and the trail base (19 R311). -/
def Op.isStt (op : Op) : Bool :=
  match op.instr with
  | .sttb _ _ _ _ | .stth _ _ _ _ | .stt _ _ _ _ => true
  | _ => false

/-- A fault that the replay of its access meets again whatever has changed: alignment, the windows of the core, data and
counter on two modules, those of a trailed store. -/
def Op.lasting (op : Op) (node : BitVec 12) (key : Nat) (a : Acc) : Bool :=
  match a.st with
  | .fault c =>
    op.isStt || c = causeAlign || (c = causeNode && op.twoModules node) ||
      (c = causeWindow &&
        (match localWindow a.va with
         | some w => decide (w < op.kind.lowWindow key)
         | none => true))
  | .xlate | .ready | .waiting | .refused | .sent _ | .performed => false

/-- What an access does as it becomes ready: a load may be answered in the core, a store updates the L1 copy, a request
invalidates it (11 R182, R183). -/
def State.nowReady (s : State) (g o k : Nat) : State :=
  match s.gang g with
  | none => s
  | some G =>
    match G.acc o k with
    | none => s
    | some (op, a) =>
      match op.kind with
      | .load => s.setGang g (G.setAcc o k (s.loadNow G a))
      | .store => s.l1Stores G.core [(k, a)]
      | .atomic _ _ _ | .fwr | .frd _ | .rclaim | .rcommit | .rawait | .rretire | .rbind | .rwr | .rwait =>
        if a.st = .ready then s.l1Drops G.core [(k, a)] else s
      | .calc | .rrd _ | .steal | .pop _ | .matrix | .format | .fetch | .engine _ | .nwait => s

/-- Issues one access of a replayed instruction again. -/
def State.readmit (s : State) (g o k : Nat) : State :=
  match s.gang g with
  | none => s
  | some G =>
    match G.acc o k with
    | none => s
    | some (op, a) =>
      if op.kind = .nwait && !s.counterOk g G a.va then s.setGang g (G.setAcc o k { a with st := .fault causeWindow })
      else (s.setGang g (G.setAcc o k (s.letIn g G op.slices op.kind.need a))).nowReady g o k

/-- A replayed `rbind` whose binding was the fifth is tested again (13 R229). -/
def State.rebind (s : State) (g o k : Nat) (a : Acc) : State :=
  match s.gang g with
  | none => s
  | some G =>
    if G.binds.any fun b => b.1 == a.va then s.setGang g (G.dropAcc o k)
    else if 4 ≤ G.binds.length then s
    else (s.setGang g { G with binds := G.binds ++ [(a.va, none)] }).readmit g o k

/-- Replays a matrix instruction: its reads are made again, at once or once the stores before them are acknowledged; one that met
QUAD is issued again and waits again (15 R247, R249). -/
def State.rematrix (s : State) (g o : Nat) (op : Op) (m : Mat) : State :=
  let again := op.badAccs.any fun p => p.2.st.cause = causeQuad
  let m := { m with reread := true }
  let m := if again then { m with waited := some 0, quarters := [] } else m
  let s := s.modGang g fun G => { G with ops := KV.set G.ops o { op with accs := [], mat := some m } }
  (s.reread g o).getD s

/-- Replays one instruction in its faulting lanes. -/
def State.replayOp (s : State) (g o : Nat) : State :=
  match (s.gang g).bind fun G => KV.find G.ops o with
  | none => s
  | some op =>
    match op.mat with
    | some m => s.rematrix g o op m
    | none =>
      match op.kind with
      | .format | .fetch | .engine _ => s.modGang g fun G => { G with ops := KV.del G.ops o }
      | .rbind =>
        op.badAccs.foldl (fun s p =>
          if op.lasting s.node p.1 p.2 then s
          else if p.2.st.cause = causeRing then s.rebind g o p.1 p.2
          else s.readmit g o p.1) s
      | .load | .store | .atomic _ _ _ | .fwr | .frd _ | .rclaim | .rcommit | .rawait | .rretire | .rwr | .rwait | .calc
      | .rrd _ | .steal | .pop _ | .matrix | .nwait =>
        (op.badAccs.filter fun p => !op.lasting s.node p.1 p.2).foldl (fun s p => s.readmit g o p.1) s

/-- Clears the faults of instructions so that the page rule of R272 begins anew; lasting ones stay. -/
def Gang.reopen (G : Gang) (node : BitVec 12) (sl : BitVec 8) (os : List Nat) : Gang :=
  { G with ops := G.ops.map fun p =>
      if os.contains p.1 && p.2.mat.isNone && p.2.kind != .rbind then
        (p.1, { p.2 with accs := p.2.accs.map fun q =>
          if q.2.st.isFault && G.owns sl q.2 && !p.2.lasting node q.1 q.2 then (q.1, { q.2 with st := .xlate }) else q })
      else p }

/-- Issues the accesses of an instruction that `reopen` opened: those listed. -/
def State.readmitAll (s : State) (g o : Nat) (ks : List Nat) : State := ks.foldl (fun s k => s.readmit g o k) s

/-- Replays instructions in program order, in the lanes of the slices `sl` (R276). -/
def State.replay (s : State) (g : Nat) (sl : BitVec 8) (os : List Nat) : State :=
  match s.gang g with
  | none => s
  | some G =>
    let plan := os.filterMap fun o => (KV.find G.ops o).map fun op =>
      (o, op, ((G.within sl op).badAccs.filter fun p => !op.lasting s.node p.1 p.2).map Prod.fst)
    let s := s.setGang g (G.reopen s.node sl os)
    plan.foldl (fun s p =>
      if p.2.1.mat.isNone && p.2.1.kind != .rbind && p.2.1.kind != .format && p.2.1.kind != .fetch &&
          p.2.1.kind.isEngine.isNone
      then s.readmitAll g p.1 p.2.2 else s.replayOp g p.1) s

/-- A parked split goes on with the wait at whose report point it parked. -/
def Split.unpark (sp : Split) : Split :=
  let w := sp.wait.restart
  let st := match w with
    | .cwait _ | .nwait _ => SplitState.evwait
    | .none | .marker | .acq _ | .rel _ | .fence _ | .fenceAcq _ | .fsc _ | .fscEdge _ _ | .fscAcq _ | .exit | .barRel _ _ _ _
    | .bar _ | .regang | .claim _ | .give _ | .op _ | .yield _ _ | .push _ _ _ | .reqRead _ _ | .qbind _ _ _ | .sysc _ _
    | .spawn _ _ _ _ | .bleave | .acqQuiet _ | .tcfg _ | .quad => SplitState.segwait
  { sp with st := st, wait := w, recs := [], toOs := false, fetch := false, answer := none }

/-! ## The beginning of a save (17 R281, R283) -/

/-- A group that is on its core. -/
def Group.resident (G : Group) : Bool := !G.retired && !G.saved

/-- The resident groups that are saved together: a frame, or one group (Table 17-12). -/
def State.saveUnit (s : State) (gr : Nat) (G : Group) : List (Nat × Group) :=
  match G.frame with
  | some f => s.groups.filter fun p => p.2.frame == some f && p.2.resident
  | none => [(gr, G)]

/-- A group holds a gang in FAULTPARK. -/
def State.holdsParked (s : State) (G : Group) : Bool :=
  G.gangs.any fun g => match s.gang g with
    | some H => H.splits.any fun p => p.2.st == .faultpark
    | none => false

/-- Withdraws the waiting requests of a gang: they are to be sent again. -/
def Gang.withdraw (G : Gang) : Gang :=
  { G with ops := G.ops.map fun p =>
      if p.2.kind.withdrawn then
        (p.1, { p.2 with accs := p.2.accs.map fun q =>
          (q.1, if q.2.st = .waiting then { q.2 with st := .refused } else q.2) })
      else p }

/-- The first steps of a save: the groups stop issuing, and their waiting requests are withdrawn, from the own homes and from other
modules; those behind them at a ring are served (13 R222, R226). -/
def State.beginSave (s : State) (unit : List (Nat × Group)) : State :=
  unit.foldl (fun s p =>
    let s := s.modGroup p.1 fun G => { G with saving := true }
    let s := p.2.gangs.foldl (fun s g => (s.modGang g Gang.withdraw).withdrawFar g) s
    s.withdrawAt fun d => d.ext.isNone && p.2.gangs.contains d.g) s

/-- A gang of a DRAINING context that stands in FAULTPARK is fault-saved with its unit (Table 17-12), also when the device OS
answers before the save has begun. -/
def State.parkSave (s : State) (G : Gang) : State :=
  match s.group G.group with
  | none => s
  | some gr => if (s.ctx G.ctx).st = .draining && gr.resident && !gr.saving then s.beginSave (s.saveUnit G.group gr) else s

/-! ## The device OS's answers (R275) -/

/-- A split whose report awaits the device OS. -/
def State.parked (s : State) (g k : Nat) : Option (Gang × Split) :=
  match s.gang g with
  | none => none
  | some G =>
    match KV.find G.splits k with
    | none => none
    | some sp => if sp.st = .faultpark && sp.toOs then some (G, sp) else none

/-- A parked split of a gang on the chip replays its report (R276). -/
def State.replaySplit (s : State) (g k : Nat) (G : Gang) (x : Split) : State :=
  ((s.setGang g (G.setSplit k x.unpark)).replay g x.slices ((G.reportOps x.slices).map Prod.fst)).wake g

/-- The group of a gang is being saved, or is saved: what its device OS answers takes effect once it is restored (R284, Table
17-13), and requests that have been withdrawn stay so (13 R222, R226). -/
def State.saving (s : State) (g : Nat) : Bool :=
  match (s.gang g).bind fun G => s.group G.group with
  | some gr => gr.saving || gr.saved
  | none => false

/-- An answer of the device OS to a split of a gang that is saved, or is being saved, is kept for the restore (R284, Table
17-13). -/
def State.keepAnswer (s : State) (g k : Nat) (G : Gang) (x : Split) (replay : Bool) : State :=
  s.setGang g (G.setSplit k { x with answer := some replay })

/-- Acts on the answer that a split of a restored gang was given while it was saved (R284). -/
def State.answerSplit (s : State) (g k : Nat) : State :=
  match s.gang g with
  | none => s
  | some G =>
    match KV.find G.splits k with
    | none => s
    | some x =>
      match x.answer with
      | none => s
      | some true => s.replaySplit g k G x
      | some false => s.deliverFaults g k

/-- The device OS's answer to a parked split: REPLAY (R276) or DELIVER (R277), of a gang that is saved or being saved once its
group is restored (R284, Table 17-13). -/
def State.osAnswer (s : State) (g sp : Nat) (replay : Bool) : Option State :=
  match (s.parked g sp).bind fun p => (s.parkSave p.1).parked g sp with
  | none => none
  | some (G, x) =>
    let s := s.parkSave G
    if s.saving g then (if x.answer.isNone then some (s.keepAnswer g sp G x replay) else none)
    else if G.st = .resident || G.st = .trap then
      some (if replay then s.replaySplit g sp G x else s.deliverFaults g sp)
    else none

/-- FAULT_REPLAY (R275, R276), with the page-table entries that the device OS has written. -/
def execFaultReplay (g sp : Nat) (tbl : List PteWrite) (s : State) : Host.Outcome State Fault Refusal :=
  s.event (if (s.parked g sp).isNone then none else (s.writeTables tbl).osAnswer g sp true)

/-- FAULT_DELIVER (R275, R277). -/
def execFaultDeliver (g sp : Nat) (s : State) : Host.Outcome State Fault Refusal := s.event (s.osAnswer g sp false)

/-! ## Fetch faults (R278) -/

/-- A split that may issue: READY, in a resident gang, or the trapping split of a gang in TRAP (01 R28). -/
def Gang.mayIssue (G : Gang) (k : Nat) (sp : Split) : Bool :=
  sp.st = .ready &&
    (G.st = .resident || (G.st = .trap && (G.trap.map TrapRegs.split) = some k))

/-- The cause with which a fetch faults: by a TLB entry, or by the walk that its miss started. -/
def State.fetchCause (s : State) (G : Gang) (pc : Dword) : Option Nat :=
  match s.fetch G pc with
  | .fault c => some c
  | .miss =>
    match s.walk G.ctx pc with
    | .fault c => some c
    | .leaf l => if l.x then none else some causePerm
    | .poison _ => none
  | .word _ | .poison _ => none

/-- INSTRUCTION_FETCH_FAULT (R278): the fault is held and the split waits as at a report point. -/
def execInstructionFetchFault (g sp : Nat) (s : State) : Host.Outcome State Fault Refusal :=
  s.event
    (match s.gang g with
     | none => none
     | some G =>
       match KV.find G.splits sp with
       | none => none
       | some x =>
         if !G.mayIssue sp x then none
         else (s.fetchCause G x.pc).map fun c => s.holdFault g sp .fetch (.nop false) x x.pc c)

/-! ## Delivery of results (01 R32) -/

/-- Delivers bytes of a load into the registers of its half of the span (07 R150, R152). -/
def Gang.deliverLoad (G : Gang) (op : Op) (o k : Nat) (a : Acc) : Gang :=
  let size := match op.instr with
    | .ldq _ _ _ _ | .ldqImm _ _ _ _ => 16
    | _ => a.size
  let lane := if a.lane = 32 then 0 else a.lane
  let regs := halfSpan size op.dest (k % 2)
  let G :=
    if op.dest.isV then
      regs.zipIdx.foldl (fun G r => G.writeV r.1 lane (BitVec.ofNat 32 (a.ans.toNat / 2 ^ (32 * r.2)))) G
    else regs.foldl (fun G r => G.writeS r (a.ans.setWidth 64)) G
  regs.foldl (fun G r => G.clearPending r lane o) G

/-- A result in one register, written unless a later instruction owns it, and Pending cleared. -/
def Gang.deliverTo (G : Gang) (o : Nat) (r : Reg) (lane : Nat) (v : Dword) : Gang :=
  if r.isV then (G.writeV r lane (v.setWidth 32)).clearPending r lane o
  else (G.writeS r v).clearPending r 0 o

/-- `stat` receives a code and is no longer Pending. -/
def Gang.deliverStat (G : Gang) (o code : Nat) : Gang := (G.setStat code).clearPending .stat 0 o

/-- Delivers one element of `div`, `sqrt`, `rcp` or `rsqrt`; INEXACT is set now (09 R163). -/
def Gang.deliverCalc (G : Gang) (op : Op) (o : Nat) (a : Acc) : Gang :=
  let wide := match EType.ofNum (op.mode.extractLsb' 0 4) with
    | some t => t.isWide
    | none => false
  let lane := if a.lane = 32 then 0 else a.lane
  let G := (G.deliver wide op.dest a.lane (a.ans.setWidth 64)).orFlags (flagBits (a.code = 1) false)
  (spanOf wide op.dest).foldl (fun G r => G.clearPending r lane o) G

/-- Delivers one result of a `steal` (19 R316): a register, unless it keeps its value, a piece of the program area, or
`stat`. -/
def State.deliverSteal (s : State) (g o k : Nat) (a : Acc) : State :=
  let j := k % 256
  if a.lane = 32 then s.modGang g fun G => G.deliverStat o a.ans.toNat
  else if 32 ≤ j then s.privWrite g a.lane (16 * (j - 32)) 16 a.ans.toNat
  else
    match stealReg j with
    | none => s
    | some r =>
      s.modGang g fun G =>
        let w := a.ans.setWidth 32
        let G := if a.code = 1 then G
          else if r = .bnd then G.setBnd a.lane w
          else if r = .alt then G.setAlt a.lane w
          else G.writeV r a.lane w
        G.clearPending r a.lane o

/-- Delivers the pop of a completion (17 R258, R262; 23 R356). -/
def State.deliverPop (s : State) (g o q : Nat) (op : Op) (a : Acc) : Option State :=
  match s.gang g with
  | none => none
  | some G =>
    let fin (G : Gang) (v : Dword) (code : Nat) : Gang := (G.deliverTo o op.dest 32 v).deliverStat o code
    if a.st = .performed then some (s.setGang g (fin G 0 0))
    else
      match (G.queue q).reqs.find? fun r => r.id + 1 == a.data.toNat with
      | none => some (s.setGang g (fin G 0 0))
      | some r =>
        let Q := G.queue q
        let first := (Q.reqs.find? fun x => x.pops).map Req.id == some r.id
        if r.st != .done || !first then none
        else
          let G := G.setQueue q { Q with reqs := Q.reqs.filter fun x => x.id != r.id }
          let G := match r.fault with
            | some (c, va) =>
              if r.refused && Q.engine = 1 then G
              else G.addOp (engineOp r.pc (instrOf r.word) r.slices r.tag c va)
            | none => G
          some ((s.setGang g (fin G r.tag (if r.malformed then 8 else 0))).acquire G.core
            (if Q.engine = 2 then .sys else .chip))

/-- The acquire of a split whose `rawait` or `rwait` has been answered waits for every memory result that it issued before (11
R192). A split whose request was replayed stands at a report point, which waits for those results too, and acquires there. -/
def Split.acquires (sp : Split) (o : Nat) (sc : Scope) : Split :=
  if sp.wait = .op o then { sp with wait := .acqQuiet sc } else { sp with acqAfter := some sc }

/-- The acquire at the delivery of instruction `o`, for the split that issued it. -/
def Gang.acquireAfter (G : Gang) (o : Nat) (op : Op) : Gang :=
  match op.acq with
  | none => G
  | some sc =>
    { G with splits := G.splits.map fun p => (p.1, if op.ofSplit p.2.slices then p.2.acquires o sc else p.2) }

/-- Delivers an answered access by the kind of its instruction; `none` when there is nothing to deliver yet. -/
def State.deliverAcc (s : State) (g o k : Nat) (G : Gang) (op : Op) (a : Acc) : Option State :=
  let put (G : Gang) : Option State := some (s.setGang g G)
  let acq (G : Gang) : Option State :=
    some (match op.acq with
      | some sc => (s.setGang g G).acquire G.core sc
      | none => s.setGang g G)
  match op.kind with
  | .load => put (G.deliverLoad op o k a)
  | .atomic _ _ ret => if ret then acq (G.deliverTo o op.dest a.lane (a.ans.setWidth 64)) else none
  | .fwr => put (G.deliverStat o a.code)
  | .frd _ =>
    if a.code = 0 then acq ((G.deliverTo o op.dest 32 (a.ans.setWidth 64)).deliverStat o 0)
    else put ((G.clearPending op.dest 0 o).deliverStat o a.code)
  | .rclaim => put ((G.deliverTo o op.dest 32 (a.ans.setWidth 64)).clearPending .stat 0 o)
  | .rawait =>
    if a.code = 0 then put (((G.deliverTo o op.dest 32 (a.ans.setWidth 64)).deliverStat o 0).acquireAfter o op)
    else put ((G.clearPending op.dest 0 o).deliverStat o a.code)
  | .rretire => put (G.deliverStat o a.code)
  | .rwait => put ((G.deliverStat o 0).acquireAfter o op)
  | .calc => put (G.deliverCalc op o a)
  | .rrd r => put (G.deliverTo o op.dest a.lane ((s.ridgeValue G r).signExtend 64))
  | .steal => some (s.deliverSteal g o k a)
  | .pop q => s.deliverPop g o q op a
  | .store | .rcommit | .rbind | .rwr | .matrix | .format | .fetch | .engine _ | .nwait => none

/-- RESULT_DELIVERY (01 R32): an answer reaches its registers, or is discarded, or is consumed poison (17 R291). -/
def execResultDelivery (g o k : Nat) (s : State) : Host.Outcome State Fault Refusal :=
  s.event
    (match s.gang g with
     | none => none
     | some G =>
       match G.acc o k with
       | none => none
       | some (op, a) =>
         let isPop := match op.kind with
           | .pop _ => true
           | .load | .store | .atomic _ _ _ | .fwr | .frd _ | .rclaim | .rcommit | .rawait | .rretire | .rbind | .rwr
           | .rwait | .calc | .rrd _ | .steal | .matrix | .format | .fetch | .engine _ | .nwait => false
         if a.st != .performed && !isPop then none
         else if a.orphan then (if op.kind.varLat then some ((s.setGang g (G.dropAcc o k)).wake g) else none)
         else if op.kind.varLat && 256 ≤ a.code then
           some (s.consume g (match a.place.bind Place.key with | some p => p | none => 0))
         else (s.deliverAcc g o k G op a).map fun s => (s.modGang g fun G => G.dropAcc o k).wake g)

/-- STORE_ACKNOWLEDGE (11 R185): a performed write with no result is acknowledged. -/
def execStoreAcknowledge (g o k : Nat) (s : State) : Host.Outcome State Fault Refusal :=
  s.event
    (match s.gang g with
     | none => none
     | some G =>
       match G.acc o k with
       | none => none
       | some (op, a) =>
         if a.st != .performed || !op.kind.writes || op.kind.varLat then none
         else if 256 ≤ a.code && !a.orphan then
           some (s.consume g (match a.place.bind Place.key with | some p => p | none => 0))
         else some ((s.setGang g (G.dropAcc o k)).wake g))

end Sys2Proof.Machine
end

