-- ==== Sys2Proof/Machine/System.lean ====
section
/-! DEFINITION. System instructions (17 R264 to R266), the return from a trap (R269), a word that decodes to no instruction
(03 R85), the watchdog (01 R50), and the answer to `sysc` (R265). -/

namespace Sys2Proof.Machine

/-! ## setm, trap, tret, sysc -/

/-- `setm` (R264): the decoder refuses a reserved TYPE or RND. -/
def execSetm (sm : Bool) (e : BitVec 16) (s : State) : Host.Outcome State Fault Refusal :=
  s.issue (.setm sm e) sm
    (regMeaning (fun G _ => { o4 := G.hazardTest 0 [.mode] }) fun G _ => { G with mode := e })

/-- `trap` (R264): the precise trap TRAP at order 5 of Table 3-10. -/
def execTrap (sm : Bool) (e : BitVec 16) (s : State) : Host.Outcome State Fault Refusal :=
  s.issue (.trap sm e) sm
    { tests := fun _ _ _ _ _ => { o5 := [.trap e] }, before := noWait, effect := fun s _ _ _ _ => s }

/-- The cause code of MEMFAULT. -/
def memfaultCode : Nat := 14

/-- The return from a trap (R269): `mode` and m0, the replay or the end of held faults, RESIDENT, and the split at TPC; then
the traps held for other splits, one at a time (R270). -/
def State.returnFromTrap (s : State) (g k : Nat) (G : Gang) (sp : Split) : State :=
  match G.trap with
  | none => s
  | some t =>
    let G' := (G.leaveTrap t).setSplit k (sp.resume t)
    let s :=
      if t.cause ≠ memfaultCode then s.setGang g G'
      else if t.replay then (s.setGang g G').replay g t.tslice (t.recs.map FaultRec.op)
      else s.setGang g (G'.endFaults t.tslice t.recs)
    s.raiseHeld g

/-- `tret` (R269, R270): ILLOP outside TRAP, and for an illegal TPC. -/
def execTret (sm : Bool) (s : State) : Host.Outcome State Fault Refusal :=
  s.issue (.tret sm) sm
    { tests := fun _ _ _ G _ =>
        { o1 := match G.st, G.trap with
            | .trap, some t => targetTest t.tpc
            | _, _ => some (.illop 4) }
      before := noWait
      effect := fun s g k G sp => s.returnFromTrap g k G sp }

/-- s32 to s37. -/
def sysArgs : List Reg := [.s 32, .s 33, .s 34, .s 35, .s 36, .s 37]

/-- `sysc` (R265): a release at system scope, then the request; the split waits for the answer. -/
def execSysc (sm : Bool) (e : BitVec 16) (s : State) : Host.Outcome State Fault Refusal :=
  s.issue (.sysc sm e) sm
    { tests := fun _ _ _ G _ => { o4 := G.hazardTest 0 (sysArgs ++ [.stat]) }
      before := noWait
      effect := waitEffect .evwait (.sysc e false) }

/-- SYSC_ANSWER (R265): the answer may write s32 to s37 and `stat`, in a saved gang too; its arrival is an acquire at system
scope. -/
def execSyscAnswer (g sp : Nat) (vals : List (Fin 6 × Dword)) (st : Option Dword) (s : State) :
    Host.Outcome State Fault Refusal :=
  s.event
    (match s.gang g with
     | none => none
     | some G =>
       match KV.find G.splits sp with
       | none => none
       | some x =>
         match x.wait with
         | .sysc _ true =>
           let G := vals.foldl (fun G p => G.setS (32 + p.1.val) p.2) G
           let G := match st with
             | some w => { G with stat := w }
             | none => G
           some ((s.setGang g (G.setSplit sp { x with wait := .acqQuiet .sys })).wake g)
         | _ => none)

/-! ## rdsr and wrsr (R266) -/

/-- The names of Table 17-5. -/
inductive SysReg where
  | tcause | tpc | tmode | tmask | tinfo | tslice | tfcount | tfsel
  | tfrec (j : Fin 4)
  | treplay | strike | sstrike | ctxid | place | node
deriving DecidableEq, Repr

/-- The register of a number of Table 17-5. -/
def SysReg.ofNum (e : BitVec 16) : Option SysReg :=
  match e.toNat with
  | 0x0 => some .tcause
  | 0x1 => some .tpc
  | 0x2 => some .tmode
  | 0x3 => some .tmask
  | 0x4 => some .tinfo
  | 0x5 => some .tslice
  | 0x6 => some .tfcount
  | 0x7 => some .tfsel
  | 0x8 => some (.tfrec 0)
  | 0x9 => some (.tfrec 1)
  | 0xA => some (.tfrec 2)
  | 0xB => some (.tfrec 3)
  | 0xC => some .treplay
  | 0x10 => some .strike
  | 0x11 => some .sstrike
  | 0x12 => some .ctxid
  | 0x13 => some .place
  | 0x14 => some .node
  | _ => none

/-- Registers that `wrsr` may write. -/
def SysReg.writable : SysReg → Bool
  | .tpc | .tmode | .tmask | .tfsel | .treplay => true
  | .tcause | .tinfo | .tslice | .tfcount | .tfrec _ | .strike | .sstrike | .ctxid | .place | .node => false

/-- A trap register (R266: each reads 0 outside TRAP); a mask of a protected gang reads 0 in bits 16 to 31 (R293). -/
def TrapRegs.read (t : TrapRegs) (G : Gang) (r : SysReg) : Dword :=
  match r with
  | .tcause => BitVec.ofNat 64 t.cause
  | .tpc => t.tpc
  | .tmode => t.tmode.setWidth 64
  | .tmask => if G.prot then (t.tmask.setWidth 16).setWidth 64 else t.tmask.setWidth 64
  | .tinfo => t.tinfo
  | .tslice => t.tslice.setWidth 64
  | .tfcount => BitVec.ofNat 64 t.recs.length
  | .tfsel => t.tfsel.setWidth 64
  | .tfrec j =>
    (match t.recs[t.tfsel.toNat]? with
     | some r => (r.doublewords G).getD j.val 0
     | none => 0)
  | .treplay => if t.replay then 1 else 0
  | .strike | .sstrike | .ctxid | .place | .node => 0

/-- The contents of a system register (Table 17-5). -/
def State.sysRead (s : State) (G : Gang) (r : SysReg) : Dword :=
  match r with
  | .strike => s.strike
  | .sstrike => s.sstrike
  | .ctxid => BitVec.ofNat 64 (G.ctx % 64 * 2 ^ 12 + G.inc.toNat)
  | .place => BitVec.ofNat 64 (G.core % 256 + G.slot % 64 * 2 ^ 8 + G.idx % 64 * 2 ^ 16)
  | .node => s.node.setWidth 64
  | .tcause | .tpc | .tmode | .tmask | .tinfo | .tslice | .tfcount | .tfsel | .tfrec _ | .treplay =>
    match G.st, G.trap with
    | .trap, some t => t.read G r
    | _, _ => 0

/-- `rdsr` (R266). -/
def execRdsr (sm : Bool) (d : Reg) (e : BitVec 16) (s : State) : Host.Outcome State Fault Refusal :=
  s.issue (.rdsr sm d e) sm
    { tests := fun _ _ _ G _ =>
        { o1 := illopIf (SysReg.ofNum e).isNone 0
          o2 := illreg [(d, 0, d.isSDst || d.isZ)]
          o4 := G.hazardTest 0 [d] }
      before := noWait
      effect := fun s g _ G _ =>
        match SysReg.ofNum e with
        | some r => s.setGang g (G.writeS d (s.sysRead G r))
        | none => s }

/-- A trap register written. -/
def TrapRegs.write (t : TrapRegs) (r : SysReg) (v : Dword) : TrapRegs :=
  match r with
  | .tpc => { t with tpc := v }
  | .tmode => { t with tmode := v.setWidth 16 }
  | .tmask => { t with tmask := v.setWidth 32 }
  | .tfsel => { t with tfsel := v.setWidth 5 }
  | .treplay => { t with replay := v.getLsbD 0 }
  | .tcause | .tinfo | .tslice | .tfcount | .tfrec _ | .strike | .sstrike | .ctxid | .place | .node => t

/-- `wrsr` of TMODE with a reserved TYPE or RND (R266; 03 R72). -/
def tmodeBad (r : SysReg) (v : Dword) : Bool := r = .tmode && !Instr.setmLegal (v.setWidth 16)

/-- `wrsr` (R266): ILLOP for an unknown or read-only number by the word alone, outside TRAP and for a reserved TMODE by the
state (Table 17-6, reason 4). That the second is tested at order 5 of Table 3-10 is the model's choice (log 36). -/
def execWrsr (sm : Bool) (d : Reg) (e : BitVec 16) (s : State) : Host.Outcome State Fault Refusal :=
  s.issue (.wrsr sm d e) sm
    { tests := fun _ _ _ G _ =>
        { o1 := illopIf (match SysReg.ofNum e with | some r => !r.writable | none => true) 0
          o2 := illreg [(d, 0, sSrc d)]
          o4 := G.hazardTest 0 [d]
          o5 := (illopIf (G.st != .trap ||
            (match SysReg.ofNum e with | some r => tmodeBad r (G.opnd64 d) | none => false)) 4).toList }
      before := noWait
      effect := fun s g _ G _ =>
        match SysReg.ofNum e, G.trap with
        | some r, some t => s.setGang g { G with trap := some (t.write r (G.opnd64 d)) }
        | _, _ => s }

/-! ## Words that decode to no instruction -/

/-- UNDECODABLE_WORD (03 R85, R87): ILLOP reason 0, with the word in TINFO; it does not issue. -/
def execUndecodableWord (w : Word) (s : State) : Host.Outcome State Fault Refusal :=
  match s.selected with
  | none => .fault .noSplit
  | some (s, g, k, _, sp) => .next (s.raise g k (.illop 0) w sp.pc [])

/-! ## The watchdog (01 R50, R51) -/

/-- The word at the program counter of a split, where it can be fetched. -/
def State.wordAt (s : State) (G : Gang) (sp : Split) : Option Word :=
  match s.fetch G sp.pc with
  | .word w => some w
  | .fault _ | .miss | .poison _ => none

/-- A READY split whose next issue would take the watchdog counter above its limit, with its word. -/
def State.watchdogAt (s : State) (g k : Nat) : Option (Gang × Split × Word) :=
  match s.gang g with
  | none => none
  | some G =>
    match KV.find G.splits k with
    | none => none
    | some sp =>
      match s.wordAt G sp with
      | none => none
      | some w =>
        match decode w with
        | .ok i => if G.mayIssue k sp && G.watchdogDue i then some (G, sp, w) else none
        | .error _ => none

/-- The first split of the part whose watchdog is due. -/
def State.watchdogFirst (s : State) : Option (Nat × Nat) :=
  s.gangs.findSome? fun p =>
    p.2.splits.findSome? fun q => if (s.watchdogAt p.1 q.1).isSome then some (p.1, q.1) else none

/-- WATCHDOG_EXPIRY (01 R50): the instruction of the selected split, or else of the first split that is due, traps with
WATCHDOG and does not issue. Every instruction makes the same test as it issues (Table 3-10, order 6). -/
def execWatchdogExpiry (s : State) : Host.Outcome State Fault Refusal :=
  s.event
    (match (match s.cur with
       | some p => some p
       | none => s.watchdogFirst) with
     | none => none
     | some (g, k) =>
       match s.watchdogAt g k with
       | none => none
       | some (G, sp, w) => some (s.raise g k (.watchdog G.limit) w sp.pc []))

end Sys2Proof.Machine
end

