-- ==== Sys2Proof/Machine/Homes.lean ====
section
/-! DEFINITION. The requests of gangs as they reach their homes (11 R186, R204; 13 R213 to R233), launch wait events (21
R324), and translation (17 R287 to R289). What a home does with its memory is in HomeOps.lean. -/

namespace Sys2Proof.Machine

/-! ## Launch wait events (21 R324) -/

/-- WAIT_EVENT_TEST (21 R324): event j of the launch at the head of a queue. -/
def execWaitEventTest (c q j : Nat) (s : State) : Host.Outcome State Fault Refusal :=
  s.event
    (match s.headUnit c q with
     | none => none
     | some l =>
       match (KV.find s.launches l).bind fun L => L.events[j]? with
       | none => none
       | some _ =>
         some { s with launches := KV.mod s.launches l fun L =>
           { L with events := L.events.zipIdx.map fun e => if e.2 = j then e.1.test s.mem else e.1 } })

/-! ## Requests of gangs at homes -/

/-- The access is on its way to its home. -/
def Gang.readyAcc (G : Gang) (o k : Nat) : Option (Op × Acc) :=
  match G.acc o k with
  | some (op, a) => if a.st = .ready then some (op, a) else none
  | none => none

/-- Two accesses overlap, by address or at their home. -/
def Acc.meets (a b : Acc) : Bool :=
  overlap a.va a.size b.va b.size ||
    (match a.place.bind Place.key, b.place.bind Place.key with
     | some k, some k' => decide (k < k' + b.size) && decide (k' < k + a.size)
     | _, _ => false)

/-- No earlier request of the gang to overlapping bytes is still on its way (07 R154, 11 R206). -/
def Gang.inOrder (G : Gang) (o : Nat) (a : Acc) : Bool :=
  !G.ops.any fun p => decide (p.1 < o) && p.2.accs.any fun q => q.2.st.onWay && q.2.meets a

/-- An earlier store or atomic of the gang that overlaps is unacknowledged (11 R184). -/
def Gang.ownBefore (G : Gang) (o : Nat) (a : Acc) : Bool :=
  G.ops.any fun p => decide (p.1 < o) && p.2.kind.writes && p.2.goodAccs.any fun q => q.2.meets a

/-- A request leaves the core: in order with its gang's overlapping requests, and after the release that it makes. A
`rretire` leaves after every earlier result of its split, one that a fault holds included (13 R227, 17 R272). -/
def Gang.leaves (G : Gang) (o : Nat) (op : Op) (a : Acc) : Bool :=
  G.inOrder o a && G.relDone o op &&
    (op.kind != .rretire || !G.ops.any fun p =>
      decide (p.1 < o) && p.2.ofSplit op.slices && p.2.kind.varLat &&
        (match p.2.mat with
         | some m => !m.done
         | none => !(G.counted op.slices p).isEmpty))

/-- A request of a gang of the core that may write a sector at its home, or that is not translated, is outstanding: a write, or
a claim, await or counter wait, whose home counts (13 R224, R233). -/
def State.sectorBusy (s : State) (core pa : Nat) : Bool :=
  s.gangs.any fun p => p.2.core = core && p.2.ops.any fun q =>
    (q.2.kind.writes || q.2.kind.withdrawn) && q.2.goodAccs.any fun a =>
      match a.2.place with
      | some (.hbm x) => decide (x < pa / 32 * 32 + 32) && decide (pa / 32 * 32 < x + a.2.size)
      | some (.carve _ _) | some (.scratch _ _) | some (.share _ _) | some (.priv _ _ _) | some (.reg _)
      | some (.remote _) => false
      | none => true

/-- Stores of one core to one byte may be performed in another order than they updated its L1: a copy that differs from what the
store just performed has written may lie behind it in coherence order, and goes. A load of a gang with a store still to come
waits for it (07 R154, 11 R184, R196; log 35). -/
def State.l1Behind (s : State) (core : Nat) (a : Acc) : State :=
  match a.place with
  | some (.hbm pa) =>
    match s.sector core pa with
    | some w =>
      if (List.range a.size).any fun i => sectorRead w ((pa + i) % 32) 1 != (s.mem.byte (pa + i)).toNat
      then s.l1Drop core pa a.size else s
    | none => s
  | some (.carve _ _) | some (.scratch _ _) | some (.share _ _) | some (.priv _ _ _) | some (.reg _) | some (.remote _)
  | none => s

/-- A load allocates its sector (11 R182), unless it bypasses the L1 (17 R289), the block carries a mark, or a write of the
core to it is outstanding; a stale copy goes. -/
def State.allocate (s : State) (core : Nat) (a : Acc) : State :=
  match a.place with
  | some (.hbm pa) =>
    let s := s.l1Drop core pa a.size
    if a.noL1 || s.mem.poisoned (pa / 32 * 32) 32 || s.sectorBusy core pa then s else s.l1Fill core pa
  | some (.carve _ _) | some (.scratch _ _) | some (.share _ _) | some (.priv _ _ _) | some (.reg _) | some (.remote _)
  | none => s

/-- An access answered. -/
def Acc.answered (a : Acc) (ans : BitVec 128) (code : Nat) : Acc := { a with st := .performed, ans := ans, code := code }

/-- Sends an access to another module; without a job there is no receiver (23 R349, R350). -/
def State.sendAcc (s : State) (g o k : Nat) (G : Gang) (x : OpKind) (a : Acc) : State :=
  match s.send G.ctx (nodeNum a.va) (s.class0 G) (.acc g o k) (x.remoteOp g a) with
  | some (id, s) => s.modGang g fun G => G.setAcc o k { a with st := .sent id }
  | none => s.modGang g fun G => G.setAcc o k { a with st := .fault causeNode }

/-- A request at its home, by what its home does with the key; one to another module is sent there, while this module takes
part in the fabric (23 R352). -/
def State.atHome (s : State) (g o k : Nat) (ok : OpKind → Bool) (f : State → Gang → Op → Acc → Nat → State) :
    Option State :=
  match s.gang g with
  | none => none
  | some G =>
    match G.readyAcc o k with
    | none => none
    | some (op, a) =>
      if !ok op.kind || !G.leaves o op a then none
      else
        match a.place with
        | none => none
        | some (.remote _) => if s.fabric.aligned then some ((s.sendAcc g o k G op.kind a).wake g) else none
        | some p =>
          match p.key with
          | none => none
          | some key => some ((f s G op a key).wake g)

/-- HOME_LOAD (11 R186, R184). -/
def execHomeLoad (g o k : Nat) (s : State) : Host.Outcome State Fault Refusal :=
  s.event
    (match s.gang g with
     | none => none
     | some G =>
       if (match G.readyAcc o k with | some (_, a) => G.ownBefore o a | none => true) then none
       else
         s.atHome g o k (fun x => x = .load) fun s G _ a key =>
           let r := s.readAns key a.size
           (s.modGang g fun G => G.setAcc o k (a.answered r.1 r.2)).allocate G.core a)

/-- HOME_STORE (11 R186). -/
def execHomeStore (g o k : Nat) (s : State) : Host.Outcome State Fault Refusal :=
  s.event
    (s.atHome g o k (fun x => x = .store) fun s G op a key =>
      let cover := if s.mem.poisoned key a.size then (key, a.size) :: op.cover else op.cover
      let s := s.homeWrite key a.size a.data.toNat
      let s := { s with mem := s.mem.clearCover cover }
      (s.modGang g fun G =>
        ({ G with ops := KV.mod G.ops o fun op => { op with cover := cover } } : Gang).setAcc o k (a.answered 0 0)).l1Behind
          G.core a)

/-- The operation of an atomic. -/
def OpKind.atomicOf : OpKind → Option (AtomicOp × Bool)
  | .atomic op sg _ => some (op, sg)
  | .load | .store | .fwr | .frd _ | .rclaim | .rcommit | .rawait | .rretire | .rbind | .rwr | .rwait | .calc | .rrd _
  | .steal | .pop _ | .matrix | .format | .fetch | .engine _ | .nwait => none

/-- HOME_ATOMIC (13 R213). -/
def execHomeAtomic (g o k : Nat) (s : State) : Host.Outcome State Fault Refusal :=
  s.event
    (s.atHome g o k (fun x => x.atomicOf.isSome) fun s _ op a key =>
      match op.kind.atomicOf with
      | none => s
      | some (x, sg) =>
        let (old, code, s) := s.homeAtomic x sg key a.size a.data.toNat a.cmp.toNat
        s.modGang g fun G => G.setAcc o k (a.answered (BitVec.ofNat 128 old) code))

/-- HOME_FUTURE_WRITE (11 R204). -/
def execHomeFutureWrite (g o k : Nat) (s : State) : Host.Outcome State Fault Refusal :=
  s.event
    (s.atHome g o k (fun x => x = .fwr) fun s _ _ a key =>
      let (code, s) := s.homeFwr key (a.data.toNat % 2 ^ 64)
      s.modGang g fun G => G.setAcc o k (a.answered 0 code))

/-- Settles a request with the answer of its home: it is answered, held, refused or faulted; poison in a control block kills
the context (25 Table 25-5, level 4). -/
def State.settleAcc (s : State) (g o k c key : Nat) (x : OpKind) (a : Acc) (r : Answer) : State :=
  match r with
  | .value v code => s.modGang g fun G => G.setAcc o k (a.answered v code)
  | .waits =>
    -- a request of a killed gang that would wait is removed (11 Table 11-4)
    if ((s.gang g).map fun G => G.st == GangState.killed).getD false then s.modGang g fun G => G.dropAcc o k
    else
      (s.modGang g fun G => G.setAcc o k { a with st := .waiting }).hold
        { g := g, o := o, k := k, key := key, slice := s.sliceOf key, kind := x, n := a.data.toNat % 2 ^ 64, ext := none }
  | .full => s.modGang g fun G => G.setAcc o k { a with st := .refused }
  | .fault cause => s.modGang g fun G => G.setAcc o k { a with st := .fault cause }
  | .poison p => s.killPoison c p

/-- HOME_FUTURE_READ (11 R204, 13 R221). -/
def execHomeFutureRead (g o k : Nat) (s : State) : Host.Outcome State Fault Refusal :=
  s.event
    (s.atHome g o k (fun x => x.frdOf.isSome) fun s G op a key =>
      let (r, s) := s.homeFrd key (op.kind.frdOf.getD false)
      s.settleAcc g o k G.ctx key op.kind a r)

/-- HOME_RING_CLAIM (13 R225, R226): a `rclaim` or `rawait` on its arrival. -/
def execHomeRingClaim (g o k : Nat) (s : State) : Host.Outcome State Fault Refusal :=
  s.event
    (s.atHome g o k (fun x => x = .rclaim || x = .rawait) fun s G op a key =>
      let (r, s) := s.homeClaim key (op.kind = .rclaim) (a.data.toNat % 2 ^ 64) g none
      s.settleAcc g o k G.ctx key op.kind a r)

/-- `rbind` at the ring's home (13 R228, R229): the binding holds, or its fault removes it. A break that follows it there
takes effect (11 R206). -/
def State.homeBind (s : State) (g o k key c : Nat) (a : Acc) : State :=
  if s.mem.poisoned key 64 then s.killPoison c key
  else if s.ringBad key then
    s.modGang g fun G =>
      { G.setAcc o k { a with st := .fault causeRing } with binds := G.binds.filter fun b => b.1 != a.va }
  else
    let t := s.modGang g fun G =>
      { G.dropAcc o k with binds := G.binds.map fun b => if b.1 == a.va then (b.1, some key) else b }
    match a.code, s.gang g with
    | 1, some G => t.breakBound g G (a.va, some key) key
    | _, _ => t

/-- HOME_RING_COMMIT (13 R225, R228): a `rcommit`, `rretire` or `rbind` on its arrival. -/
def execHomeRingCommit (g o k : Nat) (s : State) : Host.Outcome State Fault Refusal :=
  s.event
    (s.atHome g o k (fun x => x = .rcommit || x = .rretire || x = .rbind) fun s G op a key =>
      if op.kind = .rbind then s.homeBind g o k key G.ctx a
      else
        let (r, s) := s.homeCommit key (op.kind = .rcommit) (a.data.toNat % 2 ^ 64)
        s.settleAcc g o k G.ctx key op.kind a r)

/-- RING_REQUEST_RESEND (13 R226): a request refused for a full buffer is sent again. -/
def execRingRequestResend (g o k : Nat) (s : State) : Host.Outcome State Fault Refusal :=
  s.event
    (match (s.gang g).bind fun G => G.acc o k with
     | none => none
     | some (_, a) =>
       if a.st = .refused && !s.saving g then some (s.modGang g fun G => G.setAcc o k { a with st := .ready }) else none)

/-! ## rwr, rwait, nwait (13 R232, R233; 17 R261) -/

/-- Performs the data of an `rwr` that is on its way. -/
def State.rwrStores (s : State) (g o : Nat) (G : Gang) (op : Op) : State :=
  op.accs.foldl (fun s p =>
    if p.1 = counterKey || p.2.st != .ready || !G.inOrder o p.2 then s
    else
      match p.2.place.bind Place.key with
      | none => s
      | some key => (s.homeWrite key p.2.size p.2.data.toNat).modGang g fun G => G.setAcc o p.1 (p.2.answered 0 0)) s

/-- Adds to the counter of an `rwr` once every data byte is performed and none has faulted. -/
def State.rwrCount (s : State) (g o : Nat) : State :=
  match (s.gang g).bind fun G => (KV.find G.ops o).map fun op => (G, op) with
  | none => s
  | some (G, op) =>
    match KV.find op.accs counterKey with
    | none => s
    | some c =>
      let dataDone := op.accs.all fun p => p.1 = counterKey || p.2.st = .performed
      if !dataDone || c.st != .ready || !G.inOrder o c then s
      else
        match c.place.bind Place.key with
        | none => s
        | some key =>
          let (code, s) := s.countUp key
          s.modGang g fun G => G.setAcc o counterKey (c.answered 0 code)

/-- Sends an `rwr` to another module as one packet (13 R232: the request is formed whole). -/
def State.rwrSend (s : State) (g o : Nat) (G : Gang) (op : Op) (c : Acc) : State :=
  let parts := (op.accs.filter fun p => p.1 != counterKey).map fun p => (p.2.va, numBytes p.2.data.toNat p.2.size)
  match s.send G.ctx (nodeNum c.va) (s.class0 G) (.acc g o counterKey) (.write parts (some c.va)) with
  | some (id, s) =>
    s.modGang g fun G => { G with ops := KV.mod G.ops o fun op =>
      { op with accs := op.accs.map fun p => (p.1, { p.2 with st := .sent id }) } }
  | none =>
    s.modGang g fun G => { G with ops := KV.mod G.ops o fun op =>
      { op with accs := op.accs.map fun p => (p.1, { p.2 with st := .fault causeNode }) } }

/-- Sends the data of an `rwr` whose counter is not to be changed, a fault in a part of it having been ended. -/
def State.rwrRest (s : State) (g o : Nat) : State :=
  match (s.gang g).bind fun G => KV.find G.ops o with
  | none => s
  | some op =>
    op.accs.foldl (fun s p =>
      match s.gang g, p.2.place with
      | some G, some (.remote _) => if s.fabric.aligned && p.2.st = .ready && G.inOrder o p.2 then s.sendAcc g o p.1 G op.kind p.2 else s
      | _, _ => s) s

/-- HOME_REMOTE_WRITE (13 R232). -/
def execHomeRemoteWrite (g o : Nat) (s : State) : Host.Outcome State Fault Refusal :=
  s.event
    (match s.gang g with
     | none => none
     | some G =>
       match KV.find G.ops o with
       | none => none
       | some op =>
         if op.kind != .rwr || !G.relDone o op || !op.accs.any (fun p => p.2.st = .ready) then none
         else
           match KV.find op.accs counterKey with
           | some c =>
             (match c.place with
              | some (.remote _) =>
                if s.fabric.aligned && op.accs.all fun p => p.2.st = .ready && G.inOrder o p.2 then some ((s.rwrSend g o G op c).wake g) else none
              | some (.hbm _) | some (.carve _ _) | some (.scratch _ _) | some (.share _ _) | some (.priv _ _ _)
              | some (.reg _) | none => some (((s.rwrStores g o G op).rwrCount g o).wake g))
           | none => some (((s.rwrStores g o G op).rwrRest g o).wake g))

/-- The faults of a binding that has been replaced, for which an `nwait` on their counter is the report point. -/
def Op.observed (op : Op) (va : Dword) : Op :=
  { op with held := op.held && !op.accs.any fun p => p.2.code == 1 && p.2.cmp == va }

/-- Network requests whose fault the `nwait` on their counter observes: reported at the next report point (23 R356). -/
def Gang.observeNet (G : Gang) (va : Dword) : Gang :=
  let G : Gang := { G with ops := G.ops.map fun p => (p.1, p.2.observed va) }
  G.queues.foldl (fun G p =>
    if p.2.engine ≠ 2 then G
    else
      p.2.reqs.foldl (fun G r =>
        let ctr := p.2.base + BitVec.ofNat 64 (8 * ((r.words.getD 0 0).extractLsb' 16 8).toNat)
        match r.st, r.fault with
        | .done, some (c, at_) =>
          if ctr == va then
            let Q := G.queue p.1
            let Q := if r.pops then Q.setReq r.id fun r => { r with fault := none }
              else { Q with reqs := Q.reqs.filter fun x => x.id != r.id }
            (G.setQueue p.1 Q).addOp (engineOp r.pc (instrOf r.word) r.slices r.tag c at_)
          else G
        | _, _ => G) G) G

/-- `rwait` at the counter's home: `none` when it is below its threshold. -/
def State.homeRwait (s : State) (key thr : Nat) : Option (Nat × State) :=
  let v := s.mem.read key 8
  if s.mem.poisoned key 8 then some (256, s)
  else if thr ≤ v then some (0, s.homeWrite key 8 (v - thr))
  else none

/-- HOME_COUNTER_WAIT (13 R233; 17 R261): an `rwait` on its arrival or while it waits, or an `nwait` whose counter has reached
its value. -/
def execHomeCounterWait (g o k : Nat) (s : State) : Host.Outcome State Fault Refusal :=
  s.event
    (match s.onChip g with
     | none => none
     | some G =>
       match G.acc o k with
       | none => none
       | some (op, a) =>
         match a.place, a.place.bind Place.key with
         | some (.remote _), _ =>
           if op.kind = .rwait && s.fabric.aligned && a.st = .ready && G.inOrder o a then some ((s.sendAcc g o k G op.kind a).wake g) else none
         | _, none => none
         | _, some key =>
           if op.kind = .nwait then
             if a.st = .ready && decide (a.data.toNat % 2 ^ 64 ≤ s.mem.read key 8) then
               some ((s.modGang g fun G => (G.dropAcc o k).observeNet a.va).wake g)
             else none
           else if op.kind != .rwait then none
           else
             let thr := a.data.toNat % 2 ^ 16
             let drop (s : State) : State :=
               { s with deferred := s.deferred.filter fun d => !(d.g == g && d.o == o && d.k == k && d.ext.isNone) }
             if a.st = .ready && G.inOrder o a then
               (match s.homeRwait key thr with
                | some (code, s) => some ((s.modGang g fun G => G.setAcc o k (a.answered 0 code)).wake g)
                | none => some (s.settleAcc g o k G.ctx key op.kind a (if s.bufferRoom key then .waits else .full)))
             else if a.st = .waiting then
               (s.homeRwait key thr).map fun r =>
                 ((drop r.2).modGang g fun G => G.setAcc o k (a.answered 0 r.1)).wake g
             else none)

/-! ## Translation (17 R287 to R289) -/

/-- The accesses of a core and context that wait for a page. -/
def State.waitersOf (s : State) (core c vpn : Nat) : List (Nat × Nat × Nat) :=
  s.gangs.flatMap fun p =>
    if p.2.core = core && p.2.ctx = c then
      p.2.ops.flatMap fun q =>
        q.2.accs.filterMap fun a =>
          if a.2.st = .xlate && vpnOf a.2.va = vpn then some (p.1, q.1, a.1) else none
    else []

/-- An access is at its core, or on its way. -/
def AccSt.atCore : AccSt → Bool
  | .xlate | .ready | .refused => true
  | .waiting | .sent _ | .performed | .fault _ => false

/-- The accesses of one instruction behind an access `a` that has faulted: those on its page that have not been performed fault
with its cause (17 R272). -/
def Gang.behindFault (G : Gang) (sl : BitVec 8) (a : Acc) (op : Op) : Op :=
  { op with accs := op.accs.map fun q =>
      (q.1, match a.blocks q.2.va with
        | some c => if G.owns sl q.2 && q.2.st.atCore then { q.2 with st := .fault c, page := a.page } else q.2
        | none => q.2) }

/-- The later instructions of a split after access `a` of instruction `o` has met a fault. -/
def Gang.spreadFault (G : Gang) (sl : BitVec 8) (o : Nat) (a : Acc) : Gang :=
  { G with ops := G.ops.map fun p =>
      if decide (o < p.1) && p.2.ofSplit sl && p.2.mat.isNone && p.2.kind.isEngine.isNone then (p.1, G.behindFault sl a p.2)
      else p }

/-- After a lane of a split has met TRANS or PERM, its later accesses to the page fault as well until the next report point,
those included that a TLB has translated meanwhile (17 R272); the L1 keeps no value of a store among them (log 35). -/
def State.spreadFault (s : State) (g o k : Nat) : State :=
  match s.gang g with
  | none => s
  | some G =>
    match G.acc o k with
    | none => s
    | some (op, a) =>
      let stores := G.ops.flatMap fun p =>
        if decide (o < p.1) && p.2.ofSplit op.slices && p.2.kind = .store then
          (p.2.accs.filter fun q => q.2.st = .ready && (a.blocks q.2.va).isSome).map Prod.snd
        else []
      (s.setGang g (G.spreadFault op.slices o a)).l1Forget G.core stores

/-- Gives an access its translation, or its fault: behind a fault of its split on the page, that one (17 R272). -/
def State.translated (s : State) (w : Nat × Nat × Nat) (r : Leaf ⊕ Nat) : State :=
  match s.gang w.1 with
  | none => s
  | some G =>
    match G.acc w.2.1 w.2.2 with
    | none => s
    | some (op, a) =>
      match (match r with | .inl l => (match G.pageFault op.slices w.2.1 a.va with | some c => .inr c | none => .inl l) | .inr c => .inr c : Leaf ⊕ Nat) with
      | .inl l =>
        ((s.setGang w.1 (G.setAcc w.2.1 w.2.2 (a.withLeaf l op.kind.need))).nowReady w.1 w.2.1 w.2.2).spreadFault
          w.1 w.2.1 w.2.2
      | .inr c => (s.setGang w.1 (G.setAcc w.2.1 w.2.2 { a with st := .fault c })).spreadFault w.1 w.2.1 w.2.2

/-- The page of a number. -/
def pageAddr (vpn : Nat) : Dword := BitVec.ofNat 64 (vpn % 2 ^ 36 * 4096)

/-- TABLE_WALK_COMPLETE (17 R287, R289): misses to one page coalesce. Poison in a table kills the context (25 Table 25-5). -/
def execTableWalkComplete (c core vpn : Nat) (s : State) : Host.Outcome State Fault Refusal :=
  s.event
    (if (s.tlbHit core c vpn).isSome && (s.waitersOf core c vpn).isEmpty then none
     else
       let ws := s.waitersOf core c vpn
       let done (s : State) (r : Leaf ⊕ Nat) : State :=
         let s := ws.foldl (fun s w => s.translated w r) s
         ws.foldl (fun s w => s.wake w.1) s
       match s.walk c (pageAddr vpn) with
       | .leaf l => some (done (s.tick.tlbFill core c vpn l) (.inl l))
       | .fault f => some (done s.tick (.inr f))
       | .poison p => some (s.killPoison c p))

/-- Removes the entries of a context from every TLB. -/
def State.flushTlbs (s : State) (c : Nat) : State :=
  let keep (t : KV Leaf) : KV Leaf := t.filter fun p => p.1 / 2 ^ 36 != c
  { s with
    cores := s.cores.map fun p => (p.1, { p.2 with tlb := keep p.2.tlb })
    bents := s.bents.map fun p => (p.1, { p.2 with tlb := keep p.2.tlb }) }

/-- TLB_INVALIDATE (17 R289): the device OS has written entries of the tables, and its invalidate command completes. -/
def execTlbInvalidate (c : Nat) (tbl : List PteWrite) (s : State) : Host.Outcome State Fault Refusal :=
  .next ((s.writeTables tbl).flushTlbs c)

/-! ## Strike edges and claims -/

/-- FSC_STRIKE_EDGE (11 R197): at the edge the split performs its acquire. -/
def execFscStrikeEdge (g sp : Nat) (s : State) : Host.Outcome State Fault Refusal :=
  s.event
    (match s.gang g with
     | none => none
     | some G =>
       match KV.find G.splits sp with
       | none => none
       | some x =>
         match x.wait with
         | .fscEdge sys true => some ((s.setWait g sp .segwait (.fscAcq sys)).wake g)
         | _ => none)

/-- CLAIM_SERVE (01 R38). The claims of a group that is being saved or is saved wait for its restore, which issues them again (13
Table 13-14). -/
def execClaimServe (gr : Nat) (s : State) : Host.Outcome State Fault Refusal :=
  s.event
    (match s.group gr with
     | none => none
     | some G => if G.saving || G.saved then none else some ((s.serveClaims gr).wakeGroup gr))

/-- The discarded arrivals of a gang at a barrier, and its waiting splits in BARTIMEOUT order (01 R48). -/
def State.timeoutGang (s : State) (g b phase : Nat) : State :=
  match s.gang g with
  | none => s
  | some G =>
    let arrs : KV Arrival := G.arrs.map fun p =>
      if p.1 % 64 = b && p.2.phase = phase then (p.1, { p.2 with discarded := true }) else p
    let G : Gang := { G with arrs := arrs }
    G.splits.foldl (fun (s : State) (p : Nat × Split) =>
      if p.2.waitsOn b then
        match s.gang g with
        | none => s
        | some H =>
          -- the arrival counts as reported to the split that the trap is raised in (01 R47)
          let H := (slicesOf p.2.slices).foldl (fun H t => { H with arrs := KV.del H.arrs (arrKey t b) }) H
          (s.setGang g H).raise g p.1 (.bartimeout b) (s.waitWord H p.2) p.2.ipc []
      else s) (s.setGang g G)

/-- BARRIER_TIMEOUT (01 R48): more strike edges than the timeout have passed since the first arrival; the phase is reset and
its waiters raise BARTIMEOUT. -/
def execBarrierTimeout (gr b : Nat) (s : State) : Host.Outcome State Fault Refusal :=
  s.event
    (match s.group gr with
     | none => none
     | some Gr =>
       let B := Gr.barrier b
       let limit := ((KV.find s.launches Gr.launch).map fun l => l.params.timeout).getD 0
       if B.arrived.isEmpty || B.strikes ≤ limit then none
       else
         let B' : Barrier := { phase := B.phase + 1, m := 0, n := 0, arrived := [], strikes := 0 }
         let s := s.setGroup gr { Gr with barriers := KV.set Gr.barriers b B' }
         some (Gr.gangs.foldl (fun s g => s.timeoutGang g b B.phase) s))

end Sys2Proof.Machine
end

