-- ==== Sys2Proof/Machine/Net.lean ====
section
/-! DEFINITION. The network engine and the fabric: work requests (23 R354 to R360), packets of other modules and answers to
own packets (23 R349 to R353), ports, synchronisation and jobs. -/

namespace Sys2Proof.Machine

/-! ## Work requests

A request's elements are the bytes that it moves, or the slots of an exchange, and its two counters. Each is open, flying in a
packet, moved (performed, or acknowledged by another module), stopped by a fault that awaits the device OS, or declined (17
R262). -/

/-- The target of a request lies on the own module. -/
def State.netOwn (s : State) (r : Req) : Bool := (r.words.getD 1 0).extractLsb' 48 12 = s.node

/-- The progress of a request. -/
def Req.progress (r : Req) : Progress := { moved := r.moved, stopped := r.stopped, declined := r.declined }

/-- A request with the progress of its elements. -/
def Req.advance (r : Req) (p : Progress) : Req := { r with moved := p.moved, stopped := p.stopped, declined := p.declined }

/-- The payload of a packet in bytes (R353). -/
def packetBytes : Nat := 4096

/-- The elements of a request that packets carry. -/
def State.flying (s : State) (g q id : Nat) : List (Nat × Nat) :=
  s.fabric.packets.flatMap fun p =>
    match p.2.what with
    | .req g' q' id' l => if g' = g && q' = q && id' = id then l else []
    | .acc _ _ _ | .ridge _ _ _ | .ringBreak _ | .withdraw _ _ _ _ => []

/-- The first run of numbers below len outside rising disjoint ranges. -/
def gap (l : List (Nat × Nat)) (len : Nat) : Option (Nat × Nat) :=
  match l with
  | [] => if len = 0 then none else some (0, len)
  | (a, b) :: rest =>
    if 0 < a then some (0, min a len)
    else if b < len then some (b, min len ((rest.head?.map Prod.fst).getD len))
    else none

/-- The ranges of a request's elements that are not open. -/
def State.taken (s : State) (g q : Nat) (r : Req) : List (Nat × Nat) :=
  ivlAll (ivlAll (ivlAll r.moved r.stopped) r.declined) (s.flying g q r.id)

/-- Open bytes of a request that one packet takes: where they start in the first open run is the engine's own choice, for
bytes move in no order (11 R188). -/
def State.nextBytes (s : State) (g q : Nat) (r : Req) : Option (Nat × Nat × State) :=
  (gap (s.taken g q r) r.len).map fun p =>
    let j := p.1 + Config.freeChoice s.fresh % (p.2 - p.1)
    (j, min packetBytes (p.2 - j), s.tick)

/-- Records a request's progress; elements stopped by a fault are reported to the device OS with what the lowest met (17
R262). -/
def State.putReq (s : State) (g q : Nat) (G : Gang) (r : Req) (met : Option (Nat × Nat × Dword)) : State :=
  let s := s.setReq g q r.id fun _ => { r with met := lowestMet r.met met }
  match met with
  | some x => s.askReq g G r x.2
  | none => s

/-- Adds 1 to a counter of a request on the own module, as its element j; a fault stops the element (17 R262). -/
def State.netCount (s : State) (g : Nat) (G : Gang) (r : Req) (j : Nat) (va : Dword) :
    Req × Option (Nat × Nat × Dword) × State :=
  if !r.progress.open_ j then (r, none, s)
  else
    match s.engineByte g G va true with
    | (.inl key, s) => ({ r with moved := ivlAdd r.moved j (j + 1) }, none, (s.engineDrop G.core key 8).countUp key |>.2)
    | (.inr c, s) => ({ r with stopped := ivlAdd r.stopped j (j + 1) }, some (j, c, va), s)

/-- A request is complete (R356): its clamp entries go first (11 R201), then its local counter is added to, then its pop is
queued. A counter that faults stops it until the device OS answers. -/
def State.netFinish (s : State) (g q : Nat) (G : Gang) (r : Req) : State :=
  let s := s.unclamp G.core g (reqOwner r.id)
  let (r, met, s) := s.netCount g G r localCount ((G.queue q).counter r)
  if met.isSome then (s.putReq g q G r met).wakeCore G.core
  else
    (s.modGang g fun G =>
      let Q := G.queue q
      G.setQueue q
        (if r.pops || r.fault.isSome then Q.setReq r.id fun _ => { r with st := .done }
         else { Q with reqs := Q.reqs.filter fun x => x.id != r.id })).wakeCore G.core

/-- Ends elements of a request without their effect, with the fault that the request reports (R350; 17 R262). -/
def Req.refuse (r : Req) (spans : List (Nat × Nat)) (cause : Nat) (va : Dword) : Req :=
  { r with declined := ivlAll r.declined spans, fault := r.fault.or (some (cause, va)) }

/-- Sends elements of a request to another module as one packet; without a job it is refused (R350). -/
def State.netSend (s : State) (g q : Nat) (G : Gang) (r : Req) (spans : List (Nat × Nat)) (dest : Nat) (op : RemoteOp) : State :=
  match s.send G.ctx dest (s.class0 G) (.req g q r.id spans) op with
  | some (_, s) => s.putReq g q G { r with st := .sent } none
  | none => s.putReq g q G (r.refuse spans causeEngine (r.words.getD 1 0)) none

/-- A request whose elements have all ended (R356): its clamp entries go before any counter shows its completion (11 R201); its
remote counter follows every data byte, on the own module or as a packet of its own, unless the request has faulted; then it is
complete. -/
def State.netSettle (s : State) (g q : Nat) (G : Gang) (r : Req) : Option State :=
  let ended := r.refused || ivlCovers r.len r.moved [] r.declined
  if !ended || !r.stopped.isEmpty || !(s.flying g q r.id).isEmpty then none
  else
    match netCounter r.words with
    | none => some (s.netFinish g q G r)
    | some va =>
      if r.fault.isSome || !r.progress.open_ remoteCount then some (s.netFinish g q G r)
      else if s.netOwn r then
        let (r, met, s) := (s.unclamp G.core g (reqOwner r.id)).netCount g G r remoteCount va
        some (if met.isSome then (s.putReq g q G r met).wakeCore G.core else s.netFinish g q G r)
      else if !s.fabric.aligned then none
      else
        let s := s.unclamp G.core g (reqOwner r.id)
        some ((s.netSend g q G r [(remoteCount, remoteCount + 1)] (nodeNum va) (.write [] (some va))).wakeCore G.core)

/-- The first of the requests of a binding with an operation that can go on: each has left its starting point by a release at
system scope (11 Table 11-3). -/
def State.netStep (s : State) (g q op : Nat) (f : Gang → Req → Option State) : Option State :=
  match s.onChip g with
  | none => none
  | some G =>
    let Q := G.queue q
    if Q.engine ≠ 2 then none
    else
      Q.reqs.findSome? fun r =>
        if r.opcode != op || r.st == .done || !G.released r.slices .sys r.before then none else f G r

/-- Open bytes of a request moved on the own module, which then goes on to its counters where it can. -/
def State.netMove (s : State) (g q : Nat) (G : Gang) (r : Req) (src dst : Dword) : Option State :=
  match gap (s.taken g q r) r.len with
  | none => s.netSettle g q G r
  | some _ =>
    let (P, s) := s.engineMove g G src dst r.progress 0 r.len
    let r' := r.advance P.prog
    some ((s.netSettle g q G r').getD (s.putReq g q G r' P.met))

/-- Writes the payload words of a PUTI on the own module that are open; one that faults is stopped. -/
def State.putWords (s : State) (g : Nat) (G : Gang) (va : Dword) (p : Progress) (words : List Dword) : Plan (List Nat) × State :=
  let (P, s) := s.plan (fun s i => s.engineSpan g G (va + BitVec.ofNat 64 i) true 8) 8 p 0 words.length
  (P, P.items.foldl (fun s x =>
    let key := x.2.headD 0
    (s.engineDrop G.core key 8).homeWrite key 8 (words.getD (x.1 / 8) 0).toNat) s)

/-- NET_PUTI (R356): on the own module its words are written; to another module they travel as one packet, with the
counter that follows them. -/
def execNetPuti (g q : Nat) (s : State) : Host.Outcome State Fault Refusal :=
  s.event
    (s.netStep g q 0 fun G r =>
      let va := r.words.getD 1 0
      if (gap (s.taken g q r) r.len).isNone || r.refused then s.netSettle g q G r
      else if s.netOwn r then
        let (P, s) := s.putWords g G va r.progress (netPayload r.words)
        let r' := r.advance P.prog
        some ((s.netSettle g q G r').getD (s.putReq g q G r' P.met))
      else if !s.fabric.aligned then none
      else
        let words := (netPayload r.words).zipIdx.map fun w => (va + BitVec.ofNat 64 (8 * w.2), numBytes w.1.toNat 8)
        let ctr := match netCounter r.words with
          | some _ => [(remoteCount, remoteCount + 1)]
          | none => []
        some (s.netSend g q G r ((0, r.len) :: ctr) (nodeNum va) (.write words (netCounter r.words))))

/-- A byte at a key as it travels: one of a marked block has no value (17 R290). -/
def State.fabByte (s : State) (key : Nat) : FabByte := if s.mem.poisoned key 1 then none else some (s.mem.byte key)

/-- Bytes of an engine's source, from its byte j on, as they travel, up to the first that a fault stops, and that fault. -/
def State.takeSource (s : State) (g : Nat) (G : Gang) (src : Dword) (j : Nat) :
    Nat → List FabByte × Option (Nat × Nat × Dword) × State
  | 0 => ([], none, s)
  | n + 1 =>
    match State.takeSource s g G src j n with
    | (l, some x, s) => (l, some x, s)
    | (l, none, s) =>
      let va := src + BitVec.ofNat 64 (j + n)
      match s.engineByte g G va false with
      | (.inl key, s) => (l ++ [s.fabByte key], none, s)
      | (.inr c, s) => (l, some (j + n, c, va), s)

/-- NET_PUTM (R356): on the own module its bytes move; to another module they travel in packets. A source byte that faults is
stopped, and the others go on (17 R262). -/
def execNetPutm (g q : Nat) (s : State) : Host.Outcome State Fault Refusal :=
  s.event
    (s.netStep g q 1 fun G r =>
      let src := r.words.getD 2 0
      let dst := r.words.getD 1 0
      if r.refused then s.netSettle g q G r
      else if s.netOwn r then s.netMove g q G r src dst
      else if !s.fabric.aligned then none
      else
        match s.nextBytes g q r with
        | none => s.netSettle g q G r
        | some (j, n, s) =>
          let (l, met, s) := s.takeSource g G src j n
          let e := j + l.length
          let r' := if met.isNone then r else { r with stopped := ivlAdd r.stopped e (e + 1), met := lowestMet r.met met }
          let s := s.putReq g q G r' met
          some (if l.isEmpty then s
            else s.netSend g q G r' [(j, e)] (nodeNum dst) (.write [(dst + BitVec.ofNat 64 j, l)] none)))

/-- A byte that arrives is written at its key; one of a marked block marks the block it reaches, and each byte of that block
may hold any value (17 R255, R290). -/
def State.putFab (s : State) (key : Nat) (b : FabByte) : State :=
  match b with
  | some x => s.homeWrite key 1 x.toNat
  | none => (s.spoil key).testWaits

/-- Writes arriving bytes at their keys. -/
def State.putFabs (s : State) (core : Nat) (l : List (Nat × FabByte)) : State :=
  l.foldl (fun s x => (s.engineDrop core x.1 1).putFab x.1 x.2) s

/-- Writes arriving bytes, from byte j on; those that fault are stopped. Destination blocks that they cover whole lose their old
marks (17 R290). -/
def State.takeBytes (s : State) (g : Nat) (G : Gang) (dst : Dword) (p : Progress) (data : List FabByte) (j : Nat) :
    Plan Nat × State :=
  let (P, s) := s.plan (fun s i =>
    match s.engineByte g G (dst + BitVec.ofNat 64 i) true with
    | (.inl k, s) => (.inl k, s)
    | (.inr c, s) => (.inr (c, dst + BitVec.ofNat 64 i), s)) 1 p j data.length
  (P, (s.clearWritten dst P.items).putFabs G.core (P.items.map fun x => (x.2, data.getD (x.1 - j) none)))

/-- The packets of a request for n bytes of another module, with their first bytes. -/
def State.readsOf (s : State) (g q id n : Nat) : List (Nat × Nat) :=
  s.fabric.packets.filterMap fun p =>
    match p.2.what with
    | .req g' q' id' [(j, e)] => if g' = g && q' = q && id' = id && e = j + n then some (p.1, j) else none
    | .req _ _ _ _ | .acc _ _ _ | .ridge _ _ _ | .ringBreak _ | .withdraw _ _ _ _ => none

/-- The bytes that answer a packet of a GET arrive; packets of one size are answered in no order (R353). -/
def State.getArrive (s : State) (g q : Nat) (G : Gang) (r : Req) (data : List FabByte) : Option State :=
  let ps := s.readsOf g q r.id data.length
  (ps[Config.freeChoice s.fresh % ps.length]?).map fun x =>
    let dst := r.words.getD 2 0
    let (P, s) := (s.tick.dropPacket x.1).takeBytes g G dst r.progress data x.2
    s.putReq g q G (r.advance P.prog) P.met

/-- NET_GET (R356): from the own module its bytes move; from another module they are asked for in packets, and `data` are the
bytes that answer one. -/
def execNetGet (g q : Nat) (data : List FabByte) (s : State) : Host.Outcome State Fault Refusal :=
  s.event
    (s.netStep g q 2 fun G r =>
      let src := r.words.getD 1 0
      if r.refused then s.netSettle g q G r
      else if s.netOwn r then s.netMove g q G r src (r.words.getD 2 0)
      else if !s.fabric.aligned then none
      else if data.isEmpty then
        match s.nextBytes g q r with
        | none => s.netSettle g q G r
        | some (j, n, s) => some (s.netSend g q G r [(j, j + n)] (nodeNum src) (.read (src + BitVec.ofNat 64 j) n))
      else s.getArrive g q G r data)

/-! ## The exchange (R357 to R360) -/

/-- The parameter word of an exchange with the place of the own module (R358, R359). -/
structure Exch where
  base  : Dword
  param : Dword
  /-- The partner module, l, bit g of the own place, the size of an element. -/
  other : Nat
  l     : Nat
  y     : Bool
  z     : Nat

/-- The exchange that a request asks for. -/
def State.exchOf (s : State) (r : Req) : Exch :=
  let w := r.words.getD 2 0
  let gbit := (w.extractLsb' 12 4).toNat
  let b := (w.extractLsb' 20 12).toNat
  let place := s.node.toNat - b
  { base := onNode s.node (r.words.getD 1 0), param := w, other := b + (place ^^^ 2 ^ gbit), l := (w.extractLsb' 6 6).toNat,
    y := Nat.testBit place gbit, z := 2 ^ (w.extractLsb' 32 2).toNat }

/-- The address of the slot that receives element j. -/
def Exch.slot (x : Exch) (j : Nat) : Dword := x.base + BitVec.ofNat 64 (x.z * exchSlot x.l j x.y)

/-- Swaps element j: the outgoing element is read before the incoming one is written, and travels to the partner's slot of the
same number. A slot that cannot be read or written is stopped (17 R262, R288). -/
def State.swapElem (s : State) (g q : Nat) (G : Gang) (x : Exch) (r : Req) (j : Nat) (bytes : List FabByte) : Req × State :=
  match s.enginePair g G (x.slot j) (x.slot j) x.z with
  | (.inr f, s) =>
    let r := { r with stopped := ivlAdd r.stopped j (j + 1), met := lowestMet r.met (some (j, f)) }
    (r, s.putReq g q G r (some (j, f)))
  | (.inl k, s) =>
    let out := k.1.map s.fabByte
    let s := s.putFabs G.core (k.2.zip bytes)
    let r : Req := { r with st := .sent, moved := ivlAdd r.moved j (j + 1) }
    (r, s.netSend g q G r [(leaving + j, leaving + j + 1)] x.other (.exchange (r.words.getD 1 0) x.param j out))

/-- The bytes of an element that arrives. -/
def elemBytes (v : Option Dword) (z : Nat) : List FabByte :=
  (List.range z).map fun b => v.map fun e => BitVec.ofNat 8 (e.toNat / 2 ^ (8 * b))

/-- Swaps the next open slots with the elements that have arrived. -/
def State.swapElems (s : State) (g q : Nat) (G : Gang) (x : Exch) (r : Req) : List (Option Dword) → State
  | [] => s
  | v :: rest =>
    match gap (s.taken g q r) r.len with
    | none => s
    | some (j, _) =>
      let (r, s) := s.swapElem g q G x r j (elemBytes v x.z)
      s.swapElems g q G x r rest

/-- An exchange that a request has issued with a partner module, a target and a parameter word. -/
def State.exchWith (s : State) (other : Nat) (target param : Dword) (r : Req) : Bool :=
  r.opcode == 3 && r.st == .sent && (s.exchOf r).other == other && r.words.getD 1 0 == target && (s.exchOf r).param == param

/-- The exchange of a context that meets an offer: gang, queue register and request. -/
def State.exchMeets (s : State) (c other : Nat) (target param : Dword) : Option (Nat × Nat × Gang × Req) :=
  s.gangs.findSome? fun p =>
    if p.2.ctx != c || p.2.st = .saved then none
    else p.2.queues.findSome? fun q =>
      if q.2.engine != 2 then none
      else (q.2.reqs.find? fun r => s.exchWith other target param r).map fun r => (p.1, q.1, p.2, r)

/-- NET_EXCH (R357 to R360). The first event issues the exchange and offers the partner its own credit. Each later one is the
partner's credit with the next elements that it sends: equal parameters swap elements one by one; different ones, which no
exchange of the context meets, end the exchange in a RANGE fault with nothing written. It is complete once every element has
arrived, and every outgoing one is acknowledged. -/
def execNetExch (g q : Nat) (partner : ExchOffer) (s : State) : Host.Outcome State Fault Refusal :=
  s.event
    (s.netStep g q 3 fun G r =>
      let x := s.exchOf r
      let target := r.words.getD 1 0
      match (s.ctx G.ctx).job with
      | none => s.netSettle g q G (if r.refused then r else { r.refuse [(0, r.len)] causeEngine target with refused := true })
      | some job =>
        if r.refused || (gap (s.taken g q r) r.len).isNone then s.netSettle g q G r
        else if !s.reachable x.other then none
        else if r.st == .queued then
          some ((s.putReq g q G { r with st := .sent } none).emit (.exchange x.other job target x.param))
        else if partner.job != job || partner.sender.toNat != x.other then none
        else if partner.target != target || partner.param != x.param then
          (if r.moved.isEmpty && r.stopped.isEmpty && r.declined.isEmpty &&
              (s.exchMeets G.ctx x.other partner.target partner.param).isNone then
            s.netSettle g q G { r with refused := true, fault := some (causeRange, target) }
          else none)
        else if partner.elems.isEmpty then none
        else some (s.swapElems g q G x r partner.elems))

/-! ## Packets of other modules (R349 to R352) -/

/-- What keeps another module from bytes it names: a fault (R351), or a poison mark met by the walk (25 Table 25-5). -/
inductive RemoteStop where
  | fault (cause : Nat)
  | poison (pa : Nat)

/-- The key of n bytes that another module names in a context, or what stops it (R351). -/
def State.remoteKey (s : State) (c : Nat) (va : Dword) (n : Need) : Nat ⊕ RemoteStop :=
  match s.walk c va with
  | .leaf l => if l.allows n then .inl (l.pa va) else .inr (.fault causePerm)
  | .fault f => .inr (.fault f)
  | .poison p => .inr (.poison p)

/-- A stopped packet's answer: its fault; or the context is killed and the packet is refused (R350). -/
def State.remoteStop (s : State) (c : Nat) (p : Packet) (x : RemoteStop) : State :=
  match x with
  | .fault f => s.emit (.answerFault p.sender p.seq f)
  | .poison k => (s.killPoison c k).emit (.answer p.sender p.seq false 0)

/-- A value and a code as one answer. -/
def packAnswer (v : BitVec 128) (code : Nat) : BitVec 128 := (v &&& 0xFFFFFFFFFFFFFFFF#128) ||| BitVec.ofNat 128 (code * 2 ^ 64)

/-- A packet with which nothing has been done is taken as new when it is sent again. -/
def State.unsee (s : State) (p : Packet) : State :=
  { s with fabric := { s.fabric with seen := s.fabric.seen.filter fun x => !(x.1 == p.sender.toNat && x.2.1 == p.seq) } }

/-- Answers another module, holds its request and acknowledges its receipt, or leaves it to be sent again. -/
def State.answerPacket (s : State) (p : Packet) (key : Nat) (x : OpKind) (n : Nat) (r : Answer) : State :=
  match r with
  | .value v code => s.emit (.answer p.sender p.seq true (packAnswer v code))
  | .waits =>
    (s.hold { g := 0, o := 0, k := 0, key := key, slice := s.sliceOf key, kind := x, n := n, ext := some p }).emit
      (.receipt p.sender p.seq)
  | .full => s.unsee p
  | .fault c => s.emit (.answerFault p.sender p.seq c)
  | .poison k => match s.jobCtx p.job with
    | some c => (s.killPoison c k).emit (.answer p.sender p.seq false 0)
    | none => s

/-- Writes the bytes that another module sends and that no fault stops. -/
def State.putBytes (s : State) (c : Nat) (va : Dword) : List FabByte → Nat → State
  | [], _ => s
  | b :: rest, j =>
    match s.remoteKey c (va + BitVec.ofNat 64 j) ⟨false, true, false⟩ with
    | .inl key => (s.putFab key b).putBytes c va rest (j + 1)
    | .inr _ => s.putBytes c va rest (j + 1)

/-- Clears the marks of the blocks that a range written by another module covers whole (17 R290). -/
def State.clearRemote (s : State) (c : Nat) (va : Dword) (n : Nat) : State :=
  (List.range (n / 32 + 2)).foldl (fun s i =>
    let b := (va.toNat / 32 + i) * 32
    if va.toNat ≤ b && b + 32 ≤ va.toNat + n then
      match s.remoteKey c (BitVec.ofNat 64 b) ⟨false, true, false⟩ with
      | .inl k => { s with mem := s.mem.clearWhole k 32 }
      | .inr _ => s
    else s) s

/-- Writes the parts that another module sends. -/
def State.putParts (s : State) (c : Nat) (parts : List (Dword × List FabByte)) : State :=
  parts.foldl (fun s x => (s.clearRemote c x.1 x.2.length).putBytes c x.1 x.2 0) s

/-- The first fault that n bytes of a range meet at the owner. -/
def State.remoteFault (s : State) (c : Nat) (va : Dword) (n : Need) (len : Nat) : Option RemoteStop :=
  (List.range len).findSome? fun j =>
    match s.remoteKey c (va + BitVec.ofNat 64 j) n with
    | .inl _ => none
    | .inr f => some f

/-- A write of another module: the bytes that no fault stops are written, and the counter is added to after them unless a
part faults (13 R232; R356). -/
def State.performWrite (s : State) (c : Nat) (p : Packet) (parts : List (Dword × List FabByte)) (ctr : Option Dword) : State :=
  let rw : Need := ⟨true, true, false⟩
  let bad := (parts.findSome? fun x => s.remoteFault c x.1 ⟨false, true, false⟩ x.2.length).or
    (ctr.bind fun x => s.remoteFault c x rw 8)
  match bad with
  | some (.poison k) => s.remoteStop c p (.poison k)
  | some (.fault f) => (s.putParts c parts).remoteStop c p (.fault f)
  | none =>
    let s := s.putParts c parts
    let s := match ctr with
      | some x => (match s.remoteKey c x rw with
        | .inl key => (s.countUp key).2
        | .inr _ => s)
      | none => s
    s.emit (.answer p.sender p.seq true 0)

/-- An element of an exchange arrives at the slot that takes it: it is swapped once the own module has issued the exchange, and
before that, or while the slot faults, it has no credit and is sent again (R358, R360). -/
def State.exchArrive (s : State) (c : Nat) (p : Packet) (target param : Dword) (j : Nat) (data : List FabByte) : State :=
  match s.exchMeets c p.sender.toNat target param with
  | none => s.unsee p
  | some (g, q, G, r) =>
    let x := s.exchOf r
    if !r.progress.open_ j || r.len ≤ j || data.length != x.z then s.unsee p
    else
      let (r', s) := s.swapElem g q G x r j data
      if ivlMem r'.moved j then s.emit (.answer p.sender p.seq true 0) else s.unsee p

/-- The request that a held one is, by its module and its number there. -/
def Deferred.isPacket (d : Deferred) (sender : BitVec 12) (seq : Nat) : Bool :=
  match d.ext with
  | some p => p.sender == sender && p.seq == seq
  | none => false

/-- A request is withdrawn (13 R222, R226): one that is held goes, and one that has not come yet is not performed any more (1);
one that has been answered is not undone (0). -/
def State.withdrawPacket (s : State) (p : Packet) (seq stamp : Nat) : State :=
  let done (s : State) (v : BitVec 128) : State := s.emit (.answer p.sender p.seq true v)
  if s.deferred.any fun d => d.isPacket p.sender seq then done (s.withdrawAt fun d => d.isPacket p.sender seq) 1
  else if s.fabric.seen.any fun x => x.1 == p.sender.toNat && x.2.1 == seq then done s 0
  else
    done { s with fabric := { s.fabric with seen := s.fabric.seen ++ [(p.sender.toNat, seq, stamp)] } } 1

/-- What each kind of request does in the context that its job names. -/
def State.performPacket (s : State) (c : Nat) (p : Packet) : State :=
  let rw : Need := ⟨true, true, false⟩
  let at_ (va : Dword) (n : Need) (f : Nat → State) : State :=
    match s.remoteKey c va n with
    | .inl key => f key
    | .inr x => s.remoteStop c p x
  let done (s : State) (v : BitVec 128) : State := s.emit (.answer p.sender p.seq true v)
  match p.op with
  | .load va size => at_ va ⟨true, false, false⟩ fun key =>
      let r := s.readAns key size
      done s (packAnswer r.1 r.2)
  | .store va size data => at_ va ⟨false, true, false⟩ fun key => done (s.homeWrite key size data.toNat) 0
  | .atomic op sg va size x cmp => at_ va rw fun key =>
      let (old, code, s) := s.homeAtomic op sg key size x.toNat cmp.toNat
      done s (packAnswer (BitVec.ofNat 128 old) code)
  | .futureWrite va v => at_ va rw fun key =>
      let (code, s) := s.homeFwr key v.toNat
      done s (packAnswer 0 code)
  | .futureRead va consume => at_ va rw fun key =>
      let (r, s) := s.homeFrd key consume
      s.answerPacket p key (.frd consume) 0 r
  | .ringClaim va n g => at_ va rw fun key =>
      let (r, s) := s.homeClaim key true n.toNat g (some p.sender)
      s.answerPacket p key .rclaim n.toNat r
  | .ringAwait va n g => at_ va rw fun key =>
      let (r, s) := s.homeClaim key false n.toNat g (some p.sender)
      s.answerPacket p key .rawait n.toNat r
  | .ringBind va => at_ va rw fun key =>
      s.answerPacket p key .rbind 0
        (if s.mem.poisoned key 64 then .poison key else if s.ringBad key then .fault causeRing else .value 0 0)
  | .ringBreak va g => at_ va rw fun key =>
      done (if s.holdsClaim key g (some p.sender) fun _ => false then s.breakRing key else s) 0
  | .ringCommit va t => at_ va rw fun key =>
      let (r, s) := s.homeCommit key true t.toNat
      s.answerPacket p key .rcommit 0 r
  | .ringRetire va t => at_ va rw fun key =>
      let (r, s) := s.homeCommit key false t.toNat
      s.answerPacket p key .rretire 0 r
  | .write parts ctr => s.performWrite c p parts ctr
  | .read va len =>
    (match s.remoteFault c va ⟨true, false, false⟩ len with
     | some f => s.remoteStop c p f
     | none =>
       s.emit (.answerBytes p.sender p.seq ((List.range len).map fun j =>
         match s.remoteKey c (va + BitVec.ofNat 64 j) ⟨true, false, false⟩ with
         | .inl key => if s.mem.poisoned key 1 then none else some (s.mem.byte key)
         | .inr _ => none)))
  | .counterWait va thr => at_ va rw fun key =>
      (match s.homeRwait key thr with
       | some (code, s) => done s (packAnswer 0 code)
       | none => s.answerPacket p key .rwait thr (if s.bufferRoom key then .waits else .full))
  | .ridge k v =>
    -- without feature 7 there are no system-scope ridge registers (R341, Table 23-2)
    if s.hostif.feat.getLsbD 7 then done { s with ridgeMsgs := s.ridgeMsgs ++ [{ ctx := c, k := k, val := v, dest := .peer }] } 0
    else s.emit (.answer p.sender p.seq false 0)
  | .exchange target param j data => s.exchArrive c p target param j data
  | .withdraw seq stamp => s.withdrawPacket p seq stamp

/-- System strikes in 1 ms (R352). -/
def lifetime : Nat := 500

/-- A stamp is older than the maximum packet lifetime. -/
def State.stale (s : State) (stamp : Nat) : Bool := decide (stamp + lifetime < s.sstrike.toNat)

/-- A group is resident on the chip. -/
def State.anyResident (s : State) : Bool := s.groups.any fun p => !p.2.retired && !p.2.saved

/-- The packet that an answer answers. -/
def Output.answers (x : Output) (p : Packet) : Bool :=
  match x with
  | .answer d q _ _ | .answerBytes d q _ | .answerFault d q _ | .receipt d q => d == p.sender && q == p.seq
  | .msix _ | .spdm _ _ _ | .pldm _ _ | .osFault _ _ _ | .osReport _ _ _ _ | .sysc _ _ _ | .osHalt _ _ _ _ _ _
  | .exchange _ _ _ _ | .pldmEvent _ | .dyrokRecord _ => false

/-- The packet has been received, and performed or held. -/
def State.hasSeen (s : State) (p : Packet) : Bool := s.fabric.seen.any fun x => x.1 == p.sender.toNat && x.2.1 == p.seq

/-- Remembers a packet, and forgets those that no module sends any more (R352). -/
def State.see (s : State) (p : Packet) : State :=
  let kept := s.fabric.seen.filter fun x => !s.stale x.2.2
  { s with fabric := { s.fabric with seen := kept ++ [(p.sender.toNat, p.seq, p.stamp)] } }

/-- Receives a packet (R349 to R352). One sent again is answered as before, and not performed again (R353). -/
def State.receive (s : State) (p : Packet) : State :=
  if s.stale p.stamp then s
  else if s.hasSeen p then
    match s.out.reverse.find? fun x => x.answers p with
    | some x => s.emit x
    | none => s
  else
    let s := (s.see p).tick
    match s.jobCtx p.job with
    | none => s.emit (.answer p.sender p.seq false 0)
    | some c => if (s.ctx c).st = .killing then s.emit (.answer p.sender p.seq false 0) else s.performPacket c p

/-- NET_PACKET_RECEIVE (R349): a module that sends is present in the fabric. While a role change holds requests, the packet is
held (25 R370, step 2). -/
def execNetPacketReceive (p : Packet) (s : State) : Host.Outcome State Fault Refusal :=
  s.event
    (if !s.fabric.aligned || s.fabric.ports == 0 || p.sender == s.node then none
     else
       let s := { s with fabric := { s.fabric with present := insertNat s.fabric.present p.sender.toNat } }
       if s.mgmt.role.isSome && !s.anyResident then
         some { s with fabric := { s.fabric with held := s.fabric.held ++ [p] } }
       else some (s.receive p))

/-- Packets held during a role change are performed in their order of arrival (25 R370). -/
def State.receiveHeld (s : State) : State :=
  s.fabric.held.foldl State.receive { s with fabric := { s.fabric with held := [] } }

/-! ## Answers to own packets -/

/-- The request that a packet belongs to. -/
def State.reqOf (s : State) (g q id : Nat) : Option (Gang × Req) :=
  (s.gang g).bind fun G => ((G.queue q).reqs.find? fun r => r.id == id).map fun r => (G, r)

/-- Records whether the receipt of a packet has been acknowledged. -/
def State.gotPacket (s : State) (id : Nat) (b : Bool) : State :=
  { s with fabric := { s.fabric with packets := KV.mod s.fabric.packets id fun p => { p with received := b } } }

/-- The answer to a packet takes effect: a value in [63:0] and a code above it. `none` for a GET, whose bytes come with
NET_GET. -/
def State.packetAnswered (s : State) (id : Nat) (p : PacketOut) (data : BitVec 128) : Option State :=
  match p.what with
  | .acc g o _ =>
    some (((s.dropPacket id).modGang g fun G =>
      G.onPacket o id fun op a =>
        if op.kind = .rbind then none
        else some (a.answered (data &&& 0xFFFFFFFFFFFFFFFF#128) (data.toNat / 2 ^ 64 % 512))).wake g)
  | .ridge _ _ _ | .ringBreak _ => some (s.dropPacket id)
  | .withdraw g o _ old => some (if data = 0 then s.gotPacket id true else s.withdrawn g o old)
  | .req g q r spans =>
    match s.reqOf g q r with
    | none => some (s.dropPacket id)
    | some (G, x) =>
      if x.opcode = 2 then none
      else some ((s.dropPacket id).putReq g q G { x with moved := ivlAll x.moved spans } none)

/-- NET_ACK_RECEIVE (R353): the receipt of a packet is acknowledged, after which it is neither sent again nor expires, or its
answer comes. -/
def execNetAckReceive (id : Nat) (data : Option (BitVec 128)) (s : State) : Host.Outcome State Fault Refusal :=
  s.event
    (match KV.find s.fabric.packets id with
     | none => none
     | some p =>
       if !s.fabric.aligned || !p.left then none
       else
         match data with
         | some d => s.packetAnswered id p d
         | none => some (s.gotPacket id true))

/-- The cause with which a refused request ends (R350, R351). -/
def refusalCause : RefusalKind → Nat
  | .refused => causeNode
  | .trans => causeTrans
  | .perm => causePerm
  | .ring => causeRing

/-- A request ends refused (R350, R351): accesses meet their fault; elements of a work request end with an ENGINE fault, or
with a translation or permission fault are stopped for the device OS (17 R262). -/
def State.refuse (s : State) (id : Nat) (why : RefusalKind) : Option State :=
  match KV.find s.fabric.packets id with
  | none => none
  | some p =>
    match p.what with
    | .acc g o _ =>
      some (((s.dropPacket id).modGang g fun G =>
        G.onPacket o id fun _ a => some { a with st := .fault (refusalCause why) }).wake g)
    | .ridge _ _ _ | .ringBreak _ => some (s.dropPacket id)
    -- its module does not answer any more: the request itself may expire
    | .withdraw _ _ _ old => some ((s.dropPacket id).gotPacket old false)
    | .req g q r spans =>
      match s.reqOf g q r with
      | none => some (s.dropPacket id)
      | some (G, x) =>
        let j := (spans.head?.map Prod.fst).getD 0
        let va := x.netFar j
        let s := s.dropPacket id
        some (match why with
          | .refused | .ring => s.putReq g q G (x.refuse spans causeEngine va) none
          | .trans | .perm =>
            s.putReq g q G { x with stopped := ivlAll x.stopped spans } (some (j, refusalCause why, va)))

/-- NET_REFUSAL_RECEIVE (R350, R351). -/
def execNetRefusalReceive (id : Nat) (why : RefusalKind) (s : State) : Host.Outcome State Fault Refusal :=
  s.event (if s.fabric.aligned then s.refuse id why else none)

/-- NET_RETRANSMIT_TIMEOUT (R353): a packet within its lifetime is sent again. -/
def execNetRetransmitTimeout (id : Nat) (s : State) : Host.Outcome State Fault Refusal :=
  s.event
    (match KV.find s.fabric.packets id with
     | none => none
     | some p =>
       if s.stale p.stamp || !s.fabric.aligned || !p.left || p.received then none
       else
         some { s with fabric := { s.fabric with packets := KV.set s.fabric.packets id { p with again := p.again + 1 } } })

/-- The context that a packet belongs to. -/
def State.packetCtx (s : State) (p : PacketOut) : Option Nat :=
  match p.what with
  | .acc g _ _ => (s.gang g).map Gang.ctx
  | .req g _ _ _ => (s.gang g).map Gang.ctx
  | .ridge c _ _ => some c
  | .ringBreak c => some c
  | .withdraw g _ _ _ => (s.gang g).map Gang.ctx

/-- A packet belongs to a context that is being killed. -/
def State.packetKilled (s : State) (p : PacketOut) : Bool :=
  match s.packetCtx p with
  | some c => (s.ctx c).st = .killing
  | none => true

/-- NET_PACKET_EXPIRY (R352): a request past its lifetime ends as a refusal does, and its path is recorded, but not under a
kill (11 Table 11-4). -/
def execNetPacketExpiry (id : Nat) (s : State) : Host.Outcome State Fault Refusal :=
  s.event
    (match KV.find s.fabric.packets id with
     | none => none
     | some p =>
       if !s.stale p.stamp || !p.left || p.received then none
       else if s.packetKilled p then (s.refuse id .refused)
       else (s.refuse id .refused).map fun s => s.logErr 0 6 0 0 none 0)

/-! ## Ports, time, jobs -/

/-- FABRIC_PORT_LINK_CHANGE (R353). -/
def execFabricPortLinkChange (p : Fin 8) (up : Bool) (s : State) : Host.Outcome State Fault Refusal :=
  let b := BitVec.twoPow 8 p.val
  let ports := if up then s.fabric.ports ||| b else s.fabric.ports &&& ~~~b
  .next { s with fabric := { s.fabric with ports := ports } }

/-- A packet formed while the module took no part in the fabric leaves, with the stamp of now (R349, R352). -/
def PacketOut.leave (p : PacketOut) (stamp : Nat) : PacketOut := if p.left then p else { p with left := true, stamp := stamp }

/-- PTP_SYNC_CHANGE (R352, R383). -/
def execPtpSyncChange (sync aligned : Bool) (s : State) : Host.Outcome State Fault Refusal :=
  let packets := if aligned then s.fabric.packets.map fun p => (p.1, p.2.leave s.sstrike.toNat) else s.fabric.packets
  .next { s with fabric := { s.fabric with synced := sync, aligned := aligned, packets := packets } }

/-- FABRIC_JOB_JOIN (R349). -/
def execFabricJobJoin (c : Nat) (job : Option (BitVec 16)) (s : State) : Host.Outcome State Fault Refusal :=
  s.event (if (s.ctx c).created then some (s.setCtx c { s.ctx c with job := job }) else none)

end Sys2Proof.Machine
end

