-- ==== Sys2Proof/Machine/Tasks.lean ====
section
/-! DEFINITION. Retirement of gangs, groups and launches (01 R39, R43, R44; 21 R327; 19 R319), the task store (19 R317, R318)
and the ridge unit (19 R300, R302). -/

namespace Sys2Proof.Machine

/-! ## Queues, charges, completion -/

/-- Applies a function to a launch queue. -/
def State.modQueue (s : State) (c q : Nat) (f : Queue → Queue) : State :=
  let C := s.ctx c
  s.setCtx c { C with queues := KV.set C.queues q (f (C.queue q)) }

/-- Deficits are held down to -2^62 (21 R327). -/
def floorDeficit (d : Int) : Int := max d (-(2 ^ 62))

/-- The charge of a group in core-cycles (21 R327). -/
def chargeFor (strikes gangs : Nat) : Nat := (strikes * gangs * 21 + 19) / 20

/-- Charges a group to its queue and its context (21 R327). -/
def State.chargeGroup (s : State) (c q n : Nat) : State :=
  let s := s.modQueue c q fun Q => { Q with deficit := floorDeficit (Q.deficit - n) }
  s.setCtx c { s.ctx c with deficit := floorDeficit ((s.ctx c).deficit - n) }

/-- A launch completes when every group of its own has retired and every task that descends from it has retired or been
removed; a launch of the host then produces its completion (01 R44, 19 R319, 23 R348). -/
def State.tryComplete (s : State) (l : Nat) : State :=
  match KV.find s.launches l with
  | none => s
  | some L =>
    if L.completed || L.task || decide (L.retired < L.total) ||
        (s.launches.any fun p => p.2.root == l && p.1 != l && !p.2.completed) then s
    else
      let s := { s with launches := KV.set s.launches l { L with completed := true } }
      match L.host with
      | some (q, head) => s.complete L.ctx q head compOk
      | none => s

/-- A task that has retired or been removed is complete, and the launch it descends from is looked at (19 R319). -/
def State.endTask (s : State) (l : Nat) : State :=
  match KV.find s.launches l with
  | none => s
  | some L =>
    ({ s with launches := KV.set s.launches l { L with completed := true } } : State).tryComplete L.root

/-! ## What a group holds on its core -/

/-- The granules that a gang holds: its segments and its lane-private region. -/
def Gang.holdings (G : Gang) : List Nat := G.priv ++ G.segs.flatMap fun p => (List.range p.2).map fun j => p.1 + j

/-- The granules that a group holds. -/
def State.holdings (s : State) (G : Group) : List Nat :=
  G.pool ++ G.scratch ++ G.share ++ G.gangs.flatMap fun g => ((s.gang g).map Gang.holdings).getD []

/-- Claims of every group of a core are examined when granules return to the core's free pool (01 R38). -/
def State.coreClaims (s : State) (core : Nat) : State :=
  s.groups.foldl (fun s p => if p.2.core = core && p.2.resident then s.claimsSoon p.1 else s) s

/-- A group that no longer stands on its core frees its granules, barriers and quad slots (01 R39, R44; 17 R283), and the
core discards its ridge copies of a context with no other group there (19 R302). -/
def State.leaveCore (s : State) (gr : Nat) (G : Group) : State :=
  let C := s.core G.core
  let mine := s.holdings G
  let others := s.groups.any fun p => p.1 != gr && p.2.core == G.core && p.2.ctx == G.ctx && p.2.resident
  let C : Core :=
    { C with
      owned := C.owned.filter fun a => !mine.contains a
      bars := C.bars.filter fun a => !G.bars.contains a
      quads := C.quads.filter fun a => !G.quads.contains a
      ridge := if others then C.ridge else C.ridge.filter fun p => p.1 / 16 != G.ctx }
  (s.setCore G.core C).coreClaims G.core

/-! ## Retirement -/

/-- A retired gang: its granules are its group's (01 R39). -/
def Gang.retire (G : Gang) : Gang :=
  { G with st := .retired, segs := [], priv := [], v := [], pend := [], ops := [], queues := [], binds := [] }

/-- The tags of the queued children of a gang are made invalid (19 R318). -/
def State.untag (s : State) (g : Nat) : State :=
  { s with launches := s.launches.map fun p =>
      if p.2.parent = some g && p.2.placed = 0 then (p.1, { p.2 with tag := none }) else p }

/-- A group retires: its queue is charged, and all that it holds is freed (01 R44, R39; 21 R327). -/
def State.retireGroup (s : State) (gr : Nat) : State :=
  match s.group gr with
  | none => s
  | some G =>
    let s := s.leaveCore gr G
    let s := s.setGroup gr { G with retired := true, pool := [], scratch := [], share := [], bars := [], quads := [], claims := [] }
    match KV.find s.launches G.launch with
    | none => s
    | some L =>
      let s := s.chargeGroup G.ctx L.params.queue (chargeFor G.strikes G.gangs.length)
      let L := { L with retired := L.retired + 1 }
      let s := { s with launches := KV.set s.launches G.launch L }
      if L.task then s.endTask G.launch else s.tryComplete G.launch

/-- Every gang of a group has retired. -/
def State.allRetired (s : State) (G : Group) : Bool :=
  G.gangs.all fun g => match s.gang g with
    | some H => H.st = .retired
    | none => true

/-- GANG_RETIRE (01 R39, R43): partners of a quad that wait for the gang fault (15 R249), and waiting claims are examined. -/
def execGangRetire (g : Nat) (s : State) : Host.Outcome State Fault Refusal :=
  s.event
    (match s.gang g with
     | none => none
     | some G =>
       match s.group G.group with
       | none => none
       | some gr =>
         if !G.mayRetire || gr.saved then none
         else
           let s := s.modGroup G.group fun gr => { gr with pool := G.holdings.foldl insertNat gr.pool }
           let s := s.setGang g G.retire
           let s := s.untag g
           let s := (s.quadGangs G).foldl (fun s h => s.quadFault h) s
           let s := s.claimsSoon G.group
           match s.group G.group with
           | none => some s
           | some gr => some (if s.allRetired gr then s.retireGroup G.group else s))

/-! ## The task store (19 R317, R318) -/

/-- Tasks queued in a context: those not yet placed. -/
def State.queuedTasks (s : State) (c : Nat) : Nat :=
  (s.launches.filter fun p => p.2.ctx == c && p.2.task && !p.2.completed && p.2.placed == 0).length

/-- A task record as the 16 words of a lane (Table 19-6). -/
structure TaskRec where
  entry : Dword
  args  : List Dword
  bound : Word
  flags : Word
  tail  : Dword

/-- The task record in v<base> to v<base+15> of a lane. -/
def Gang.taskRec (G : Gang) (base lane : Nat) : TaskRec :=
  let w (j : Nat) : Word := G.vreg (base + j) lane
  let d (j : Nat) : Dword := w (j + 1) ++ w j
  { entry := d 0, args := [d 2, d 4, d 6, d 8], bound := w 10, flags := w 11, tail := d 14 }

/-- A malformed task record: a nonzero Resv field, or an entry PC outside its range (log 13). -/
def TaskRec.malformed (t : TaskRec) : Bool :=
  (t.flags &&& 0xFFFFE070#32) != 0 || t.tail != 0 || !legalPc t.entry

/-- The queue that a task record names. -/
def TaskRec.queue (t : TaskRec) : Nat := (t.flags.extractLsb' 8 5).toNat

/-- The ridge binding that a task record names. -/
def TaskRec.ridge (t : TaskRec) : Option (Fin 16) :=
  if t.flags.getLsbD 7 then some (Fin.ofNat 16 (t.flags.extractLsb' 0 4).toNat) else none

/-- The scope bound to the top level of a launch (01 R19). -/
def LaunchParams.topScope (p : LaunchParams) : Scope := (p.levels.getLast?.map Level.scope).getD .core

/-- What a task takes from its parent's launch and from its record (19 R318): one group of one gang, whose first instruction
acquires at the scope of the launch's top level (11 Table 11-3; log 13). -/
def LaunchParams.task (p : LaunchParams) (t : TaskRec) : LaunchParams :=
  { p with
    prot := false, queue := t.queue, entry := t.entry, pool := 0, barriers := 0, scratch := 0, shared := 0
    levels := (p.levels.take 3) ++ [{ domain := 3, scope := p.topScope, extent := 1 }]
    bound := t.bound, ridge := t.ridge, roles := [], args := t.args }

/-- Puts a launch at the tail of its queue. -/
def State.enqueue (s : State) (L : Launch) : State :=
  let s' : State := { s with launches := KV.set s.launches s.nextLaunch L, nextLaunch := s.nextLaunch + 1 }
  (s'.modQueue L.ctx L.params.queue fun Q => { Q with units := Q.units ++ [s.nextLaunch] }).testWaits

/-- A lane of a waiting `spawn` has been answered. -/
def Gang.spawnStep (G : Gang) (k lane : Nat) (mal bad : Bool) : Gang :=
  let b := BitVec.twoPow 32 lane
  { G with splits := KV.mod G.splits k fun sp =>
      match sp.wait with
      | .spawn base todo m x =>
        { sp with wait := .spawn base (todo &&& ~~~b) (if mal then m ||| b else m) (if bad then x ||| b else x) }
      | _ => sp }

/-- The task that a record asks for. -/
def State.newTask (s : State) (g : Nat) (G : Gang) (lane : Nat) (t : TaskRec) : Option Launch :=
  match s.group G.group with
  | none => none
  | some gr =>
    (KV.find s.launches gr.launch).map fun P =>
      { ctx := G.ctx, inc := G.inc, params := P.params.task t, events := [], tag := some (G.laneTag lane), task := true
        root := P.root, parent := some g, host := none, total := 1, placed := 0, retired := 0, pins := []
        completed := false }

/-- TASK_ACCEPT (19 R317): the record of a lane is accepted, or rejected. The release of the `spawn` comes first. -/
def execTaskAccept (g sp lane : Nat) (s : State) : Host.Outcome State Fault Refusal :=
  s.event
    (match s.gang g with
     | none => none
     | some G =>
       match KV.find G.splits sp with
       | none => none
       | some x =>
         match x.wait with
         | .spawn base todo _ _ =>
           if !todo.getLsbD lane || !G.released x.slices .chip G.nextOp || G.st = .saved then none
           else
             let t := G.taskRec base lane
             if t.malformed then some ((s.setGang g (G.spawnStep sp lane true false)).wake g)
             else if !((s.ctx G.ctx).queue t.queue).enable then some ((s.setGang g (G.spawnStep sp lane false true)).wake g)
             else if 8192 ≤ s.queuedTasks G.ctx then none
             else
               (s.newTask g G lane t).map fun L => ((s.setGang g (G.spawnStep sp lane false false)).enqueue L).wake g
         | _ => none)

/-- Takes a launch out of its queue. -/
def State.unqueue (s : State) (l : Nat) (L : Launch) : State :=
  (s.modQueue L.ctx L.params.queue fun Q => { Q with units := Q.units.filter fun u => u != l }).testWaits

/-- TASK_REMOVAL (19 R318): the queued tasks whose tag is valid and equal to that of the cancelled lane. -/
def execTaskRemoval (j : Nat) (s : State) : Host.Outcome State Fault Refusal :=
  s.event
    (match s.removals[j]? with
     | none => none
     | some r =>
       let s := { s with removals := s.removals.eraseIdx j }
       some (s.launches.foldl (fun s p =>
         if p.2.ctx == r.ctx && p.2.task && !p.2.completed && p.2.placed == 0 && p.2.tag == some r.tag then
           (s.unqueue p.1 p.2).endTask p.1
         else s) s))

/-! ## The ridge unit (19 R300 to R303) -/

/-- Cores that hold the ridge copies of a context: those with a resident group of it. -/
def State.ridgeCores (s : State) (c : Nat) : List Nat :=
  s.groups.foldl (fun l p => if p.2.ctx = c && p.2.resident then insertNat l p.2.core else l) []

/-- Replaces the value of a ridge register at the ridge unit. -/
def State.setRidge (s : State) (c : Nat) (k : Fin 16) (r : Ridge) : State :=
  let C := s.ctx c
  s.setCtx c { C with ridges := KV.set C.ridges k.val r }

/-- Sends a changed value to the copies of the chip. -/
def State.broadcast (s : State) (c : Nat) (k : Fin 16) (v : Word) : State :=
  { s with ridgeMsgs := s.ridgeMsgs ++ (s.ridgeCores c).map fun core => { ctx := c, k := k, val := v, dest := .copy core } }

/-- Sends a changed value to the ridge units of the other modules that run the context (23 Table 23-2, bit 7). -/
def State.broadcastOut (s : State) (c : Nat) (k : Fin 16) (v : Word) : State :=
  if s.hostif.feat.getLsbD 7 && s.fabric.aligned then
    s.fabric.present.foldl (fun s n =>
      match s.send c n true (.ridge c k v) (.ridge k v) with
      | some (_, s) => s
      | none => s) s
  else s

/-- RIDGE_OFFER_ACCEPT (19 R302): an offer is accepted on arrival; a change is sent on. -/
def execRidgeOfferAccept (j : Nat) (s : State) : Host.Outcome State Fault Refusal :=
  s.event
    (match s.ridgeMsgs[j]? with
     | none => none
     | some m =>
       if m.dest ≠ .offer then none
       else
         let s := { s with ridgeMsgs := s.ridgeMsgs.eraseIdx j }
         let r := (s.ctx m.ctx).ridge m.k.val
         let v := better r.cfg.isMax r.val m.val
         if !r.cfg.enable || v = r.val then some s
         else
           let s := (s.setRidge m.ctx m.k { r with val := v }).broadcast m.ctx m.k v
           some (if r.cfg.system then s.broadcastOut m.ctx m.k v else s))

/-- A copy of a core applies a value (19 R302); a core without copies drops it. -/
def State.copyApply (s : State) (core : Nat) (m : RidgeMsg) : State :=
  let C := s.core core
  let key := m.ctx * 16 + m.k.val
  match KV.find C.ridge key with
  | none => s
  | some old => s.setCore core { C with ridge := KV.set C.ridge key (better ((s.ctx m.ctx).ridge m.k.val).cfg.isMax old m.val) }

/-- RIDGE_COPY_UPDATE (19 R302): a copy, or the ridge unit for a value of another module's, applies Better. A changed value of
the unit goes to the copies of the chip. A value of another module's for a register that is of chip scope here, or not
enabled, is discarded: the spec names no such case (DESIGN CHOICE, log 28). -/
def execRidgeCopyUpdate (j : Nat) (s : State) : Host.Outcome State Fault Refusal :=
  s.event
    (match s.ridgeMsgs[j]? with
     | none => none
     | some m =>
       let s := { s with ridgeMsgs := s.ridgeMsgs.eraseIdx j }
       match m.dest with
       | .offer => none
       | .copy core => some (s.copyApply core m)
       | .peer =>
         let r := (s.ctx m.ctx).ridge m.k.val
         let v := better r.cfg.isMax r.val m.val
         if !r.cfg.enable || !r.cfg.system || v = r.val then some s
         else some ((s.setRidge m.ctx m.k { r with val := v }).broadcast m.ctx m.k v))

/-- A group of the context is resident. -/
def State.ctxResident (s : State) (c : Nat) : Bool := s.groups.any fun p => p.2.ctx == c && p.2.resident

/-- RIDGE_CONFIGURE (19 R300): while no group of the context is resident; system scope needs feature 7 (23 R341). -/
def execRidgeConfigure (c : Nat) (k : Fin 16) (r : RidgeCfg) (s : State) : Host.Outcome State Fault Refusal :=
  s.event
    (if !(s.ctx c).created || s.ctxResident c || (r.system && !s.hostif.feat.getLsbD 7) then none else some (s.setRidge c k { cfg := r, val := r.start }))

end Sys2Proof.Machine
end

