-- ==== Sys2Proof/Machine/Placement.lean ====
section
/-! DEFINITION. Placement (01 R16, R21 to R25; 21 R325, R326, R328), the restore of saved groups (17 R284), launch queue
descriptors (21 R322) and carve-outs (11 R180). -/

namespace Sys2Proof.Machine

/-! ## Granules of a core -/

/-- The set of granules a core has given out, as a number whose bit a stands for granule a. -/
def granuleSet (l : List Nat) : Nat := l.foldl (fun m a => m ||| 2 ^ a) 0

/-- Whether n granules from a are free (01 R22: granules 256 to 2,047). -/
def runFree (set a n : Nat) : Bool := decide (256 ≤ a) && decide (a + n ≤ 2048) && set / 2 ^ a % 2 ^ n == 0

/-- What a group needs of a core (01 R23), by gang where each gang needs its own. -/
structure Needs where
  segs    : List (List Nat)
  privs   : List Nat
  scratch : Nat
  share   : Nat
  pool    : Nat
  quads   : Nat
  bars    : Nat
  /-- Entries of the clamp table, of a saved group whose engine operations are not complete (11 R199). -/
  clamps  : Nat := 0

/-- Where a group's holdings lie. -/
structure Alloc where
  segs    : List (List (List Nat))
  privs   : List (List Nat)
  scratch : List Nat
  share   : List Nat
  pool    : List Nat
  quads   : List Nat
  bars    : List Nat

/-- The numbers below n that a list does not hold. -/
def freeOf (n : Nat) (l : List Nat) : List Nat := (List.range n).filter fun a => !l.contains a

/-- Runs of one size that a group still needs: the multiple at which each begins, the size, and the runs by number. -/
structure Kind where
  align : Nat
  size  : Nat
  ids   : List Nat

/-- Adds a run to the kinds. -/
def addKind (align size id : Nat) : List Kind → List Kind
  | [] => [{ align := align, size := size, ids := [id] }]
  | k :: rest =>
    if k.align = align && k.size = size then { k with ids := k.ids ++ [id] } :: rest else k :: addKind align size id rest

/-- Gives every run of a list of kinds a place at or after granule `at_`, in every order that there is: at each granule a run
that fits there begins, or none does (01 R23). The first that succeeds is taken (log 14). The first argument bounds the
granules and runs left. -/
def packRuns (set : Nat) : Nat → Nat → List Kind → Option (List (Nat × Nat))
  | 0, _, ks => if ks.isEmpty then some [] else none
  | n + 1, at_, ks =>
    if ks.isEmpty then some []
    else
      let here := (List.range ks.length).findSome? fun i =>
        match ks[i]? with
        | none => none
        | some k =>
          if at_ % k.align ≠ 0 || !runFree set at_ k.size then none
          else
            match k.ids with
            | [] => none
            | [id] => (packRuns set n (at_ + k.size) (ks.eraseIdx i)).map fun l => (id, at_) :: l
            | id :: more => (packRuns set n (at_ + k.size) (ks.set i { k with ids := more })).map fun l => (id, at_) :: l
      match here with
      | some l => some l
      | none => if at_ < 2048 then packRuns set n (at_ + 1) ks else none

/-- The runs that a group needs, in order: of each gang its segments and its lane-private region, then its scratchpad and its
share; each with its alignment and size. -/
def Needs.runs (n : Needs) : List (Nat × Nat) :=
  (n.segs.flatten.map fun k => (4, k)) ++ (n.privs.map fun k => (1, k)) ++ [(1, n.scratch), (1, n.share)]

/-- The runs of each gang's segments, from the list of all of them. -/
def deal : List (List Nat) → List (List Nat) → List (List (List Nat))
  | [], _ => []
  | l :: rest, runs => runs.take l.length :: deal rest (runs.drop l.length)

/-- Fits a group on a core (01 R23): every condition at one moment. A group whose granules are not free in number fits
nowhere. -/
def Core.fit (C : Core) (n : Needs) : Option Alloc :=
  let quads := (freeOf 16 C.quads).take n.quads
  let bars := (freeOf 64 C.bars).take n.bars
  let set := granuleSet C.owned
  let free := ((List.range 1792).map fun j => 256 + j).filter fun g => !Nat.testBit set g
  let runs := n.runs
  if quads.length < n.quads || 32 < C.clamps.length + n.clamps || bars.length < n.bars || free.length < (runs.map Prod.snd).sum + n.pool then none
  else
    let kinds := runs.zipIdx.foldl (fun ks r => if r.1.2 = 0 then ks else addKind r.1.1 r.1.2 r.2 ks) []
    (packRuns set (2048 + runs.length) 256 kinds).map fun places =>
      let run (i : Nat) : List Nat :=
        match places.find? fun p => p.1 = i with
        | some p => (List.range ((runs[i]?.map Prod.snd).getD 0)).map fun j => p.2 + j
        | none => []
      let all := (List.range runs.length).map run
      let nsegs := n.segs.flatten.length
      let taken := granuleSet all.flatten
      { segs := deal n.segs (all.take nsegs), privs := (all.drop nsegs).take n.privs.length
        scratch := all.getD (nsegs + n.privs.length) [], share := all.getD (nsegs + n.privs.length + 1) []
        pool := (free.filter fun g => !Nat.testBit taken g).take n.pool, quads := quads, bars := bars }

/-! ## What a new group needs (01 R23) -/

/-- Gangs per group. -/
def LaunchParams.gangs (p : LaunchParams) : Nat := (p.levels[3]?.map Level.extent).getD 1

/-- Hardware slices per gang. -/
def LaunchParams.slices (p : LaunchParams) : Nat := (p.levels[2]?.map Level.extent).getD 1

/-- Groups of a launch in all. -/
def LaunchParams.total (p : LaunchParams) : Nat := (p.levels.drop 4).foldl (fun n l => n * l.extent) 1

/-- The needs of a new group. -/
def LaunchParams.needs (p : LaunchParams) : Needs :=
  { segs := List.replicate p.gangs [(p.vregs + 7) / 8]
    privs := List.replicate p.gangs ((p.priv * (4 * p.slices) + 1023) / 1024)
    scratch := (p.scratch + 1023) / 1024, share := p.shareBytes / 1024, pool := p.pool, quads := (p.gangs + 3) / 4
    bars := p.barriers }

/-- The needs of a saved group (17 R283, R284). -/
def State.savedNeeds (s : State) (G : Group) : Needs :=
  { segs := G.gangs.map fun g => ((s.gang g).map fun H => H.segs.map Prod.snd).getD []
    privs := G.gangs.map fun g => ((s.gang g).map fun H => H.priv.length).getD 0
    scratch := G.scratch.length, share := G.share.length, pool := G.pool.length, quads := G.quads.length
    bars := G.bars.length
    clamps := ((s.core savedCore).clamps.filter fun e => G.gangs.contains e.gang).length }

/-! ## Preferences (21 R328, Table 21-2) -/

/-- The temperature of a sensor in quarter degrees; a voted-out one reads 5 degrees above the model (21 R337). -/
def Sensor.temp (x : Sensor) : Int := if x.voted then x.model + 20 else x.reading

/-- A sensor: 2 x bent + (0 top, 1 bottom), bents numbered 4k + bent over all eight layers in the order of 25 R373 (log 15). -/
def State.sensor (s : State) (i : Nat) : Sensor := KV.get s.mgmt.sensors i Sensor.init

/-- The higher reading of a bent's two, in quarter degrees. -/
def State.bentTemp (s : State) (b : Nat) : Int := max (s.sensor (2 * b)).temp (s.sensor (2 * b + 1)).temp

/-- The temperature of a bent: the higher of its two, rounded down to a degree (21 Table 21-2). -/
def State.bentDeg (s : State) (b : Nat) : Int := s.bentTemp b / 4

/-- The keys of Table 21-2 for a bent. -/
def State.bentKey (s : State) (b : Nat) : Nat × Int × Nat × Nat :=
  let B := s.bent b
  (if B.hot.isSome then 1 else 0, s.bentDeg b, B.last, b)

/-- Whether one bent is preferred to another. -/
def keyLess (x y : Nat × Int × Nat × Nat) : Bool :=
  decide (x.1 < y.1) || (x.1 == y.1 &&
    (decide (x.2.1 < y.2.1) || (x.2.1 == y.2.1 &&
      (decide (x.2.2.1 < y.2.2.1) || (x.2.2.1 == y.2.2.1 && decide (x.2.2.2 < y.2.2.2))))))

/-- The preferred of a list of bents. -/
def State.bestBent (s : State) : List Nat → Option Nat
  | [] => none
  | b :: r =>
    match s.bestBent r with
    | none => some b
    | some c => if keyLess (s.bentKey c) (s.bentKey b) then some c else some b

/-- The bents that may take a unit: those of the profile, or of one layer (01 R24). -/
def State.bentsFor (s : State) (layer : Option Nat) : List Nat :=
  (List.range (activeCores s.profile / 8)).filter fun b =>
    match layer with
    | some k => b / 4 == k
    | none => true

/-- The cores of a bent in order. -/
def coresOf (b : Nat) : List Nat := (List.range 8).map fun j => 8 * b + j

/-- Gives the groups of a frame to distinct cores of a bent, lowest numbers first; a choice that leaves a later group without
a core is taken back. -/
def State.fitFrame (s : State) : List Needs → List Nat → Option (List (Nat × Alloc))
  | [], _ => some []
  | n :: rest, cores =>
    cores.findSome? fun c =>
      match (s.core c).fit n with
      | some a => (s.fitFrame rest (cores.filter fun x => x != c)).map fun l => (c, a) :: l
      | none => none

/-- Where a unit of groups goes: one group on the preferred core that fits, a frame on the preferred bent that fits. -/
def State.chooseCores (s : State) (layer : Option Nat) (frame : Bool) (needs : List Needs) : Option (List (Nat × Alloc)) :=
  let fits (b : Nat) : Option (List (Nat × Alloc)) :=
    if frame then s.fitFrame needs (coresOf b)
    else
      match needs with
      | [n] => ((coresOf b).findSome? fun c => ((s.core c).fit n).map fun a => (c, a)).map fun x => [x]
      | _ => none
  let ok := (s.bentsFor layer).filter fun b => (fits b).isSome
  (s.bestBent ok).bind fits

/-! ## Placing -/

/-- Slices per mask bit. -/
def sliceBits (n : Nat) : BitVec 8 := BitVec.ofNat 8 (2 ^ n - 1)

/-- The role of a gang of a group (01 Table 1-5). -/
def LaunchParams.roleOf (p : LaunchParams) (j : Nat) : BitVec 2 :=
  match p.roles.findIdx? fun r => decide (r.1 ≤ j) && decide (j ≤ r.2) with
  | some i => BitVec.ofNat 2 i
  | none => 0

/-- A gang as it is placed (01 Table 1-5; 03 R64; 17 R293; 19 R297). -/
def LaunchParams.gang (p : LaunchParams) (c : Nat) (inc : BitVec 12) (group j slot core : Nat) (tag : Option Word)
    (segs : List (List Nat)) (priv : List Nat) : Gang :=
  let lanes := (if p.prot then 2 else 4) * p.slices
  let live := BitVec.ofNat 32 (2 ^ lanes - 1)
  let sl := sliceBits p.slices
  let sp : Split :=
    { slices := sl, pc := p.entry, ipc := p.entry, st := .ready, wait := .none, seg := false, age := 0, recs := [],
      toOs := false, fetch := false, answer := none }
  { ctx := c, inc := inc, group := group, idx := j, slot := slot, core := core, st := .resident, prot := p.prot
    nslices := p.slices, privBytes := p.priv, handler := p.handler, limit := p.watchdog, scope := p.levelScope 3
    live := live, role := p.roleOf j
    segs := segs.filterMap fun l => l.head?.map fun a => (a, l.length)
    priv := priv
    s := (p.args.zipIdx.foldl (fun m x => KV.put 0 m x.2 x.1) [])
    m := KV.put 0 [] 0 live, v := []
    bnd := (List.range lanes).foldl (fun m i => KV.put 0 m i p.bound) []
    alt := [], mode := 0, stat := 0, pend := [], ops := [], nextOp := 0, splits := [(0, sp)], arrs := [], wd := 0
    trap := none, held := [], tile := none, seq := 1, copies := [], queues := []
    member := p.frameGroups.isSome && decide (0 < p.shared)
    binds := [], tt := [], bt := [], search := [], ridge := p.ridge, tag := tag }

/-- Marks what a group takes of its core, and loads the ridge copies of its context where there are none (19 R302). -/
def State.occupy (s : State) (core c : Nat) (a : Alloc) : State :=
  let C := s.core core
  let taken := a.segs.flatten.flatten ++ a.privs.flatten ++ a.scratch ++ a.share ++ a.pool
  let ridge :=
    if C.ridge.any fun p => p.1 / 16 == c then C.ridge
    else (List.range 16).foldl (fun m k => KV.set m (c * 16 + k) ((s.ctx c).ridge k).val) C.ridge
  s.setCore core
    { C with
      owned := taken.foldl insertNat C.owned, held := insertNat C.held c, bars := a.bars.foldl insertNat C.bars
      quads := a.quads.foldl insertNat C.quads, ridge := ridge }

/-- The gang slot of gang j whose group holds these quad slots (01 R16). -/
def slotOf (quads : List Nat) (j : Nat) : Nat := 4 * quads.getD (j / 4) 0 + j % 4

/-- Places one new group of a launch (01 R21); its first instructions acquire at the scope of the top level (11 Table
11-3). -/
def State.placeNew (s : State) (l : Nat) (L : Launch) (frame : Option Nat) (index serial core : Nat) (a : Alloc) : State :=
  let p := L.params
  let gr := s.nextGroup
  let s := s.occupy core L.ctx a
  let ids := (List.range p.gangs).map fun j => s.nextGang + j
  let G : Group :=
    { ctx := L.ctx, inc := L.inc, launch := l, frame := frame, index := index, serial := serial, core := core
      quads := a.quads, bars := a.bars, gangs := ids, pool := a.pool, scratch := a.scratch, share := a.share, claims := []
      barriers := [], abandoned := false, strikes := 0, saved := false, saving := false, retired := false }
  let gangs := (List.range p.gangs).foldl (fun m j =>
    KV.set m (s.nextGang + j)
      (p.gang L.ctx L.inc gr j (slotOf a.quads j) core L.tag (a.segs.getD j []) (a.privs.getD j []))) s.gangs
  let s' : State :=
    { s with
      gangs := gangs, groups := KV.set s.groups gr G, nextGroup := gr + 1, nextGang := s.nextGang + p.gangs }
  s'.acquire core p.topScope

/-- Groups in one instance of the level that names the layer domain; 0 without one (01 R24). -/
def LaunchParams.layerSpan (p : LaunchParams) : Nat :=
  match (p.levels.drop 4).findIdx? fun l => l.domain == 5 with
  | some i => ((p.levels.drop 4).take (i + 1)).foldl (fun n l => n * l.extent) 1
  | none => 0

/-- The layer that confines group `serial` of a launch, if its instance has one that still computes. Of one that computes no more
after a role change the spec does not say: its next group is confined to no layer, and the instance to the layer of that group
(DESIGN CHOICE, log 14). -/
def State.pinOf (s : State) (L : Launch) (serial : Nat) : Option Nat :=
  let span := L.params.layerSpan
  if span = 0 then none
  else
    match KV.find L.pins (serial / span) with
    | some k => if k < activeCores s.profile / 32 then some k else none
    | none => none

/-- Records the layer of the instance of group `serial`. -/
def Launch.pin (L : Launch) (serial core : Nat) : Launch :=
  let span := L.params.layerSpan
  if span = 0 then L else { L with pins := KV.set L.pins (serial / span) (core / 32) }

/-- The cores that the next unit of a launch would take. -/
def State.unitFit (s : State) (L : Launch) : Option (List (Nat × Alloc)) :=
  let n := L.params.frameGroups.getD 1
  s.chooseCores (s.pinOf L L.placed) L.params.frameGroups.isSome (List.replicate n L.params.needs)

/-- Places the next unit of the launch at the head of a queue (01 R24, R25); a launch with nothing left to place leaves its
queue. -/
def State.placeUnit (s : State) (l : Nat) (L : Launch) : Option State :=
  match s.unitFit L with
  | none => none
  | some cores =>
    let frame := if L.params.frameGroups.isSome then some s.nextGroup else none
    let s := cores.zipIdx.foldl (fun s x =>
      s.placeNew l L frame (if frame.isSome then x.2 else L.placed) (L.placed + x.2) x.1.1 x.1.2) s
    let L := match cores.head? with
      | some x => L.pin L.placed x.1
      | none => L
    let L := { L with placed := L.placed + cores.length }
    let s := { s with launches := KV.set s.launches l L }
    some (if L.total ≤ L.placed then s.unqueue l L else s)

/-! ## Saved groups (17 R284) -/

/-- The saved groups that return together: a frame, or one group. -/
def State.savedUnit (s : State) (gr : Nat) (G : Group) : List (Nat × Group) :=
  match G.frame with
  | some f => s.groups.filter fun p => p.2.frame == some f && p.2.saved
  | none => [(gr, G)]

/-- Moves the clamp entries of a gang from one core to another. -/
def State.moveClamps (s : State) (g src dst : Nat) : State :=
  let C := s.core src
  let mine := C.clamps.filter fun e => e.gang == g
  if mine.isEmpty then s
  else
    let s := s.setCore src { C with clamps := C.clamps.filter fun e => e.gang != g }
    let D := s.core dst
    s.setCore dst { D with clamps := D.clamps ++ mine }

/-- An access of a restored gang that has not reached its home: it is issued again, and its address translated again (13
R222, R226; 17 Table 17-3). -/
def Acc.again (a : Acc) : Acc :=
  match a.place with
  | some (.hbm _) => { a with st := .xlate, place := none }
  | some (.carve _ _) | some (.scratch _ _) | some (.share _ _) | some (.priv _ _ _) | some (.reg _) | some (.remote _) =>
    { a with st := .ready }
  | none => { a with st := .xlate }

/-- What of an instruction's accesses is issued again: those on their way, and those that the save withdrew. -/
def Op.again (op : Op) : Op :=
  { op with accs := op.accs.map fun p =>
      (p.1, match p.2.st with
        | .ready | .refused => p.2.again
        | .sent _ | .xlate | .waiting | .performed | .fault _ => p.2) }

/-- A gang as it returns to a core, with its new granules; the wait it was in is made again, withdrawn requests and waits are
issued again, and a quad instruction waits again (15 Table 15-7). -/
def Gang.restore (G : Gang) (core slot : Nat) (segs : List (List Nat)) (priv : List Nat) : Gang :=
  { G with
    core := core, slot := slot, priv := priv
    segs := segs.filterMap fun l => l.head?.map fun a => (a, l.length)
    st := if G.st = .saved then (if G.trap.isSome then .trap else .resident) else G.st
    splits := G.splits.map fun p =>
      (p.1, if p.2.st = .faultpark then p.2 else { p.2 with wait := p.2.wait.restart })
    ops := G.ops.map fun p =>
      (p.1, { p.2.again with mat := p.2.mat.map fun m => { m with waited := m.waited.map fun _ => 0 } }) }

/-- Restores one saved group on a core. The L1 of a core that a gang comes to holds nothing that the gang has read or
written (log 16). -/
def State.restoreGroup (s : State) (gr : Nat) (G : Group) (core : Nat) (a : Alloc) : State :=
  let s := s.occupy core G.ctx a
  let C := s.core core
  let s := s.setCore core { C with l1 := [] }
  let s := s.setGroup gr
    { G with
      core := core, quads := a.quads, bars := a.bars, pool := a.pool, scratch := a.scratch, share := a.share
      saved := false, saving := false }
  G.gangs.zipIdx.foldl (fun s x =>
    (s.moveClamps x.1 savedCore core).modGang x.1 fun H =>
      H.restore core (slotOf a.quads x.2) (a.segs.getD x.2 []) (a.privs.getD x.2 [])) s

/-- The reports that the device OS answered while a group was saved are replayed or delivered at once (17 R284). -/
def State.answerGroup (s : State) (G : Group) : State :=
  G.gangs.foldl (fun s g =>
    match s.gang g with
    | none => s
    | some H => H.splits.foldl (fun s p => s.answerSplit g p.1) s) s

/-- Places the first saved unit of a context that fits. -/
def State.restoreUnit (s : State) : List (Nat × Group) → Option (State × Bool)
  | [] => none
  | (gr, G) :: rest =>
    let unit := s.savedUnit gr G
    let layer := (KV.find s.launches G.launch).bind fun L => s.pinOf L G.serial
    match s.chooseCores layer G.frame.isSome (unit.map fun p => s.savedNeeds p.2) with
    | none => s.restoreUnit rest
    | some cores =>
      let s := (unit.zip cores).foldl (fun s x => s.restoreGroup x.1.1 x.1.2 x.2.1 x.2.2) s
      let s := unit.foldl (fun s x => ((s.answerGroup x.2).wakeGroup x.1).claimsSoon x.1) s
      some (s, G.frame.isSome)

/-- The saved groups of a context. -/
def State.savedOf (s : State) (c : Nat) : List (Nat × Group) := s.groups.filter fun p => p.2.ctx == c && p.2.saved

/-- Places saved units of a context as long as one fits. -/
def State.restoreAll (c : Nat) : Nat → State → State
  | 0, s => s
  | n + 1, s =>
    match s.restoreUnit (s.savedOf c) with
    | some (s, _) => State.restoreAll c n s
    | none => s

/-! ## Arbitration (21 R325, R326) -/

/-- The launch at the head of a queue, when every wait event of it is satisfied (21 R324). -/
def State.eligibleHead (s : State) (c q : Nat) : Option (Nat × Launch) :=
  match s.headUnit c q with
  | none => none
  | some l =>
    match KV.find s.launches l with
    | some L => if L.events.all fun e => e.sat then some (l, L) else none
    | none => none

/-- The queues of a context that have a class. -/
def State.queuesOf (s : State) (c cls : Nat) : List Nat :=
  ((s.ctx c).queues.filter fun p => p.2.cls.val == cls).map Prod.fst

/-- A context that may be a candidate: LIVE, with no saved group left (Table 17-12, 17 R284). -/
def State.placing (s : State) (c : Nat) : Bool := (s.ctx c).st = .live && (s.savedOf c).isEmpty

/-- Contexts that have a queue of a class. -/
def State.contextsOf (s : State) (cls : Nat) : List Nat :=
  (s.ctxs.filter fun p => s.placing p.1 && p.2.queues.any fun q => q.2.cls.val == cls).map Prod.fst

/-- A list in the order of a round pointer. -/
def fromPtr (ptr : Nat) (l : List Nat) : List Nat :=
  (l.filter fun x => decide (ptr ≤ x)) ++ l.filter fun x => decide (x < ptr)

/-- Rounds until a deficit is positive. -/
def roundsFor (d : Int) (q : Nat) : Nat := ((1 - d).toNat + q - 1) / max q 1

/-- A deficit after n rounds of refill. -/
def refill (d : Int) (q n : Nat) : Int := floorDeficit (min (d + n * q) q)

/-- Visits the queues of a context in order until one places. -/
def State.visitQueues (c cls : Nat) : List Nat → State → State × Option Bool
  | [], s => (s, none)
  | q :: rest, s =>
    match s.eligibleHead c q with
    | none => State.visitQueues c cls rest (s.modQueue c q fun Q => { Q with deficit := min Q.deficit 0 })
    | some (l, L) =>
      if 0 < ((s.ctx c).queue q).deficit then
        match s.placeUnit l L with
        | some s => ({ s with queuePtr := KV.set s.queuePtr (cls * 64 + c) q }, some L.params.frameGroups.isSome)
        | none => State.visitQueues c cls rest s
      else State.visitQueues c cls rest s

/-- The smallest of a list of numbers. -/
def least : List Nat → Nat
  | [] => 0
  | [a] => a
  | a :: r => min a (least r)

/-- The choice of a queue of a context, and its placement; what the visits change stays when nothing is placed. -/
def State.queueRound (s : State) (c cls : Nat) : State × Option Bool :=
  let order := fromPtr (KV.get s.queuePtr (cls * 64 + c) 0) (s.queuesOf c cls)
  match State.visitQueues c cls order s with
  | (t, some f) => (t, some f)
  | (t, none) =>
    let live := order.filter fun q => (t.eligibleHead c q).isSome
    if live.isEmpty || live.any fun q => decide (0 < ((t.ctx c).queue q).deficit) then (t, none)
    else
      let n := least (live.map fun q => roundsFor ((t.ctx c).queue q).deficit ((t.ctx c).queue q).quantum)
      State.visitQueues c cls order
        (live.foldl (fun t q => t.modQueue c q fun Q => { Q with deficit := refill Q.deficit Q.quantum n }) t)

/-- A context holds an eligible head of a class. -/
def State.hasHead (s : State) (c cls : Nat) : Bool := (s.queuesOf c cls).any fun q => (s.eligibleHead c q).isSome

/-- Replaces the deficit of a context. -/
def State.setDeficit (s : State) (c : Nat) (d : Int) : State := s.setCtx c { s.ctx c with deficit := d }

/-- Visits contexts in order until one places. -/
def State.visitContexts (cls : Nat) : List Nat → State → State × Option Bool
  | [], s => (s, none)
  | c :: rest, s =>
    if !s.hasHead c cls then State.visitContexts cls rest (s.setDeficit c (min (s.ctx c).deficit 0))
    else if 0 < (s.ctx c).deficit then
      match s.queueRound c cls with
      | (s, some f) => ({ s with ctxPtr := KV.set s.ctxPtr cls c }, some f)
      | (s, none) => State.visitContexts cls rest s
    else State.visitContexts cls rest s

/-- The choice within a class; what the visits change stays when nothing is placed. -/
def State.classRound (s : State) (cls : Nat) : State × Option Bool :=
  let order := fromPtr (KV.get s.ctxPtr cls 0) (s.contextsOf cls)
  match State.visitContexts cls order s with
  | (t, some f) => (t, some f)
  | (t, none) =>
    let live := order.filter fun c => t.hasHead c cls
    if live.isEmpty || live.any fun c => decide (0 < (t.ctx c).deficit) then (t, none)
    else
      let n := least (live.map fun c => roundsFor (t.ctx c).deficit (t.ctx c).quantum)
      State.visitContexts cls order
        (live.foldl (fun t c => t.setDeficit c (refill (t.ctx c).deficit (t.ctx c).quantum n)) t)

/-- An eligible head of a class, in some context, can be placed (21 R325). -/
def State.classFits (s : State) (cls : Nat) : Bool :=
  (s.contextsOf cls).any fun c =>
    (s.queuesOf c cls).any fun q =>
      match s.eligibleHead c q with
      | some (_, L) => (s.unitFit L).isSome
      | none => false

/-- Classes in strict priority (21 R325). -/
def State.classes (s : State) : List Nat → State × Option Bool
  | [] => (s, none)
  | cls :: rest =>
    match s.classRound cls with
    | (s, some f) => (s, some f)
    | (s, none) => if s.classFits cls then (s, none) else s.classes rest

/-- Contexts that are LIVE and have saved groups, in order: those groups whose launch is of class 0, or those of the others. -/
def State.restoring (s : State) (zero : Bool) : List (Nat × Group) :=
  s.ctxs.flatMap fun p =>
    if p.2.st = .live then
      (s.savedOf p.1).filter fun x =>
        zero == ((KV.find s.launches x.2.launch).map fun L => ((s.ctx p.1).queue L.params.queue).cls.val == 0).getD false
    else []

/-- The distributor's next round, and what it places, if anything: `true` is a frame. Saved groups come before new ones (17 R284),
and units of class 0 before those of other classes (21 R338; log 14); nothing is placed while a role change is in progress (25
R370). -/
def State.placeNext (s : State) : State × Option Bool :=
  if s.mgmt.role.isSome then (s, none)
  else
    match s.restoreUnit (s.restoring true) with
    | some r => (r.1, some r.2)
    | none =>
      match s.classRound 0 with
      | (s, some f) => (s, some f)
      | (s, none) =>
        if s.classFits 0 then (s, none)
        else
          match s.restoreUnit (s.restoring false) with
          | some r => (r.1, some r.2)
          | none => s.classes [1, 2, 3]

/-- PLACE_GROUP (01 R23). A round that places nothing leaves what its visits did to the deficits (21 R326). -/
def execPlaceGroup (s : State) : Host.Outcome State Fault Refusal :=
  s.event
    (match s.placeNext with
     | (s, some false) => some s
     | (_, some true) => none
     | (s, none) => some s)

/-- PLACE_FRAME (01 R24). -/
def execPlaceFrame (s : State) : Host.Outcome State Fault Refusal :=
  s.event
    (match s.placeNext with
     | (s, some true) => some s
     | (_, some false) => none
     | (s, none) => some s)

/-! ## Queue descriptors and carve-outs -/

/-- A unit of a queue is resident, or waits in the queue. -/
def State.queueBusy (s : State) (c q : Nat) : Bool :=
  !((s.ctx c).queue q).units.isEmpty ||
    s.groups.any fun p => p.2.ctx == c && p.2.resident &&
      (match KV.find s.launches p.2.launch with
       | some L => L.params.queue == q
       | none => false)

/-- LAUNCH_QUEUE_CONFIGURE (21 R322): only while the queue is empty and no unit of it is resident; the deficit becomes 0. -/
def execLaunchQueueConfigure (c : Nat) (q : Fin 32) (en : Bool) (cls : Fin 4) (quantum : Nat) (s : State) :
    Host.Outcome State Fault Refusal :=
  s.event
    (if !(s.ctx c).created || s.queueBusy c q.val || decide (quantum < 1024) || decide (2 ^ 32 ≤ quantum) then none
     else some (s.modQueue c q.val fun _ => { enable := en, cls := cls, quantum := quantum, deficit := 0, units := [] }))

/-- L2 capacity of a profile in MiB (00 Table 0-2). -/
def l2MiB : Profile → Nat
  | .c2m2 => 960
  | .c3m1 => 864
  | .c1m3 => 1056

/-- The carve-outs of all contexts but one, in MiB. -/
def State.carved (s : State) (c : Nat) : Nat := (s.ctxs.map fun p => if p.1 = c then 0 else p.2.carve).sum

/-- CARVE_OUT_GRANT (11 R180, 25 R369): 0 to 256 MiB, fixed while a group of the context is resident, and refused when less
than 512 MiB of L2 capacity would be left. Cells newly carved out are EMPTY (11 R203). -/
def execCarveOutGrant (c mib : Nat) (s : State) : Host.Outcome State Fault Refusal :=
  s.event
    (if !(s.ctx c).created || s.ctxResident c || decide (256 < mib) || decide (l2MiB s.profile < s.carved c + mib + 512) then none
     else
       let old := (s.ctx c).carve * 2 ^ 20
       let s := s.setCtx c { s.ctx c with carve := mib }
       match (Place.carve c old).key with
       | some k => some (if old < mib * 2 ^ 20 then { s with mem := s.mem.emptyCells k (mib * 2 ^ 20 - old) } else s)
       | none => some s)

end Sys2Proof.Machine
end

