-- ==== Sys2Proof/Machine/Contexts.lean ====
section
/-! DEFINITION. The chip strike (00 Table 0-6) and the life of contexts: start, drain, save, switch-in, kill and reclaim (17
R279 to R286; 11 R207 to R209). -/

namespace Sys2Proof.Machine

/-! ## Creation and start (17 R279) -/

/-- Values of the control state that Table 17-10 and 21 R322 allow. -/
def CtxParams.legal (p : CtxParams) : Bool :=
  p.root % 4096 == 0 && decide (1 ≤ p.threshold) && decide (p.threshold ≤ 64) && decide (p.deadline < 2 ^ 32) &&
    decide (1024 ≤ p.quantum) && decide (p.quantum < 2 ^ 32)

/-- CONTEXT_CREATE (17 R279): one of 64 contexts is created in state FREE, with the threshold of creation. Of one that is
created the device OS sets the control state anew: the threshold, the deadline, the save area and the quantum at any time, the
page-table root while it is FREE (log 32). -/
def execContextCreate (c : Nat) (p : CtxParams) (s : State) : Host.Outcome State Fault Refusal :=
  s.event
    (let C := s.ctx c
     if decide (64 ≤ c) || !CtxParams.legal p then none
     else
       some (s.setCtx c
         { C with
           created := true, root := if C.st = .free then p.root else C.root
           threshold := if C.created then p.threshold else 32, deadline := p.deadline, saveAddr := p.saveAddr
           saveSize := p.saveSize, quantum := p.quantum }))

/-- CONTEXT_START (17 Table 17-11): FREE to LIVE. -/
def execContextStart (c : Nat) (s : State) : Host.Outcome State Fault Refusal :=
  s.event
    (let C := s.ctx c
     if C.created && C.st = .free then some (s.setCtx c { C with st := .live }) else none)

/-! ## Draining (17 R280 to R282) -/

/-- A context enters DRAINING. -/
def State.startDrain (s : State) (c : Nat) : State :=
  s.setCtx c { s.ctx c with st := .draining, drainAt := s.strike.toNat }

/-- CONTEXT_PREEMPT (17 Table 17-11). -/
def execContextPreempt (c : Nat) (s : State) : Host.Outcome State Fault Refusal :=
  s.event (if (s.ctx c).st = .live then some (s.startDrain c) else none)

/-- A gang with a split in FAULTPARK that awaits the device OS. -/
def Gang.parked (G : Gang) : Bool := G.splits.any fun p => p.2.st == .faultpark && p.2.toOs

/-- Gangs of a context's resident groups (17 R280). -/
def State.residentGangs (s : State) (c : Nat) : List Nat :=
  (s.groups.filter fun p => p.2.ctx == c && p.2.resident).flatMap fun p => p.2.gangs

/-- The parked share of a context exceeds its threshold in 64ths (17 R280). -/
def State.overThreshold (s : State) (c : Nat) : Bool :=
  let all := s.residentGangs c
  let parked := all.filter fun g => ((s.gang g).map Gang.parked).getD false
  decide ((s.ctx c).threshold * all.length < 64 * parked.length)

/-- DRAIN_COMPLETE (17 Table 17-11). -/
def execDrainComplete (c : Nat) (s : State) : Host.Outcome State Fault Refusal :=
  s.event
    (if (s.ctx c).st = .draining && !s.ctxResident c then some (s.setCtx c { s.ctx c with st := .out }) else none)

/-- The deadline of a drain, 0 for none; a role change gives one to a context without (25 R371). -/
def State.deadlineOf (s : State) (c : Nat) : Nat :=
  if (s.ctx c).deadline ≠ 0 then (s.ctx c).deadline else if s.mgmt.role.isSome then 3125000 else 0

/-- The deadline of a draining context has passed (17 R282). -/
def State.deadlinePassed (s : State) (c : Nat) : Bool :=
  (s.ctx c).st = .draining && s.deadlineOf c != 0 && decide ((s.ctx c).drainAt + s.deadlineOf c ≤ s.strike.toNat)

/-- DRAIN_DEADLINE (17 R282). -/
def execDrainDeadline (c : Nat) (s : State) : Host.Outcome State Fault Refusal :=
  s.event (if s.deadlinePassed c then some (s.killContext c) else none)

/-! ## Saving a group (17 R281, R283) -/

/-- An access that a save waits for. -/
def AccSt.outstanding : AccSt → Bool
  | .xlate | .ready | .waiting | .sent _ | .performed => true
  | .refused | .fault _ => false

/-- An instruction that a save waits for: requests that have not faulted, divide and matrix results. A pop that has nothing
to deliver, an `nwait` and a quad instruction that waits are saved (17 Table 17-3, 15 Table 15-7). -/
def State.opBusy (s : State) (g o : Nat) (G : Gang) (op : Op) : Bool :=
  match op.kind with
  | .nwait | .format | .fetch | .engine _ => false
  | .pop q => op.accs.any fun p => (s.deliverPop g o q op p.2).isSome
  | .matrix => op.badAccs.isEmpty && !G.matBlocked 0xFF#8 o op && (match op.mat with
      | some m => !m.done && m.waited.isNone
      | none => false)
  | .load | .store | .atomic _ _ _ | .fwr | .frd _ | .rclaim | .rcommit | .rawait | .rretire | .rbind | .rwr | .rwait | .calc
  | .rrd _ | .steal =>
    !G.heldBehind op.slices o op && op.accs.any fun p => p.2.st.outstanding

/-- A copy is stopped by an engine fault in every byte that it has not moved. -/
def Copy.still (c : Copy) : Bool :=
  !c.stopped.isEmpty && decide (c.len ≤ rangeLen c.moved + rangeLen c.stopped + rangeLen c.declined)

/-- Every engine operation of a gang is complete or stopped by an engine fault that awaits service (17 Table 17-3): stopped
means that no element is left to move. A copy that waits for the release of work that a fault holds is neither, and the save
waits for it, until the deadline (R282). -/
def Gang.enginesStill (G : Gang) : Bool :=
  (G.copies.all fun p => p.2.still) &&
    G.queues.all fun p => p.2.reqs.all fun r =>
      r.st == .done || r.st == .reading ||
        (!r.stopped.isEmpty && (r.refused || decide (r.units p.2.engine ≤ rangeLen r.moved + rangeLen r.stopped + rangeLen r.declined)))

/-- A gang holds nothing that a save waits for. -/
def State.saveReady (s : State) (g : Nat) : Bool :=
  match s.gang g with
  | none => true
  | some G => (G.ops.all fun p => !s.opBusy g p.1 G p.2) && G.enginesStill

/-- The bytes that a group needs of the save area (17 R283). -/
def State.saveNeed (s : State) (G : Group) : Nat := 1024 * (s.holdings G).length + 4096 * G.gangs.length + 8192

/-- Where the saved groups of a context end in its save area. -/
def State.saveUsed (s : State) (c : Nat) : Nat :=
  s.groups.foldl (fun n p => if p.2.ctx = c && p.2.saved then max n (p.2.saveAt.1 + p.2.saveAt.2) else n) 0

/-- The save area has room for the groups of a unit, and lies within the addresses of memory (17 R283). Where it has not, the spec
states no outcome: the save does not end, and the deadline of the drain ends the wait (DESIGN CHOICE, log 30). -/
def State.saveRoom (s : State) (c : Nat) (unit : List (Nat × Group)) : Bool :=
  decide ((s.ctx c).saveAddr + (s.ctx c).saveSize ≤ 2 ^ 52) &&
    decide (s.saveUsed c + (unit.map fun p => s.saveNeed p.2).sum ≤ (s.ctx c).saveSize)

/-- A group's state is written to the save area behind the groups saved before it; the format is the device's, and the bytes
are free values (17 R283; log 30). -/
def State.saveWrite (s : State) (gr : Nat) (G : Group) : State :=
  let at_ := s.saveUsed G.ctx
  let n := s.saveNeed G
  let key := ((s.ctx G.ctx).saveAddr + at_) % 2 ^ 52
  { s with mem := s.mem.fill key n fun j => Config.freeByte (s.fresh + j), fresh := s.fresh + n }.modGroup gr fun G =>
    { G with saveAt := (at_, n) }

/-- The last step of a save: the group's state goes to the save area, and its core is freed (17 R283, R284). -/
def State.endSave (s : State) (gr : Nat) (G : Group) : State :=
  let s := (s.saveWrite gr G).leaveCore gr G
  let s := s.modGroup gr fun G => { G with saved := true, saving := false }
  G.gangs.foldl (fun s g =>
    (s.moveClamps g G.core savedCore).modGang g fun H =>
      if H.st = .resident || H.st = .trap then { H with st := .saved } else H) s

/-- GROUP_SAVE (17 R281, R283): of a DRAINING context, a group that holds a gang in FAULTPARK, with its frame. The first time
it stops the groups and withdraws their requests; each time after that it withdraws those that have begun to wait since, and once
nothing is outstanding it saves the groups. -/
def execGroupSave (gr : Nat) (s : State) : Host.Outcome State Fault Refusal :=
  s.event
    (match s.group gr with
     | none => none
     | some G =>
       let unit := s.saveUnit gr G
       if (s.ctx G.ctx).st ≠ .draining || !G.resident then none
       else if !G.saving then (if unit.any fun p => s.holdsParked p.2 then some (s.beginSave unit) else none)
       else
         let s := s.beginSave unit
         if (s.ctx G.ctx).st = .draining && s.saveRoom G.ctx unit && unit.all fun p => p.2.gangs.all fun g => s.saveReady g then
           some (unit.foldl (fun s p => s.endSave p.1 p.2) s)
         else some s)

/-! ## Switch-in (17 R284) -/

/-- CONTEXT_SWITCH_IN: OUT to LIVE, saved groups first; not while a role change is in progress (25 R371). -/
def execContextSwitchIn (c : Nat) (s : State) : Host.Outcome State Fault Refusal :=
  s.event
    (if (s.ctx c).st ≠ .out || s.mgmt.role.isSome then none
     else some (State.restoreAll c (s.savedOf c).length (s.setCtx c { s.ctx c with st := .live })))

/-! ## Kill and reclaim (17 R285, 11 R208) -/

/-- CONTEXT_KILL (17 R282): in any state but FREE and KILLING. -/
def execContextKill (c : Nat) (s : State) : Host.Outcome State Fault Refusal :=
  s.event
    (if (s.ctx c).st = .free || (s.ctx c).st = .killing then none else some (s.killContext c))

/-- No agent holds a request of the context: none on the chip, none bound for another module, none held by a role change (17
R285, step 5; 25 Table 25-3). -/
def State.quiet (s : State) (c : Nat) : Bool :=
  (s.gangs.all fun p => p.2.ctx != c || p.2.ops.isEmpty) &&
    (s.ridgeMsgs.all fun m => m.ctx != c) && (s.removals.all fun r => r.ctx != c) &&
    (s.fabric.packets.all fun p => s.packetCtx p.2 != some c) &&
    (s.deferred.all fun d => s.deferredCtx d != some c) &&
    s.fabric.held.all fun p => s.jobCtx p.job != some c

/-- Cores that held a group of the context since its last reclaim-complete, wherever it went afterwards. -/
def State.coresHeld (s : State) (c : Nat) : List Nat := (s.cores.filter fun p => p.2.held.contains c).map Prod.fst

/-- Ridge registers take their starting values again (19 Table 19-4). -/
def Ctx.resetRidges (C : Ctx) : Ctx :=
  { C with ridges := C.ridges.map fun p => (p.1, { p.2 with val := p.2.cfg.start }) }

/-- Steps 6 and 7 of a kill (17 R285). -/
def State.reclaim (s : State) (c : Nat) : State :=
  let cores := s.coresHeld c
  let s := s.groups.foldl (fun s p => if p.2.ctx = c && p.2.resident then s.leaveCore p.1 p.2 else s) s
  let s := cores.foldl (fun s k => s.setCore k
    { s.core k with l1 := [], held := eraseNat (s.core k).held c, ridge := (s.core k).ridge.filter fun p => p.1 / 16 != c }) s
  let gone := (s.groups.filter fun p => p.2.ctx = c).map Prod.fst
  let s' : State :=
    { s with
      groups := s.groups.filter fun p => p.2.ctx != c
      gangs := s.gangs.filter fun p => !(p.2.ctx == c && gone.contains p.2.group)
      launches := s.launches.filter fun p => p.2.ctx != c }
  let C := s'.ctx c
  s'.setCtx c { C.resetRidges with inc := C.inc + 1, st := .free }

/-- RECLAIM_COMPLETE (17 R285, 11 R208). -/
def execReclaimComplete (c : Nat) (s : State) : Host.Outcome State Fault Refusal :=
  s.event (if (s.ctx c).st = .killing && s.quiet c then some (s.reclaim c) else none)

/-! ## The chip strike (00 Table 0-6) -/

/-- Two system strikes are 125 chip strikes: edges fall at the 63rd and the 125th (log 12). -/
def sysEdge (phase : Nat) : Bool := phase == 62 || phase == 124

/-- The counters after a chip strike. -/
def State.countStrike (s : State) : State :=
  { s with
    strike := s.strike + 1
    sstrike := if sysEdge s.phase then s.sstrike + 1 else s.sstrike
    phase := if 124 ≤ s.phase then 0 else s.phase + 1 }

/-- A strike edge passes a resident group: its charge and its barriers (21 R327, 01 R48). -/
def Group.edge (G : Group) : Group :=
  if !G.resident then G
  else
    { G with
      strikes := G.strikes + 1
      barriers := G.barriers.map fun p =>
        (p.1, if p.2.arrived.isEmpty then p.2 else { p.2 with strikes := p.2.strikes + 1 }) }

/-- A strike edge passes a gang on the chip: quad instructions that wait, and `fsc` at its edge (15 R249, 11 R197). -/
def Gang.edge (G : Gang) (sysToo : Bool) : Gang :=
  if G.st = .saved then G
  else
    { G with
      ops := G.ops.map fun p =>
        (p.1, { p.2 with mat := p.2.mat.map fun m => { m with waited := m.waited.map fun n => n + 1 } })
      splits := G.splits.map fun p =>
        match p.2.wait with
        | .fscEdge sys _ => (p.1, { p.2 with wait := .fscEdge sys (!sys || sysToo) })
        | _ => p }

/-- Splits whose `fsc` is at its edge. -/
def State.dueFences (s : State) : List Instr :=
  s.gangs.flatMap fun p => p.2.splits.filterMap fun q =>
    match q.2.wait with
    | .fscEdge _ true => some (.fscStrikeEdge p.1 q.1)
    | _ => none

/-- Barriers whose timeout falls at this edge (01 R48). -/
def State.dueBarriers (s : State) : List Instr :=
  s.groups.flatMap fun p =>
    let limit := ((KV.find s.launches p.2.launch).map fun l => l.params.timeout).getD 0
    if !p.2.resident then []
    else p.2.barriers.filterMap fun b => if limit < b.2.strikes && !b.2.arrived.isEmpty then some (.barrierTimeout p.1 b.1) else none

/-- Quad instructions whose partner has not issued in time (15 R249). -/
def State.dueQuads (s : State) : List Instr :=
  s.gangs.flatMap fun p =>
    match p.2.quadOp, p.2.splits.head? with
    | some (_, _, m), some (k, _) =>
      if p.2.st ≠ .saved && s.timeoutOf p.2 < m.waited.getD 0 then [.quadTimeout p.1 k] else []
    | _, _ => []

/-- Drains whose deadline has passed. -/
def State.dueDrains (s : State) : List Instr :=
  s.ctxs.filterMap fun p => if s.deadlinePassed p.1 then some (.drainDeadline p.1) else none

/-- CHIP_STRIKE: the counters, the counts of strike edges, the parked share (17 R280); what falls due at this edge happens
next. -/
def execChipStrike (s : State) : Host.Outcome State Fault Refusal :=
  let sysToo := sysEdge s.phase
  let s := s.countStrike
  let s : State :=
    { s with
      groups := s.groups.map fun p => (p.1, p.2.edge)
      gangs := s.gangs.map fun p => (p.1, p.2.edge sysToo) }
  let s := s.ctxs.foldl (fun s p => if p.2.st = .live && s.overThreshold p.1 then s.startDrain p.1 else s) s
  let due := s.dueFences ++ s.dueBarriers ++ s.dueQuads ++ s.dueDrains
  .next { s with agenda := due.map Agenda.due ++ s.agenda }

end Sys2Proof.Machine
end

