-- ==== Sys2Proof/Machine/HostLink.lean ====
section
/-! DEFINITION. The host link (23 R339 to R344), host queues and launch records (23 R345, R346; 01 R17 to R20; 21 R322 to R324),
host copies (23 R347) and completion records (23 R348). -/

namespace Sys2Proof.Machine

/-! ## Link, attach, detach -/

/-- LINK_RETRAIN (23 R339): bandwidth only. -/
def execLinkRetrain (rate width : Nat) (s : State) : Host.Outcome State Fault Refusal :=
  s.event
    (if [128, 64, 32].contains rate && [1, 2, 4, 8, 16].contains width then
       some { s with hostif := { s.hostif with rate := rate, width := width } }
     else none)

/-- FEAT: the offered vector; while attached, that of the attach (23 Table 23-2). -/
def State.offered (s : State) : BitVec 256 :=
  if s.hostif.attached then s.hostif.offer else if s.fabric.ports = 0 then 0x4F#256 else 0xFF#256

/-- Detached: no queue takes records (23 R343). -/
def State.detach (s : State) : State :=
  { s with hostif := { s.hostif with attached := false, attach := false, feat := 0 } }

/-- FUNCTION_LEVEL_RESET (23 R340): every context is killed and the device detaches. -/
def execFunctionLevelReset (s : State) : Host.Outcome State Fault Refusal :=
  .next ((s.ctxs.foldl (fun s p => s.killContext p.1) s).detach)

/-- A queue at attach (23 R344). -/
def HostQueue.reset (Q : HostQueue) : HostQueue := { Q with head := 0, tail := 0, stopped := false, reason := 0, copy := none }

/-- A completion ring at attach (23 R344); records not yet written are dropped (log 17). -/
def CompRing.reset (R : CompRing) : CompRing := { R with tail := 0, head := 0, waiting := [] }

/-- ATTACH_REQUEST (23 R341, R344): a write of ATTACH[0] = 1. Before READY it is ignored (R340), and while attached it changes
nothing. -/
def execAttachRequest (s : State) : Host.Outcome State Fault Refusal :=
  let h := s.hostif
  if !h.ready || h.attached then .next s
  else if (h.accept &&& ~~~s.offered) == 0 && h.accept.getLsbD 2 then
    .next { s with hostif :=
      { h with
        attached := true, attach := true, refusedAttach := false, feat := h.accept, offer := s.offered
        queues := h.queues.map fun p => (p.1, p.2.reset), rings := h.rings.map fun p => (p.1, p.2.reset) } }
  else .next { s with hostif := { h with attach := true, refusedAttach := true } }

/-- DETACH_REQUEST, a write of ATTACH[0] = 0 (23 R342): ignored while a context is LIVE, DRAINING or OUT. While the device is not
attached the register takes the write (Table 23-1). -/
def execDetachRequest (s : State) : Host.Outcome State Fault Refusal :=
  if !s.hostif.ready || s.ctxs.any fun p => p.2.st == .live || p.2.st == .draining || p.2.st == .out then .next s
  else if s.hostif.attached then .next s.detach
  else .next { s with hostif := { s.hostif with attach := false } }

/-- ACCEPT_WRITE (23 R342): ignored while attached. -/
def execAcceptWrite (v : BitVec 256) (s : State) : Host.Outcome State Fault Refusal :=
  if !s.hostif.ready || s.hostif.attached then .next s else .next { s with hostif := { s.hostif with accept := v } }

/-! ## BAR0 writes of a context's page -/

/-- A write of a register of a context's page: there are 64 pages (23 Table 23-1), and before READY it is ignored (R340). -/
def State.pageWrite (s : State) (c : Nat) (f : State) : Host.Outcome State Fault Refusal :=
  s.event (if 64 ≤ c then none else if s.hostif.ready then some f else some s)

/-- A tail that is out of range, or that moves the count backward (23 R345). -/
def HostQueue.badTail (Q : HostQueue) (v : Word) : Bool :=
  decide (Q.size < v - Q.head) || decide (v - Q.head < Q.tail - Q.head)

/-- QTAIL_DOORBELL (23 R345). -/
def execQtailDoorbell (c : Nat) (q : Fin 32) (v : Word) (s : State) : Host.Outcome State Fault Refusal :=
  let Q := s.hostQueue c q.val
  s.pageWrite c
    (s.setHostQueue c q.val
      (if s.hostif.attached && Q.badTail v then { Q with tail := v, stopped := true, reason := 1 } else { Q with tail := v }))

/-- QUEUE_CONFIG_WRITE (23 R344): ignored while the queue holds records. -/
def execQueueConfigWrite (c : Nat) (q : Fin 32) (w : QueueCfg) (s : State) : Host.Outcome State Fault Refusal :=
  let Q := s.hostQueue c q.val
  s.pageWrite c
    (if Q.head ≠ Q.tail then s
     else
       match w with
       | .base v => s.setHostQueue c q.val { Q with base := v }
       | .size v => s.setHostQueue c q.val { Q with size := v })

/-- COMPLETION_CONFIG_WRITE (23 R344): ignored while the ring holds records. -/
def execCompletionConfigWrite (c : Nat) (w : QueueCfg) (s : State) : Host.Outcome State Fault Refusal :=
  let R := s.compRing c
  s.pageWrite c
    (if R.tail ≠ R.head then s
     else
       match w with
       | .base v => s.setCompRing c { R with base := v }
       | .size v => s.setCompRing c { R with size := v })

/-- CHEAD_WRITE (23 R348). -/
def execCheadWrite (c : Nat) (v : Word) (s : State) : Host.Outcome State Fault Refusal :=
  s.pageWrite c (s.setCompRing c { s.compRing c with head := v })

/-- BAR0_REGISTER_WRITE (23 R340, Table 23-1): CVEC of a context's page; every other offset ignores writes. -/
def execBar0RegisterWrite (off : Nat) (v : Word) (s : State) : Host.Outcome State Fault Refusal :=
  let c := (off - 0x10000) / 0x1000
  if s.hostif.ready && decide (0x10000 ≤ off) && decide (c < 64) && (off - 0x10000) % 0x1000 == 0x414 then
    .next (s.setCompRing c { s.compRing c with vec := v.extractLsb' 0 6 })
  else .next s

/-! ## BAR0 reads (23 R340, Table 23-1) -/

/-- A bit of a register. -/
def bitOf (b : Bool) (j : Nat) : Word := if b then BitVec.twoPow 32 j else 0

/-- STATUS; its other bits read 0. -/
def HostIf.status (h : HostIf) : Word :=
  bitOf h.ready 0 ||| bitOf h.attached 1 ||| bitOf h.refusedAttach 2 ||| bitOf h.slotB 3

/-- QSTATE: while the device is detached every queue is stopped with reason 3 (R343). -/
def State.qstate (s : State) (Q : HostQueue) : Word :=
  if s.hostif.attached then bitOf Q.stopped 0 ||| (Q.reason.setWidth 32 <<< 4) else 0x31#32

/-- The word that starts at an offset of a context's page, a multiple of 4. -/
def State.pageRead (s : State) (c off : Nat) : Word :=
  if off < 0x400 then
    let Q := s.hostQueue c (off / 0x20)
    match off % 0x20 with
    | 0x00 => Q.base.extractLsb' 0 32
    | 0x04 => Q.base.extractLsb' 32 32
    | 0x08 => Q.size
    | 0x0C => s.qstate Q
    | 0x10 => Q.head
    | 0x14 => Q.tail
    | _ => 0
  else
    let R := s.compRing c
    match off with
    | 0x400 => R.base.extractLsb' 0 32
    | 0x404 => R.base.extractLsb' 32 32
    | 0x408 => R.size
    | 0x40C => R.tail
    | 0x410 => R.head
    | 0x414 => R.vec.setWidth 32
    | _ => 0

/-- What a host read of the 4 bytes of BAR0 at an offset returns. Before READY it is STATUS, and 0 everywhere else; an offset
that Table 23-1 does not list reads 0, and so does every Resv bit (00 R8). -/
def State.bar0Read (s : State) (off : Nat) : Word :=
  let o := off / 4 * 4
  if o = 0 then s.hostif.status
  else if !s.hostif.ready then 0
  else if 0x20 ≤ o ∧ o < 0x40 then s.offered.extractLsb' (8 * (o - 0x20)) 32
  else if 0x40 ≤ o ∧ o < 0x60 then s.hostif.accept.extractLsb' (8 * (o - 0x40)) 32
  else if o = 0x60 then bitOf s.hostif.attach 0
  else if 0x10000 ≤ o ∧ (o - 0x10000) / 0x1000 < 64 then s.pageRead ((o - 0x10000) / 0x1000) (o % 0x1000)
  else 0

/-! ## Launch records (01 Tables 1-2 to 1-4) -/

/-- A record of 256 bytes as a number, and its fields. -/
structure Rec where
  num : Nat

/-- The n bytes at an offset of a record. -/
def Rec.get (r : Rec) (off n : Nat) : Nat := r.num / 2 ^ (8 * off) % 2 ^ (8 * n)

/-- Whether n bytes at an offset are nonzero under a mask. -/
def Rec.set (r : Rec) (off n mask : Nat) : Bool := (r.get off n &&& mask) != 0

/-- Level descriptor k. -/
def Rec.level (r : Rec) (k : Nat) : Nat := r.get (0x40 + 8 * k) 8

/-- All n bytes at an offset. -/
def Rec.any (r : Rec) (off n : Nat) : Bool := r.get off n != 0

/-- A nonzero Resv field of version 3 (Tables 1-2, 1-3). -/
def Rec.resv3 (r : Rec) : Bool :=
  r.set 0x02 2 0xFFFE || r.set 0x04 1 0xFC || r.set 0x05 1 0xE0 || r.set 0x34 1 0x70 || r.any 0x35 11 || r.any 0xF0 16 ||
    (List.range 8).any fun k => (r.level k &&& 0xFFFFF8F800000000) != 0

/-- Fields that versions 1 and 2 lack are Resv there (23 Table 23-3). -/
def Rec.resv (r : Rec) : Bool :=
  r.resv3 ||
    (match r.get 0 2 with
     | 1 => r.any 0x02 2 || r.any 0x07 1 || r.any 0x34 1 || r.any 0x80 0x50
     | 2 => r.set 0x02 2 1 || r.any 0x34 1
     | _ => false)

/-- The scope of a number (Table 1-3). -/
def scopeOf (n : Nat) : Option Scope :=
  match n with
  | 0 => some .gang
  | 1 => some .core
  | 2 => some .bent
  | 3 => some .chip
  | 4 => some .sys
  | _ => none

/-- The natural scope of a domain, as a number (Table 1-4). -/
def naturalScope (domain : Nat) : Nat :=
  match domain with
  | 3 => 1
  | 4 => 2
  | 5 | 6 => 3
  | 7 => 4
  | _ => 0

/-- A level as a descriptor gives it; `none` for an invalid scope. -/
def levelOf (d : Nat) : Option Level :=
  let scope := d / 2 ^ 40 % 8
  let domain := d / 2 ^ 32 % 8
  match scopeOf scope with
  | some sc => if naturalScope domain ≤ scope then some { domain := domain, scope := sc, extent := d % 2 ^ 32 } else none
  | none => none

/-- Level k meets Table 1-4, after a level of domain `prev`. -/
def Level.ok (l : Level) (k prev : Nat) : Bool :=
  match k with
  | 0 => l.domain == 0 && l.extent == 1
  | 1 => l.domain == 1 && l.extent == 4
  | 2 => l.domain == 2 && decide (1 ≤ l.extent) && decide (l.extent ≤ 8)
  | 3 => l.domain == 3 && decide (1 ≤ l.extent) && decide (l.extent ≤ 64)
  | _ =>
    decide (4 ≤ l.domain) && decide (prev < l.domain) && decide (1 ≤ l.extent) &&
      (l.domain != 4 || decide (l.extent ≤ 8)) && (l.domain != 7 || l.extent == 1)

/-- Levels k and up meet Table 1-4. -/
def levelsOk : Nat → Nat → List Level → Bool
  | _, _, [] => true
  | k, prev, l :: rest => l.ok k prev && levelsOk (k + 1) l.domain rest

/-- The levels of a record, when they are valid (R18). -/
def Rec.levels (r : Rec) : Option (List Level) :=
  let n := r.get 6 1
  if n < 4 || 8 < n || ((List.range 8).any fun k => decide (n ≤ k) && r.level k != 0) then none
  else
    match (List.range n).mapM fun k => levelOf (r.level k) with
    | some ls => if levelsOk 0 0 ls then some ls else none
    | none => none

/-- The role map of a record; version 1 has none. -/
def Rec.roles (r : Rec) : List (Nat × Nat) :=
  if r.get 0 2 = 1 then [] else (List.range 4).map fun j => (r.get (0x80 + 4 * j) 2, r.get (0x82 + 4 * j) 2)

/-- Two role entries overlap, or one reaches the level-3 extent (R20); an entry whose first exceeds its last is empty. -/
def rolesBad (gangs : Nat) : List (Nat × Nat) → Bool
  | [] => false
  | r :: rest =>
    (decide (r.1 ≤ r.2) &&
      (decide (gangs ≤ r.2) || rest.any fun x => decide (x.1 ≤ x.2) && decide (x.1 ≤ r.2) && decide (r.1 ≤ x.2))) ||
      rolesBad gangs rest

/-- The parameters of a launch record (Table 1-2). -/
def Rec.params (r : Rec) (levels : List Level) : LaunchParams :=
  let or0 (v d : Nat) : Nat := if v = 0 then d else v
  { prot := r.get 2 2 % 2 = 1, queue := r.get 5 1 % 32, levels := levels, entry := BitVec.ofNat 64 (r.get 8 8)
    handler := BitVec.ofNat 64 (r.get 0x10 8), vregs := r.get 0x18 2, pool := r.get 0x1A 2, priv := r.get 0x1C 2
    barriers := r.get 0x1E 2, scratch := r.get 0x20 4, shared := r.get 0x24 4, watchdog := or0 (r.get 0x28 4) 16777216
    timeout := or0 (r.get 0x2C 4) 31250, bound := BitVec.ofNat 32 (r.get 0x30 4)
    ridge := if r.set 0x34 1 0x80 then some (Fin.ofNat 16 (r.get 0x34 1)) else none
    roles := r.roles, args := (List.range 4).map fun j => BitVec.ofNat 64 (r.get (0xD0 + 8 * j) 8) }

/-- A value outside Table 1-2, or a condition of R20 or R293 on the parameters. -/
def LaunchParams.bad (p : LaunchParams) (feat : BitVec 256) : Bool :=
  !legalPc p.entry || !legalPc p.handler || decide (p.vregs < 1) || decide (192 < p.vregs) || decide (1792 < p.pool) ||
    decide (4096 < p.priv) || decide (p.priv % 16 ≠ 0) || decide (64 < p.barriers) || decide (p.scratch % 1024 ≠ 0) ||
    decide (p.shared % 1024 ≠ 0) || rolesBad p.gangs p.roles ||
    (decide (p.shared ≠ 0) && p.frameGroups.isNone) || (Core.init.fit p.needs).isNone ||
    (p.prot && (!feat.getLsbD 6 || decide (p.slices % 2 ≠ 0)))

/-- Where the counter of a wait event lies (21 R324). -/
inductive EventAt where
  | at_ (key : Nat)
  | bad
  /-- The walk meets poison in a table (25 Table 25-5). -/
  | poison (pa : Nat)

/-- The location of a wait event's counter. -/
def State.eventKey (s : State) (c : Nat) (a : Dword) : EventAt :=
  if a.extractLsb' 0 3 ≠ 0 then .bad
  else
    match localWindow a with
    | some w => if w ≠ 4 || (s.ctx c).carve * 2 ^ 20 < offset a + 8 then .bad
      else match (Place.carve c (offset a)).key with
        | some k => .at_ k
        | none => .bad
    | none =>
      if a.extractLsb' 60 3 ≠ 0 || a.extractLsb' 48 12 ≠ s.node then .bad
      else
        match s.walk c a with
        | .leaf l => if l.r then .at_ (l.pa a) else .bad
        | .fault _ => .bad
        | .poison p => .poison p

/-- The wait events of a record; version 1 has none. -/
def Rec.events (r : Rec) : List (Dword × Nat) :=
  if r.get 0 2 = 1 then []
  else (List.range (min (r.get 7 1) 4)).map fun j => (BitVec.ofNat 64 (r.get (0x90 + 16 * j) 8), r.get (0x98 + 16 * j) 8)

/-- What becomes of a record. -/
inductive Taken where
  | refuse (status : Nat)
  | launch (L : Launch)
  | copy
  | poison (pa : Nat)

/-- The wait events with their locations. -/
def State.waitEvts (s : State) (c : Nat) : List (Dword × Nat) → Taken ⊕ List WaitEvt
  | [] => .inr []
  | (a, t) :: rest =>
    match s.eventKey c a with
    | .bad => .inl (.refuse compBadLaunch)
    | .poison p => .inl (.poison p)
    | .at_ k =>
      match s.waitEvts c rest with
      | .inr l => .inr ({ key := k, thr := t, sat := false } :: l)
      | .inl x => .inl x

/-- A launch record of a version that was accepted (01 R20, 21 R322 to R324, 23 R345). -/
def State.judge (s : State) (c q : Nat) (head : Word) (r : Rec) : Taken :=
  if r.resv then .refuse compMalformed
  else
    match r.levels with
    | none => .refuse compBadLaunch
    | some ls =>
      let p := r.params ls
      let Q := (s.ctx c).queue q
      if p.bad s.hostif.feat || p.queue ≠ q || !Q.enable || r.get 4 1 % 4 ≠ Q.cls.val || 4 < r.get 7 1 then
        .refuse compBadLaunch
      else
        match s.waitEvts c r.events with
        | .inl x => x
        | .inr evs =>
          .launch
            { ctx := c, inc := (s.ctx c).inc, params := p, events := evs, tag := none, task := false, root := s.nextLaunch
              parent := none, host := some (q, head), total := p.total, placed := 0, retired := 0, pins := []
              completed := false }

/-- A host copy record (23 Table 23-4): MALFORMED for a Resv field, BADLAUNCH for a value outside the table (log 17), or on a
queue that is not enabled (21 Table 21-1). -/
def State.judgeCopy (s : State) (c q : Nat) (r : Rec) : Taken :=
  if r.set 2 2 0xFFFE || r.any 4 4 || r.any 0x20 224 then .refuse compMalformed
  else if r.get 0x10 8 / 2 ^ 60 ≠ 0 || r.get 0x10 8 / 2 ^ 48 % 4096 ≠ s.node.toNat || r.get 0x18 8 < 1 ||
      2 ^ 32 < r.get 0x18 8 || !((s.ctx c).queue q).enable then .refuse compBadLaunch
  else .copy

/-- A record by its version, accepted only with its feature (23 R346, R341). -/
def State.judgeRecord (s : State) (c q : Nat) (head : Word) (r : Rec) : Taken :=
  match r.get 0 2 with
  | 1 => if s.hostif.feat.getLsbD 0 then s.judge c q head r else .refuse compBadLaunch
  | 2 => if s.hostif.feat.getLsbD 1 then s.judge c q head r else .refuse compBadLaunch
  | 3 => if s.hostif.feat.getLsbD 2 then s.judge c q head r else .refuse compBadLaunch
  | 0x100 => if s.hostif.feat.getLsbD 3 then s.judgeCopy c q r else .refuse compBadLaunch
  | _ => .refuse compBadLaunch

/-- A queue that may take a record: attached, not stopped, with a record, no copy in progress, its context started (23 R343,
R345, R347; 17 R285). -/
def State.mayTake (s : State) (c q : Nat) : Bool :=
  let Q := s.hostQueue c q
  s.hostif.ready && s.hostif.attached && !Q.stopped && Q.head != Q.tail && Q.copy.isNone && (s.ctx c).st != .free &&
    (s.ctx c).st != .killing

/-- HOST_RECORD_TAKE (23 R345). -/
def execHostRecordTake (c : Nat) (q : Fin 32) (readErr : Bool) (s : State) : Host.Outcome State Fault Refusal :=
  s.event
    (if !s.mayTake c q.val then none
     else
       let Q := s.hostQueue c q.val
       if readErr then some (s.setHostQueue c q.val { Q with stopped := true, reason := 2 })
       else
         let slot := Q.base.toNat + 256 * (Q.head.toNat % Q.size.toNat)
         let num := s.host.read slot 256
         let s := s.tick
         let t := s.setHostQueue c q.val { Q with head := Q.head + 1 }
         match s.judgeRecord c q.val Q.head { num := num } with
         | .refuse status => some (t.complete c q.val Q.head status)
         | .launch L => some (t.enqueue L)
         | .copy =>
           let bytes := (List.range 256).map fun j => s.host.byte (slot + j)
           some (s.setHostQueue c q.val { Q with head := Q.head + 1, copy := some (bytes, Q.head) })
         | .poison p => some (s.killFor c (poisonSource p) 0 (p / 32 * 32)))

/-! ## Host copies (23 R347) -/

/-- The physical address of a byte of a context for a host copy. -/
def State.copyKey (s : State) (c : Nat) (va : Dword) (write : Bool) : Walk :=
  match s.walk c va with
  | .leaf l => if l.allows ⟨!write, write, false⟩ then .leaf l else .fault causePerm
  | .fault f => .fault f
  | .poison p => .poison p

/-- How many bytes a step of a host copy moves: to the end of the device block of 32 bytes. -/
def stepLen (va : Dword) (left : Nat) : Nat := min left (32 - (va.extractLsb' 0 5).toNat)

/-- Bytes read at the L2, with their marks; those of a marked block are free (17 R290, log 4). -/
def State.readHost (s : State) (key n : Nat) : List Byte × State :=
  if s.mem.poisoned key n then ((List.range n).map fun j => Config.freeByte (s.fresh + j), { s with fresh := s.fresh + n })
  else ((List.range n).map fun j => s.mem.byte (key + j), s)

/-- Writes bytes into host memory. -/
def State.writeHost (s : State) (io : Nat) (l : List Byte) : State := { s with host := s.host.write io l.length (leNat l) }

/-- How a host copy ends: complete, stopped by a fault, or killed by poison in a table. -/
inductive CopyEnd where
  | ok
  | fault
  | poison (pa : Nat)

/-- Moves the bytes of a host copy, block by block, up to the first fault; each walk makes its own choices (00 R6). -/
def State.copyBytes (c : Nat) (toHost : Bool) : Nat → Nat → Dword → Nat → State → CopyEnd × State
  | 0, _, _, _, s => (.ok, s)
  | fuel + 1, io, va, left, s =>
    if left = 0 then (.ok, s)
    else
      let n := stepLen va left
      let s := s.tick
      match s.copyKey c va (!toHost) with
      | .fault _ => (.fault, s)
      | .poison p => (.poison p, s)
      | .leaf l =>
        let s := if toHost then
            let (b, s) := s.readHost (l.pa va) n
            s.writeHost io b
          else s.homeWrite (l.pa va) n (s.host.read io n)
        State.copyBytes c toHost fuel (io + n) (va + BitVec.ofNat 64 n) (left - n) s

/-- Every earlier record of a queue has completed. -/
def State.queueClear (s : State) (c q : Nat) : Bool :=
  s.launches.all fun p => p.2.ctx != c || p.2.completed || (p.2.host.map Prod.fst) != some q

/-- HOST_COPY (23 R347): once every earlier record of the queue has completed. -/
def execHostCopy (c : Nat) (q : Fin 32) (s : State) : Host.Outcome State Fault Refusal :=
  s.event
    (let Q := s.hostQueue c q.val
     match Q.copy with
     | none => none
     | some (bytes, head) =>
       if !s.queueClear c q.val then none
       else
         let toHost := field bytes 2 2 % 2 = 1
         let len := field bytes 0x18 8
         let (e, s) := State.copyBytes c toHost len (field bytes 8 8) (BitVec.ofNat 64 (field bytes 0x10 8)) len s
         match e with
         | .poison p => some (s.killFor c (poisonSource p) 0 (p / 32 * 32))
         | .ok => some ((s.setHostQueue c q.val { Q with copy := none }).complete c q.val head compOk)
         | .fault => some ((s.setHostQueue c q.val { Q with copy := none }).complete c q.val head compFault))

/-! ## Completion records (23 R348) -/

/-- A completion record as a number of 32 bytes (23 Table 23-5). -/
def Completion.num (x : Completion) : Nat :=
  x.head.toNat + 2 ^ 32 * (x.queue % 32) + 2 ^ 40 * (x.status % 256) + 2 ^ 48 * x.inc.toNat + 2 ^ 64 * (x.strike % 2 ^ 64)

/-- COMPLETION_RECORD_WRITE (23 R348). -/
def execCompletionRecordWrite (c : Nat) (s : State) : Host.Outcome State Fault Refusal :=
  s.event
    (let R := s.compRing c
     match R.waiting with
     | [] => none
     | x :: rest =>
       if !s.hostif.attached || R.size ≤ R.tail - R.head then none
       else
         let at_ := R.base.toNat + 32 * (R.tail.toNat % R.size.toNat)
         let s' : State := { s with host := s.host.write at_ 32 x.num }
         some ((s'.setCompRing c { R with tail := R.tail + 1, waiting := rest }).emit (.msix R.vec)))

end Sys2Proof.Machine
end

