-- ==== Sys2Proof/Machine/Power.lean ====
section
/-! DEFINITION. The power controller: samples, sensor voting, hot marks, supply steps (21 R333 to R337, 25 R380). -/

namespace Sys2Proof.Machine

/-! ## Sensor voting (21 R337) -/

/-- The distance of two temperatures. -/
def tempGap (a b : Int) : Nat := (a - b).natAbs

/-- A sensor with a sample: the run of equal readings, and the model's estimate when the run began. -/
def Sensor.sample (x : Sensor) (r : SensorSample) : Sensor :=
  let run := r.reading == x.reading
  let y : Sensor :=
    { x with
      reading := r.reading, model := r.model, same := if run then x.same + 1 else 0, first := if run then x.first else r.model }
  if x.voted then { y with inBand := if tempGap r.reading r.model ≤ 12 then x.inBand + 1 else 0 } else y

/-- A condition of Table 21-5. -/
def Sensor.badNow (x : Sensor) : Bool :=
  (decide (100 ≤ x.same) && decide (8 ≤ tempGap x.model x.first)) || decide (x.reading < 0) || decide (600 < x.reading) ||
    decide (32 < tempGap x.reading x.model)

/-- Sensors of a layer that are voted out. -/
def State.votedIn (s : State) (layer : Nat) : Nat :=
  ((List.range 8).filter fun j => (s.sensor (8 * layer + j)).voted).length

/-- Replaces a sensor. -/
def State.setSensor (s : State) (i : Nat) (x : Sensor) : State :=
  { s with mgmt := { s.mgmt with sensors := KV.set s.mgmt.sensors i x } }

/-- The location of a bent in an error record (25 Table 25-6). -/
def locOfBent (b : Nat) : Nat := locOf (8 * b)

/-- Takes one sample: a sensor that meets a condition of Table 21-5 is voted out and reported; the third of a layer is
reported as an error. -/
def State.takeSample (s : State) (i : Nat) (r : SensorSample) : State :=
  let x := (s.sensor i).sample r
  if x.voted || !x.badNow then s.setSensor i x
  else
    let s := s.setSensor i { x with voted := true, inBand := 0 }
    let s := s.logErr 0 7 (locOfBent (i / 2)) 0 none (r.reading % 65536).toNat
    if s.votedIn (i / 8) = 3 then s.logErr 0 7 (locOfBent (i / 2)) 0 none 0 else s

/-- SENSOR_TAKE_BACK (21 R337): after one second, 50,000 samples, within 3 degrees of the model. -/
def execSensorTakeBack (i : Nat) (s : State) : Host.Outcome State Fault Refusal :=
  s.event
    (let x := s.sensor i
     if x.voted && decide (50000 ≤ x.inBand) then
       some ((s.setSensor i { x with voted := false, inBand := 0 }).logErr 0 7 (locOfBent (i / 2)) 0 none
         (x.reading % 65536).toNat)
     else none)

/-! ## Hot marks (21 R336) -/

/-- The bents of all eight layers. -/
def allBents : List Nat := List.range 32

/-- The coolest temperature of a bent's layer. -/
def State.coolest (s : State) (b : Nat) : Int :=
  (List.range 4).foldl (fun m j => min m (s.bentDeg (b / 4 * 4 + j))) (s.bentDeg b)

/-- The bents of the same column in adjacent layers: layers of one tower alternate in number (25 R373). -/
def columnMates (b : Nat) : List Nat := (if 8 ≤ b then [b - 8] else []) ++ (if b + 8 < 32 then [b + 8] else [])

/-- A bent's measures reach limits: its sensors in quarter degrees, and in degrees its excess over the coolest of its layer and
over a column mate. -/
def State.reaches (s : State) (b : Nat) (sensor layer column : Int) : Bool :=
  decide (sensor ≤ s.bentTemp b) || decide (layer ≤ s.bentDeg b - s.coolest b) ||
    (columnMates b).any fun c => decide (column ≤ s.bentDeg b - s.bentDeg c)

/-- The mark of a bent at a sample: set at the thresholds, cleared 2 ms later once each measure is 3 degrees below, kept while
three sensors of the layer are voted out (R337). -/
def State.markBent (s : State) (b : Nat) : State :=
  let B := s.bent b
  let now := s.mgmt.samples
  let many := decide (3 ≤ s.votedIn (b / 4))
  match B.hot with
  | none => if many || s.reaches b 400 9 16 then s.setBent b { B with hot := some now } else s
  | some t =>
    if !many && decide (t + 100 ≤ now) && !s.reaches b 389 7 14 then s.setBent b { B with hot := none } else s

/-! ## Supply steps (21 R335, Table 21-4) -/

/-- The module's power limit in force (00 Table 0-2, 25 Table 25-1). -/
def State.limit (s : State) : Nat :=
  match s.mgmt.cls with
  | .degraded => 1000
  | .a | .b =>
    match s.profile with
    | .c2m2 | .c1m3 => 1800
    | .c3m1 => 2400

/-- Compute bents of the running profile. -/
def State.computeBents (s : State) : List Nat := List.range (activeCores s.profile / 8)

/-- One step down, to the lowest target. -/
def State.stepDown (s : State) (b : Nat) : State :=
  let B := s.bent b
  s.setBent b { B with steps := if B.steps < Config.lowestSteps then B.steps + 1 else B.steps }

/-- One step up, to at most nominal. -/
def State.stepUp (s : State) (b : Nat) : State :=
  let B := s.bent b
  s.setBent b { B with steps := B.steps - 1 }

/-- Whether a bent is the hotter side of a condition of row 2. -/
def State.involved (s : State) (b : Nat) : Bool := s.reaches b 420 12 20

/-- The hottest of a list of bents, the first of equals. -/
def State.hottest (s : State) : List Nat → Option Nat
  | [] => none
  | b :: r =>
    match s.hottest r with
    | none => some b
    | some c => if s.bentDeg b < s.bentDeg c then some c else some b

/-- The changes of a sample: the first row of Table 21-4 that holds. -/
def State.supply (s : State) : State :=
  let all := s.computeBents
  let allHot := all.all fun b => (s.bent b).hot.isSome
  let watts := s.mgmt.watts
  if s.limit < watts then all.foldl (fun s b => s.stepDown b) s
  else
    match s.hottest (allBents.filter fun b => s.involved b) with
    | some b => if allHot then all.foldl (fun s b => s.stepDown b) s else s.stepDown b
    | none =>
      if allHot then all.foldl (fun s b => s.stepDown b) s
      else if watts * 100 < s.limit * 98 then
        (allBents.filter fun b => (s.bent b).hot.isNone).foldl (fun s b => s.stepUp b) s
      else s

/-- In-service sensors that read 115 degrees or more (25 R380). -/
def State.over115 (s : State) : List Nat :=
  (s.mgmt.sensors.filter fun p => !p.2.voted && decide (460 ≤ p.2.reading)).map Prod.fst

/-- Sensors due to be taken back. -/
def State.dueSensors (s : State) : List Agenda :=
  s.mgmt.sensors.filterMap fun p => if p.2.voted && decide (50000 ≤ p.2.inBand) then some (.due (.sensorTakeBack p.1)) else none

/-- Every sensor reads below 60 degrees, so that a tripped module may begin its reset (25 R380). -/
def State.cool (s : State) : Bool := s.mgmt.sensors.all fun p => decide (p.2.reading < 240)

/-- POWER_SAMPLE (21 R335 to R337): readings and votes, marks, supply steps; the thermal trip is watched for (25 R380). -/
def execPowerSample (watts : Nat) (rd : List (Nat × SensorSample)) (s : State) : Host.Outcome State Fault Refusal :=
  let s := { s with mgmt := { s.mgmt with samples := s.mgmt.samples + 1, watts := watts } }
  let s := rd.foldl (fun s p => if p.1 < 64 then s.takeSample p.1 p.2 else s) s
  let s := allBents.foldl (fun s b => s.markBent b) s
  let s := s.supply
  let hot := s.over115
  let trip := s.mgmt.trip || (!s.mgmt.dead && hot.any fun i => s.mgmt.hot115.contains i)
  let s' : State := { s with mgmt := { s.mgmt with hot115 := hot, trip := trip } }
  let due := s'.dueSensors ++ (if trip && !s'.mgmt.dead then [.due .thermalTrip] else []) ++
    (if s'.mgmt.dead && s'.cool then [.due .moduleReset] else [])
  .next { s' with agenda := due ++ s'.agenda }

/-! ## The draw window (21 R333) -/

/-- DRAW_WINDOW_CLOSE, after 64 cycles: the total is kept, the sums begin again at 0, the gate reopens. The power controller
gives the budget of the next window, never below 16,384; which one is free. -/
def execDrawWindowClose (bent : Nat) (s : State) : Host.Outcome State Fault Refusal :=
  s.event
    (let B := s.bent bent
     if decide (32 ≤ bent) || decide (B.cycle < 64) then none
     else
       let budget := max 16384 (Config.windowBudget s.fresh)
       let s := s.tick.setBent bent { B with last := B.sum, sum := 0, cycle := 0, budget := budget }
       some ((coresOf bent).foldl (fun s c => s.setCore c { s.core c with wsum := [] }) s))

end Sys2Proof.Machine
end

