-- ==== Sys2Proof/Machine/Management.lean ====
section
/-! DEFINITION. Cooling classes and role changes (25 R366 to R375), errors and scrubbing (25 R376 to R378), reset, boot and
firmware (25 R379 to R381; 23 R361 to R365). -/

namespace Sys2Proof.Machine

/-! ## Cooling classes (25 R366, R367) -/

/-- Coolant within class B, or within class A (Table 25-1). -/
def withinB (inlet flow : Nat) : Bool := decide (inlet ≤ 32) && decide (25 ≤ flow)
def withinA (inlet flow : Nat) : Bool := decide (inlet ≤ 40) && decide (15 ≤ flow)

/-- The order of the classes. -/
def classRank : CoolClass → Nat
  | .degraded => 0
  | .a => 1
  | .b => 2

/-- The class that comes into force: lower after 1 s (10 checks) outside, higher after 60 s (600 checks) within, never above
that of the cold plate (25 R366). -/
def Mgmt.nextClass (m : Mgmt) : Option CoolClass :=
  let lowerTo : CoolClass := if 10 ≤ m.outA then .degraded else .a
  if classRank m.fruClass < classRank m.cls then some (if 10 ≤ m.outA then .degraded else m.fruClass)
  else
  match m.cls with
  | .b => if 10 ≤ m.outB then some lowerTo else none
  | .a =>
    if 10 ≤ m.outA then some .degraded
    else if m.fruClass = .b && decide (600 ≤ m.inB) then some .b else none
  | .degraded =>
    if m.fruClass = .b && decide (600 ≤ m.inB) then some .b
    else if m.fruClass != .degraded && decide (600 ≤ m.inA) then some .a else none

/-- COOLANT_CHECK (25 R366, R380): the class of the FRU record, the inlet temperature and the flow as they are read. A class
that is due comes into force next, and so does a trip, which nothing sets while the power is off. -/
def execCoolantCheck (plate : ColdPlate) (flow : Nat) (s : State) : Host.Outcome State Fault Refusal :=
  let m := s.mgmt
  let inlet := plate.inlet
  let m : Mgmt :=
    { m with
      inlet := inlet, flow := flow, fruClass := plate.fru, trip := m.trip || (!m.dead && decide (flow < 5))
      inB := if withinB inlet flow then m.inB + 1 else 0, outB := if withinB inlet flow then 0 else m.outB + 1
      inA := if withinA inlet flow then m.inA + 1 else 0, outA := if withinA inlet flow then 0 else m.outA + 1 }
  let due := (if m.trip && !m.dead then [Agenda.due .thermalTrip] else []) ++
    (if m.nextClass.isSome then [Agenda.due .coolingClassChange] else [])
  .next { s with mgmt := m, agenda := due ++ s.agenda }

/-- A profile is allowed in a class (00 Table 0-2). -/
def allowed (p : Profile) (c : CoolClass) : Bool :=
  match p, c with
  | .c1m3, _ => true
  | .c2m2, .degraded => false
  | .c2m2, _ => true
  | .c3m1, .b => true
  | .c3m1, _ => false

/-- The profile that a class falls back to (25 R367). -/
def fallback (c : CoolClass) : Profile :=
  match c with
  | .degraded => .c1m3
  | .a | .b => .c2m2

/-- The role change that a class calls for when the running profile is not allowed (25 R367); Dyrok, which starts it, runs from
READY on. -/
def State.classRole (s : State) : List Agenda :=
  if !s.hostif.ready || s.mgmt.dead || allowed s.profile s.mgmt.cls || s.mgmt.role.isSome then [] else [.due (.roleChange (some (fallback s.mgmt.cls)) true)]

/-- COOLING_CLASS_CHANGE (25 R366, R367): a rise of the class changes no profile by itself. -/
def execCoolingClassChange (s : State) : Host.Outcome State Fault Refusal :=
  s.event
    (match s.mgmt.nextClass with
     | none => none
     | some c =>
       let falls := decide (classRank c < classRank s.mgmt.cls)
       let s := ({ s with mgmt := { s.mgmt with cls := c } } : State).logErr 0 8 0 0 none 0
       some (if falls then { s with agenda := s.classRole ++ s.agenda } else s))

/-! ## Role changes (25 R368 to R374) -/

/-- The code of a profile in a record (25 Table 25-6). -/
def profileCode : Profile → Nat
  | .c2m2 => 1
  | .c3m1 => 2
  | .c1m3 => 3

/-- The bit of a layer in the failure marks: 4 x tower + position. -/
def markBit (k : Nat) : Nat := 4 * (k % 2) + k / 2

/-- A layer that takes the compute role and may not (Table 25-2, row 3). -/
def State.layerBad (s : State) (k : Nat) : Bool :=
  decide (3 ≤ s.votedIn k) || ((List.range 4).any fun b => (s.bent (4 * k + b)).hot.isSome) ||
    s.mgmt.flash.marks.getLsbD (markBit k)

/-- Layers that take the compute role in a change. -/
def newLayers (old target : Profile) : List Nat :=
  (List.range (computeLayers target)).filter fun k => decide (computeLayers old ≤ k)

/-- A test of Table 25-2 refuses the request. -/
def State.roleRefused (s : State) (p : Profile) : Bool :=
  p = s.profile || !allowed p s.mgmt.cls || ((newLayers s.profile p).any fun k => s.layerBad k) ||
    decide (l2MiB p < (s.ctxs.map fun c => c.2.carve).sum + 512) || s.mgmt.role.isSome || s.mgmt.resetPending

/-- The request is the one that R367 calls for: the running profile is not allowed in the class in force, and the target is the
one that the class falls back to. It meets only the first row of Table 25-2. -/
def State.calledFor (s : State) (target : Option Profile) : Bool :=
  !allowed s.profile s.mgmt.cls && target == some (fallback s.mgmt.cls)

/-- A role change that is carried out begins to drain (25 R370, step 1). -/
def State.startRole (s : State) (p : Profile) : State :=
  let s := s.logErr 0 9 0 0 none (profileCode s.profile + 256 * profileCode p)
  let s := { s with mgmt := { s.mgmt with role := some { target := p, old := s.profile } } }
  s.ctxs.foldl (fun s c =>
    if c.2.st = .live then (s.setCtx c.1 { s.ctx c.1 with wasLive := true }).startDrain c.1
    else s.setCtx c.1 { s.ctx c.1 with wasLive := false }) s

/-- ROLE_CHANGE (25 R369, R370 step 1): a target of `none` is an arrangement that is no profile (00 R3). A refused request
leaves a record of level 1. Dyrok, which is asked, runs from READY on. One that a class calls for while another is in progress
waits for its result (Table 25-3). -/
def execRoleChange (target : Option Profile) (called : Bool) (s : State) : Host.Outcome State Fault Refusal :=
  let refused (code : Nat) : State := s.logCorrected 9 0 0 (profileCode s.profile + 256 * code)
  if !s.hostif.ready || s.mgmt.dead then .next s
  else match target with
  | none => .next (refused 0)
  | some p =>
    if called && s.calledFor target then
      (if s.mgmt.role.isSome then .next s
       else if p = s.profile then .next (refused (profileCode p))
       else .next (s.startRole p))
    else if s.roleRefused p then .next (refused (profileCode p))
    else .next (s.startRole p)

/-- Contexts that were LIVE before the change return to LIVE. -/
def State.relive (s : State) : State :=
  { s with ctxs := s.ctxs.map fun p =>
      if p.2.wasLive && (p.2.st == .draining || p.2.st == .out) then (p.1, { p.2 with st := .live, wasLive := false })
      else (p.1, { p.2 with wasLive := false }) }

/-- Layers of a list that fail the core self-test are marked failed, each with a record (25 R375). -/
def State.markFailed (s : State) (source : Nat) (selfTest : BitVec 8) (ks : List Nat) : State :=
  (ks.filter fun k => !selfTest.getLsbD (markBit k)).foldl (fun s k =>
    let m := s.mgmt
    let s' : State :=
      { s with mgmt := { m with flash := { m.flash with marks := m.flash.marks ||| BitVec.twoPow 8 (markBit k) } } }
    s'.logErr 0 source (locOf (32 * k)) 0 none 0) s

/-- Every TLB, L1 and clamp table is empty; entries of saved operations stay in the save area (25 R370, step 5). -/
def State.emptyCores (s : State) : State :=
  { s with
    cores := s.cores.filterMap fun p => if p.1 = savedCore then some (p.1, { Core.init with clamps := p.2.clamps }) else none
    bents := s.bents.map fun p => (p.1, { p.2 with tlb := [] }) }

/-- Saved groups of every LIVE context return as far as they fit. -/
def State.restoreEvery (s : State) : State :=
  s.ctxs.foldl (fun s p => if (s.ctx p.1).st = .live then State.restoreAll p.1 (s.savedOf p.1).length s else s) s

/-- Marks a block with a poison mark, at level 2. -/
def State.deferError (s : State) (source key : Nat) : State :=
  ({ s with mem := s.mem.mark key } : State).logErr 2 source (s.blockLoc source key) (blockPa key) none 0

/-- Uncorrectable errors in blocks of the L2, by block number: each is marked, at level 2 (25 R377, Table 25-3). -/
def State.markL2 (s : State) (bad : List Nat) : State :=
  bad.foldl (fun s b => s.deferError 4 (32 * b)) s

/-- Requests held at homes are held at the slices of the profile in force (25 R370, step 5; R373). -/
def State.reslice (s : State) : State := { s with deferred := s.deferred.map fun d => { d with slice := s.sliceOf d.key } }

/-- ROLE_CHANGE_RECONFIGURE (25 R370, steps 2 to 6; Table 25-3). -/
def execRoleChangeReconfigure (found : Findings) (s : State) : Host.Outcome State Fault Refusal :=
  s.event
    (match s.mgmt.role with
     | none => none
     | some r =>
       if s.anyResident then none
       else
         let layers := newLayers r.old r.target
         let s := (s.markL2 found.bad).markFailed 9 found.pass layers
         let ok := layers.all fun k => found.pass.getLsbD (markBit k)
         let p := if ok then r.target else r.old
         let s' : State := { s.emptyCores with profile := p, mgmt := { s.mgmt with role := none } }
         let s := s'.reslice.receiveHeld
         let s := s.relive.restoreEvery
         let s := s.logErr 0 9 0 0 none (profileCode r.old + 256 * profileCode p)
         some { s with agenda := s.classRole ++ s.agenda })

/-- ROLE_CHANGE_ABANDON (25 R371): in step 1, while a group is still resident. Groups that were being saved go on; a class that
has fallen since calls for its own change (R367). -/
def execRoleChangeAbandon (s : State) : Host.Outcome State Fault Refusal :=
  s.event
    (match s.mgmt.role with
     | none => none
     | some r =>
       if !s.anyResident then none
       else
         let s := s.logErr 0 9 0 0 none (profileCode r.old + 256 * profileCode r.target)
         let s' : State :=
           { s with
             mgmt := { s.mgmt with role := none }
             groups := s.groups.map fun p =>
               if (s.ctx p.2.ctx).wasLive then (p.1, { p.2 with saving := false }) else p }
         let s := s'.relive
         some { s with agenda := s.classRole ++ s.agenda })

/-! ## Errors (25 R376 to R378) -/

/-- A module reset follows an error of level 5 (25 Table 25-5). -/
def State.resetFor (s : State) (source : Nat) : State :=
  let s := s.logErr 5 source 0 0 none 0
  { s with mgmt := { s.mgmt with resetPending := true }, agenda := .due .moduleReset :: s.agenda }

/-- Contexts that have a group on a core. -/
def State.contextsOn (s : State) (core : Nat) : List Nat :=
  s.groups.foldl (fun l p => if p.2.core = core && p.2.resident then insertNat l p.2.ctx else l) []

/-- An entry of a finite map goes; which one is free. -/
def dropOne {α : Type} (m : KV α) (pick : Nat) : KV α := if m.isEmpty then m else m.eraseIdx (pick % m.length)

/-- A gang that an error may strike. -/
def State.strikable (s : State) (g : Nat) : Bool :=
  match s.gang g with
  | some G => G.st == .resident || G.st == .trap
  | none => false

/-- The block of a request held at a home goes into the marks of its memory (25 Table 25-4). -/
def State.spoilHeld (s : State) (d : Deferred) : State :=
  s.deferError 4 d.key

/-- A clamp or split table of a core fails: every context with a group there is killed; with none, the record stands alone (25
Table 25-5). -/
def State.tableError (s : State) (core : Nat) : State :=
  let cs := s.contextsOn core
  if cs.isEmpty then s.logErr 4 2 (locOf core) 0 none 0 else cs.foldl (fun s c => s.killFor c 2 (locOf core) 0) s

/-- UNCORRECTABLE_ERROR (25 Tables 25-4, 25-5): each error has one level by where it strikes. -/
def execUncorrectableError (e : ErrSite) (s : State) : Host.Outcome State Fault Refusal :=
  s.event
    (match e with
     | .corrected source loc pa => some (s.logCorrected source loc pa 0)
     | .gangRegs g => if s.strikable g then some (s.haltGang g 1 0) else none
     -- the two copies of a protected gang differ: it halts at the next instruction that compares them (17 R294)
     | .mismatch g =>
       if s.strikable g && ((s.gang g).map Gang.prot).getD false then some (s.modGang g fun G => { G with differs := true })
       else none
     | .storeBlock gr shared block =>
       (match (if shared then Place.share gr (32 * block) else Place.scratch gr (32 * block)).key with
        | some k => some (s.deferError 2 k)
        | none => none)
     | .l2Block c block =>
       (match (Place.carve c (32 * block)).key with
        | some k => some (s.deferError 4 k)
        | none => none)
     | .hbmBlock block => some (s.deferError 5 (32 * block))
     | .l2Line block => some (s.markL2 [block])
     | .deferral j => (s.deferred[j]?).map s.spoilHeld
     | .l1 core =>
       let C := s.core core
       some ((s.tick.setCore core { C with l1 := dropOne C.l1 (Config.freeChoice s.fresh) }).logCorrected 3 (locOf core) 0 0)
     | .tlb core =>
       let C := s.core core
       some ((s.tick.setCore core { C with tlb := dropOne C.tlb (Config.freeChoice s.fresh) }).logCorrected 3 (locOf core) 0 0)
     | .bentTlb b =>
       let B := s.bent b
       some ((s.tick.setBent b { B with tlb := dropOne B.tlb (Config.freeChoice s.fresh) }).logCorrected 3 (locOfBent b) 0 0)
     | .clampTable core => some (s.tableError core)
     | .splitTable core => some (s.tableError core)
     | .pageTable c => some (s.killFor c 5 0 0)
     | .ringBlock c => some (s.killFor c 5 0 0)
     | .ridgeReg c => some (s.killFor c 13 0 0)
     | .savedState c => some (s.killFor c 5 0 0)
     | .ctxState c => some (s.killFor c 13 0 0)
     | .distributor => some (s.resetFor 13)
     | .ridgeUnit => some (s.resetFor 13)
     | .taskStore => some (s.resetFor 13)
     | .benchCore => some (s.resetFor 14))

/-- HBM_SCRUB (25 R377): blocks that cannot be corrected are marked, at level 2. -/
def execHbmScrub (bad : List Nat) (s : State) : Host.Outcome State Fault Refusal :=
  .next (bad.foldl (fun s b => s.deferError 5 (32 * b)) s)

/-- L2_SCRUB (25 R377). -/
def execL2Scrub (bad : List Nat) (s : State) : Host.Outcome State Fault Refusal := .next (s.markL2 bad)

/-! ## Reset (25 R379, R380) -/

/-- The package after its power was removed or it was reset: every context and attach has ended. What the management
controller holds, the flash and the host's memory stay; the counters and the host registers begin again (log 3). -/
def State.package (s : State) : State :=
  { State.reset with
    host := s.host, node := s.node, out := s.out, agenda := s.agenda, fresh := s.fresh, nextGang := s.nextGang
    nextGroup := s.nextGroup, nextLaunch := s.nextLaunch, nextReq := s.nextReq
    hostif := { State.reset.hostif with rate := s.hostif.rate, width := s.hostif.width }
    fabric := { State.reset.fabric with
      ports := s.fabric.ports, synced := s.fabric.synced, aligned := s.fabric.aligned, present := s.fabric.present
      nextId := s.fabric.nextId }
    mgmt :=
      { s.mgmt with role := none, resetPending := false, trip := false, booted := false, running := none, measLog := [], tried := false } }

/-- THERMAL_TRIP (25 R380): power is removed from every die and stack at once. -/
def execThermalTrip (s : State) : Host.Outcome State Fault Refusal :=
  s.event
    (if !s.mgmt.trip || s.mgmt.dead then none
     else
       let s := s.logErr 5 8 0 0 none 0
       let s := s.package
       some { s with mgmt := { s.mgmt with dead := true, hot115 := [], resetPending := true } })

/-- MODULE_RESET (25 R379); after a thermal trip, only once every sensor reads below 60 degrees (R380). -/
def execModuleReset (s : State) : Host.Outcome State Fault Refusal :=
  s.event
    (if s.mgmt.dead && !s.cool then none
     else
       let s := s.package
       some { s with mgmt := { s.mgmt with dead := false } })

/-- DYROK_WATCHDOG (25 Table 25-5): Dyrok has been silent for 1 s. -/
def execDyrokWatchdog (s : State) : Host.Outcome State Fault Refusal :=
  s.event (if s.mgmt.dead then none else some (s.resetFor 14))

/-! ## Boot (23 R361 to R363, 25 R375) -/

/-- The rollback floor: 0 when its record does not verify. -/
def Flash.floorOf (f : Flash) : Option Nat :=
  match f.floor with
  | some r => if Config.mldsaVerify Config.anchorKey (Config.floorBytes r.floor) r.sig then some r.floor.toNat else none
  | none => none

/-- The digest of a header's other fields (23 R362). -/
def SlotImage.headerDigest (x : SlotImage) : Nat :=
  Config.shake256 (Config.headerBytes x.version x.secVersion x.length x.digest)

/-- A slot is bootable: its header and image verify, and its security version is at or above the floor. -/
def SlotImage.bootable (x : SlotImage) (floor : Nat) : Bool :=
  Config.mldsaVerify Config.anchorKey (SlotImage.headerDigest x) x.sig && Config.shake256 x.body == x.digest &&
    decide (floor ≤ x.secVersion.toNat)

/-- The slot that boots: the bootable one of higher version, slot A on a tie; one slot may be excluded once. -/
def Mgmt.chosen (m : Mgmt) : Option (Bool × SlotImage) :=
  let floor := m.flash.floorOf.getD 0
  let try_ (b : Bool) (x : Option SlotImage) : Option SlotImage :=
    match x with
    | some i => if SlotImage.bootable i floor && m.exclude != some b then some i else none
    | none => none
  match try_ false m.flash.slotA, try_ true m.flash.slotB with
  | some a, some b => if a.version < b.version then some (true, b) else some (false, a)
  | some a, none => some (false, a)
  | none, some b => some (true, b)
  | none, none => none

/-- A profile can be set at boot: allowed in the class, and its compute positions serve (25 R375). -/
def State.canSet (s : State) (p : Profile) : Bool :=
  allowed p s.mgmt.cls && (List.range (computeLayers p)).all fun k => !s.mgmt.flash.marks.getLsbD (markBit k)

/-- The profile at boot: the first of C2M2, C1M3 that can be set. -/
def State.bootProfile (s : State) : Option Profile :=
  if s.canSet .c2m2 then some .c2m2 else if s.canSet .c1m3 then some .c1m3 else none

/-- Layers tested at boot: the compute positions of the first profile that the class allows. -/
def State.bootLayers (s : State) : List Nat :=
  List.range (computeLayers (if allowed .c2m2 s.mgmt.cls then .c2m2 else .c1m3))

/-- The ROM has derived the identity key, chosen a slot and measured its image (23 R363 to R365). -/
def State.startSlot (s : State) (slot : Bool) (image : SlotImage) : State :=
  { s with
    mgmt := { s.mgmt with running := some slot, measLog := [image.digest] }, hostif := { s.hostif with slotB := slot } }

/-- BOOT (23 R363; 25 R375, R379): with no slot, or no profile, READY stays clear and the failure is reported. The identity key
is derived at each boot (23 R364). -/
def execBoot (selfTest : BitVec 8) (s : State) : Host.Outcome State Fault Refusal :=
  s.event
    (if s.hostif.ready || s.mgmt.dead then none
     else
       let s := if s.mgmt.flash.floorOf.isNone then s.logErr 0 10 0 0 none 0 else s
       let pick := s.mgmt.chosen
       let s := { s with mgmt := { s.mgmt with exclude := none, role := none, tried := true, idKey := Config.identityKey s.mgmt.flash.helper } }
       match pick with
       | none => some (s.logErr 0 10 0 0 none 0)
       | some (slot, image) =>
         let s := s.startSlot slot image
         let s := s.markFailed 10 selfTest (s.bootLayers.filter fun k => !s.mgmt.flash.marks.getLsbD (markBit k))
         match s.bootProfile with
         | none => some (s.logErr 0 10 0 0 none 0)
         | some p =>
           some
             { s with
               mem := Memory.empty, profile := p, mgmt := { s.mgmt with booted := true }
               hostif := { s.hostif with ready := true } })

/-- The slot whose image the boot in course runs, or is to run (23 R363). -/
def Mgmt.booting (m : Mgmt) : Option Bool := if m.tried then m.running else m.chosen.map Prod.fst

/-- BOOT_TIMEOUT (23 R363): Dyrok has not set READY within 30 s; the module is reset, and the next boot excludes the slot
once. A boot that found no slot runs no Dyrok, and waits for the flash to be rewritten (log 33). -/
def execBootTimeout (s : State) : Host.Outcome State Fault Refusal :=
  s.event
    (if s.hostif.ready || s.mgmt.dead then none
     else
       s.mgmt.booting.map fun slot =>
         { s with
           mgmt := { s.mgmt with exclude := some slot, resetPending := true }, agenda := .due .moduleReset :: s.agenda })

/-- A write of the flash is turned away (23 R363): one of the slot that runs, and one of the floor before an image that could
boot has set READY. -/
def State.flashRefused (s : State) (w : FlashWrite) : Bool :=
  match w with
  | .slotA _ => s.mgmt.running == some false
  | .slotB _ => s.mgmt.running == some true
  | .floor _ => !s.hostif.ready && s.mgmt.chosen.isSome
  | .control _ _ _ => false

/-- FIRMWARE_UPDATE (25 R381, R375; 23 R363, Table 23-9). -/
def execFirmwareUpdate (w : FlashWrite) (s : State) : Host.Outcome State Fault Refusal :=
  let f := s.mgmt.flash
  let f : Flash := match w with
    | .floor r => { f with floor := some r }
    | .slotA i => { f with slotA := some i }
    | .slotB i => { f with slotB := some i }
    | .control marks helper cert => { f with marks := marks, helper := helper, cert := cert }
  .next (if s.flashRefused w then s else { s with mgmt := { s.mgmt with flash := f } })

/-! ## Answers to the outside (23 R365, 25 R381) -/

/-- The code of a cooling class in a measurement or a PLDM answer (log 6). -/
def classCode : CoolClass → Nat
  | .b => 2
  | .a => 1
  | .degraded => 0

/-- The measurement log as it stands: the stages, then the profile, the class and the accepted features that Dyrok adds. -/
def State.measurements (s : State) : List Nat :=
  s.mgmt.measLog ++
    (if s.mgmt.booted then [profileCode s.profile, classCode s.mgmt.cls, s.hostif.feat.toNat] else [])

/-- SPDM_REQUEST (23 R365): the values are those in force when the response is signed. The management controller answers through
every reset (25 R381). -/
def execSpdmRequest (nonce : Nat) (s : State) : Host.Outcome State Fault Refusal :=
  .next (s.emit (.spdm nonce s.measurements (Config.identitySign s.mgmt.idKey nonce s.measurements)))

/-- What a PLDM request reads (25 R381). -/
def State.pldm (s : State) (r : PldmRequest) : List Int :=
  match r with
  | .power => [(s.mgmt.watts : Int)]
  | .coolant => [(s.mgmt.inlet : Int), (s.mgmt.flow : Int)]
  | .sensor i => [(s.sensor i).reading]
  | .coolClass => [(classCode s.mgmt.cls : Int)]
  | .fru => [(classCode s.mgmt.fruClass : Int)]
  | .record i => ((s.mgmt.records[i]?).map fun r => r.bytes.map fun b => (b.toNat : Int)).getD []

/-- PLDM_MONITOR_REQUEST (25 R381). -/
def execPldmMonitorRequest (r : PldmRequest) (s : State) : Host.Outcome State Fault Refusal :=
  .next (s.emit (.pldm r (s.pldm r)))

end Sys2Proof.Machine
end

