-- ==== Sys2Proof/Machine/Dispatch.lean ====
section
/-! DEFINITION. What each instruction and each event does: one arm per constructor of `Instr`. -/

namespace Sys2Proof.Machine

/-- One instruction executed, or one event happening. -/
def exec (i : Instr) (s : State) : Host.Outcome State Fault Refusal :=
  match i with
  | .nop sm => Sys2Proof.Machine.execNop sm s
  | .br sm o => Sys2Proof.Machine.execBr sm o s
  | .brz sm d e => Sys2Proof.Machine.execBrz sm d e s
  | .brnz sm d e => Sys2Proof.Machine.execBrnz sm d e s
  | .call sm o => Sys2Proof.Machine.execCall sm o s
  | .ret sm => Sys2Proof.Machine.execRet sm s
  | .jr sm d a => Sys2Proof.Machine.execJr sm d a s
  | .part sm d a => Sys2Proof.Machine.execPart sm d a s
  | .regang sm => Sys2Proof.Machine.execRegang sm s
  | .yield sm d e => Sys2Proof.Machine.execYield sm d e s
  | .exit sm => Sys2Proof.Machine.execExit sm s
  | .setm sm e => Sys2Proof.Machine.execSetm sm e s
  | .trap sm e => Sys2Proof.Machine.execTrap sm e s
  | .tret sm => Sys2Proof.Machine.execTret sm s
  | .sysc sm e => Sys2Proof.Machine.execSysc sm e s
  | .rdsr sm d e => Sys2Proof.Machine.execRdsr sm d e s
  | .wrsr sm d e => Sys2Proof.Machine.execWrsr sm d e s
  | .add sm d a b => Sys2Proof.Machine.execAdd sm d a b s
  | .sub sm d a b => Sys2Proof.Machine.execSub sm d a b s
  | .mul sm d a b => Sys2Proof.Machine.execMul sm d a b s
  | .mulh sm d a b => Sys2Proof.Machine.execMulh sm d a b s
  | .and sm d a b => Sys2Proof.Machine.execAnd sm d a b s
  | .or sm d a b => Sys2Proof.Machine.execOr sm d a b s
  | .xor sm d a b => Sys2Proof.Machine.execXor sm d a b s
  | .shl sm d a b => Sys2Proof.Machine.execShl sm d a b s
  | .shr sm d a b => Sys2Proof.Machine.execShr sm d a b s
  | .sar sm d a b => Sys2Proof.Machine.execSar sm d a b s
  | .rot sm d a b => Sys2Proof.Machine.execRot sm d a b s
  | .min sm d a b => Sys2Proof.Machine.execMin sm d a b s
  | .max sm d a b => Sys2Proof.Machine.execMax sm d a b s
  | .sel sm d a b => Sys2Proof.Machine.execSel sm d a b s
  | .mov sm d a => Sys2Proof.Machine.execMov sm d a s
  | .queuePush sm d a => Sys2Proof.Machine.execQueuePush sm d a s
  | .queuePop sm d a => Sys2Proof.Machine.execQueuePop sm d a s
  | .popc sm d a => Sys2Proof.Machine.execPopc sm d a s
  | .clz sm d a => Sys2Proof.Machine.execClz sm d a s
  | .ffs sm d a => Sys2Proof.Machine.execFfs sm d a s
  | .rget sm d a => Sys2Proof.Machine.execRget sm d a s
  | .rput sm d a => Sys2Proof.Machine.execRput sm d a s
  | .li sm d e => Sys2Proof.Machine.execLi sm d e s
  | .lih sm d e => Sys2Proof.Machine.execLih sm d e s
  | .addImm sm d a e => Sys2Proof.Machine.execAddImm sm d a e s
  | .mulImm sm d a e => Sys2Proof.Machine.execMulImm sm d a e s
  | .andImm sm d a e => Sys2Proof.Machine.execAndImm sm d a e s
  | .orImm sm d a e => Sys2Proof.Machine.execOrImm sm d a e s
  | .xorImm sm d a e => Sys2Proof.Machine.execXorImm sm d a e s
  | .shlImm sm d a e => Sys2Proof.Machine.execShlImm sm d a e s
  | .shrImm sm d a e => Sys2Proof.Machine.execShrImm sm d a e s
  | .sarImm sm d a e => Sys2Proof.Machine.execSarImm sm d a e s
  | .rotImm sm d a e => Sys2Proof.Machine.execRotImm sm d a e s
  | .minImm sm d a e => Sys2Proof.Machine.execMinImm sm d a e s
  | .maxImm sm d a e => Sys2Proof.Machine.execMaxImm sm d a e s
  | .fadd sm d a b => Sys2Proof.Machine.execFadd sm d a b s
  | .fsub sm d a b => Sys2Proof.Machine.execFsub sm d a b s
  | .fmul sm d a b => Sys2Proof.Machine.execFmul sm d a b s
  | .fma sm d a b => Sys2Proof.Machine.execFma sm d a b s
  | .fms sm d a b => Sys2Proof.Machine.execFms sm d a b s
  | .fmin sm d a b => Sys2Proof.Machine.execFmin sm d a b s
  | .fmax sm d a b => Sys2Proof.Machine.execFmax sm d a b s
  | .div sm d a b => Sys2Proof.Machine.execDiv sm d a b s
  | .fneg sm d a => Sys2Proof.Machine.execFneg sm d a s
  | .fabs sm d a => Sys2Proof.Machine.execFabs sm d a s
  | .sqrt sm d a => Sys2Proof.Machine.execSqrt sm d a s
  | .rcp sm d a => Sys2Proof.Machine.execRcp sm d a s
  | .rsqrt sm d a => Sys2Proof.Machine.execRsqrt sm d a s
  | .cvt sm d a t => Sys2Proof.Machine.execCvt sm d a t s
  | .ceq sm d a b => Sys2Proof.Machine.execCeq sm d a b s
  | .cne sm d a b => Sys2Proof.Machine.execCne sm d a b s
  | .clt sm d a b => Sys2Proof.Machine.execClt sm d a b s
  | .cle sm d a b => Sys2Proof.Machine.execCle sm d a b s
  | .cun sm d a b => Sys2Proof.Machine.execCun sm d a b s
  | .sceq sm d a b => Sys2Proof.Machine.execSceq sm d a b s
  | .scne sm d a b => Sys2Proof.Machine.execScne sm d a b s
  | .sclt sm d a b => Sys2Proof.Machine.execSclt sm d a b s
  | .scle sm d a b => Sys2Proof.Machine.execScle sm d a b s
  | .scun sm d a b => Sys2Proof.Machine.execScun sm d a b s
  | .mand sm d a b => Sys2Proof.Machine.execMand sm d a b s
  | .mor sm d a b => Sys2Proof.Machine.execMor sm d a b s
  | .mxor sm d a b => Sys2Proof.Machine.execMxor sm d a b s
  | .mnot sm d a => Sys2Proof.Machine.execMnot sm d a s
  | .msave sm d a => Sys2Proof.Machine.execMsave sm d a s
  | .mrest sm d a => Sys2Proof.Machine.execMrest sm d a s
  | .mpop sm d a => Sys2Proof.Machine.execMpop sm d a s
  | .mffs sm d a => Sys2Proof.Machine.execMffs sm d a s
  | .redadd sm d a => Sys2Proof.Machine.execRedadd sm d a s
  | .redmin sm d a => Sys2Proof.Machine.execRedmin sm d a s
  | .redmax sm d a => Sys2Proof.Machine.execRedmax sm d a s
  | .scan sm d a => Sys2Proof.Machine.execScan sm d a s
  | .shfl sm d a b => Sys2Proof.Machine.execShfl sm d a b s
  | .shfi sm d a p k => Sys2Proof.Machine.execShfi sm d a p k s
  | .lsh sm d a b => Sys2Proof.Machine.execLsh sm d a b s
  | .btl sm d a b => Sys2Proof.Machine.execBtl sm d a b s
  | .btlh sm d a b => Sys2Proof.Machine.execBtlh sm d a b s
  | .dot8 sm d a b => Sys2Proof.Machine.execDot8 sm d a b s
  | .dot4 sm d a b => Sys2Proof.Machine.execDot4 sm d a b s
  | .ldb sm d a b => Sys2Proof.Machine.execLdb sm d a b s
  | .ldh sm d a b => Sys2Proof.Machine.execLdh sm d a b s
  | .ldw sm d a b => Sys2Proof.Machine.execLdw sm d a b s
  | .ldd sm d a b => Sys2Proof.Machine.execLdd sm d a b s
  | .ldq sm d a b => Sys2Proof.Machine.execLdq sm d a b s
  | .stb sm d a b => Sys2Proof.Machine.execStb sm d a b s
  | .sth sm d a b => Sys2Proof.Machine.execSth sm d a b s
  | .stw sm d a b => Sys2Proof.Machine.execStw sm d a b s
  | .std sm d a b => Sys2Proof.Machine.execStd sm d a b s
  | .stq sm d a b => Sys2Proof.Machine.execStq sm d a b s
  | .ldbImm sm d a o => Sys2Proof.Machine.execLdbImm sm d a o s
  | .ldhImm sm d a o => Sys2Proof.Machine.execLdhImm sm d a o s
  | .ldwImm sm d a o => Sys2Proof.Machine.execLdwImm sm d a o s
  | .lddImm sm d a o => Sys2Proof.Machine.execLddImm sm d a o s
  | .ldqImm sm d a o => Sys2Proof.Machine.execLdqImm sm d a o s
  | .stbImm sm d a o => Sys2Proof.Machine.execStbImm sm d a o s
  | .sthImm sm d a o => Sys2Proof.Machine.execSthImm sm d a o s
  | .stwImm sm d a o => Sys2Proof.Machine.execStwImm sm d a o s
  | .stdImm sm d a o => Sys2Proof.Machine.execStdImm sm d a o s
  | .stqImm sm d a o => Sys2Proof.Machine.execStqImm sm d a o s
  | .lds sm d a b => Sys2Proof.Machine.execLds sm d a b s
  | .sts sm d a b => Sys2Proof.Machine.execSts sm d a b s
  | .aadd sm d a c => Sys2Proof.Machine.execAadd sm d a c s
  | .aaddR sm d a c => Sys2Proof.Machine.execAaddR sm d a c s
  | .amin sm d a c => Sys2Proof.Machine.execAmin sm d a c s
  | .aminR sm d a c => Sys2Proof.Machine.execAminR sm d a c s
  | .amax sm d a c => Sys2Proof.Machine.execAmax sm d a c s
  | .amaxR sm d a c => Sys2Proof.Machine.execAmaxR sm d a c s
  | .aand sm d a c => Sys2Proof.Machine.execAand sm d a c s
  | .aandR sm d a c => Sys2Proof.Machine.execAandR sm d a c s
  | .aor sm d a c => Sys2Proof.Machine.execAor sm d a c s
  | .aorR sm d a c => Sys2Proof.Machine.execAorR sm d a c s
  | .axor sm d a c => Sys2Proof.Machine.execAxor sm d a c s
  | .axorR sm d a c => Sys2Proof.Machine.execAxorR sm d a c s
  | .axch sm d a c => Sys2Proof.Machine.execAxch sm d a c s
  | .axchR sm d a c => Sys2Proof.Machine.execAxchR sm d a c s
  | .acas sm d a c => Sys2Proof.Machine.execAcas sm d a c s
  | .acasR sm d a c => Sys2Proof.Machine.execAcasR sm d a c s
  | .afadd sm d a c => Sys2Proof.Machine.execAfadd sm d a c s
  | .afaddR sm d a c => Sys2Proof.Machine.execAfaddR sm d a c s
  | .fwr sm d a => Sys2Proof.Machine.execFwr sm d a s
  | .frd sm d a => Sys2Proof.Machine.execFrd sm d a s
  | .frdC sm d a => Sys2Proof.Machine.execFrdC sm d a s
  | .rclaim sm d a => Sys2Proof.Machine.execRclaim sm d a s
  | .rcommit sm d a => Sys2Proof.Machine.execRcommit sm d a s
  | .rawait sm d a => Sys2Proof.Machine.execRawait sm d a s
  | .rretire sm d a => Sys2Proof.Machine.execRretire sm d a s
  | .rbind sm a => Sys2Proof.Machine.execRbind sm a s
  | .bar sm d a n => Sys2Proof.Machine.execBar sm d a n s
  | .barar sm d a n => Sys2Proof.Machine.execBarar sm d a n s
  | .barw sm n => Sys2Proof.Machine.execBarw sm n s
  | .rwr sm d a b => Sys2Proof.Machine.execRwr sm d a b s
  | .rwait sm d e => Sys2Proof.Machine.execRwait sm d e s
  | .give sm e => Sys2Proof.Machine.execGive sm e s
  | .claim sm e => Sys2Proof.Machine.execClaim sm e s
  | .bjoin sm => Sys2Proof.Machine.execBjoin sm s
  | .bleave sm => Sys2Proof.Machine.execBleave sm s
  | .acq sm c => Sys2Proof.Machine.execAcq sm c s
  | .rel sm c => Sys2Proof.Machine.execRel sm c s
  | .fence sm c => Sys2Proof.Machine.execFence sm c s
  | .fsc sm sys => Sys2Proof.Machine.execFsc sm sys s
  | .xfence sm => Sys2Proof.Machine.execXfence sm s
  | .tcfg sm a => Sys2Proof.Machine.execTcfg sm a s
  | .mma sm d a b => Sys2Proof.Machine.execMma sm d a b s
  | .mmc sm d a b => Sys2Proof.Machine.execMmc sm d a b s
  | .mzero sm d a => Sys2Proof.Machine.execMzero sm d a s
  | .mfin sm d a => Sys2Proof.Machine.execMfin sm d a s
  | .tryBrace sm d e => Sys2Proof.Machine.execTryBrace sm d e s
  | .fail sm => Sys2Proof.Machine.execFail sm s
  | .resume sm d => Sys2Proof.Machine.execResume sm d s
  | .cut sm d a => Sys2Proof.Machine.execCut sm d a s
  | .steal sm => Sys2Proof.Machine.execSteal sm s
  | .bset sm a => Sys2Proof.Machine.execBset sm a s
  | .sttb sm d a o => Sys2Proof.Machine.execSttb sm d a o s
  | .stth sm d a o => Sys2Proof.Machine.execStth sm d a o s
  | .stt sm d a o => Sys2Proof.Machine.execStt sm d a o s
  | .rmin sm d a => Sys2Proof.Machine.execRmin sm d a s
  | .rmax sm d a => Sys2Proof.Machine.execRmax sm d a s
  | .rrd sm d a => Sys2Proof.Machine.execRrd sm d a s
  | .spawn sm d => Sys2Proof.Machine.execSpawn sm d s
  | .cpy sm d a b => Sys2Proof.Machine.execCpy sm d a b s
  | .cwait sm a => Sys2Proof.Machine.execCwait sm a s
  | .qbind sm d a => Sys2Proof.Machine.execQbind sm d a s
  | .nwait sm d a => Sys2Proof.Machine.execNwait sm d a s
  | .watchdogExpiry => Sys2Proof.Machine.execWatchdogExpiry s
  | .resultDelivery g o k => Sys2Proof.Machine.execResultDelivery g o k s
  | .instructionFetchFault g sp => Sys2Proof.Machine.execInstructionFetchFault g sp s
  | .faultReplay g sp tbl => Sys2Proof.Machine.execFaultReplay g sp tbl s
  | .faultDeliver g sp => Sys2Proof.Machine.execFaultDeliver g sp s
  | .syscAnswer g sp vals st => Sys2Proof.Machine.execSyscAnswer g sp vals st s
  | .barrierTimeout gr b => Sys2Proof.Machine.execBarrierTimeout gr b s
  | .claimServe gr => Sys2Proof.Machine.execClaimServe gr s
  | .storeAcknowledge g o k => Sys2Proof.Machine.execStoreAcknowledge g o k s
  | .gangRetire g => Sys2Proof.Machine.execGangRetire g s
  | .placeGroup => Sys2Proof.Machine.execPlaceGroup s
  | .placeFrame => Sys2Proof.Machine.execPlaceFrame s
  | .waitEventTest c q j => Sys2Proof.Machine.execWaitEventTest c q j s
  | .homeLoad g o k => Sys2Proof.Machine.execHomeLoad g o k s
  | .homeStore g o k => Sys2Proof.Machine.execHomeStore g o k s
  | .homeAtomic g o k => Sys2Proof.Machine.execHomeAtomic g o k s
  | .homeFutureWrite g o k => Sys2Proof.Machine.execHomeFutureWrite g o k s
  | .homeFutureRead g o k => Sys2Proof.Machine.execHomeFutureRead g o k s
  | .homeRingClaim g o k => Sys2Proof.Machine.execHomeRingClaim g o k s
  | .homeRingCommit g o k => Sys2Proof.Machine.execHomeRingCommit g o k s
  | .ringRequestResend g o k => Sys2Proof.Machine.execRingRequestResend g o k s
  | .homeRemoteWrite g o => Sys2Proof.Machine.execHomeRemoteWrite g o s
  | .homeCounterWait g o k => Sys2Proof.Machine.execHomeCounterWait g o k s
  | .quadTimeout g sp => Sys2Proof.Machine.execQuadTimeout g sp s
  | .matrixComplete g o => Sys2Proof.Machine.execMatrixComplete g o s
  | .fscStrikeEdge g sp => Sys2Proof.Machine.execFscStrikeEdge g sp s
  | .copyEngineRun g h j n => Sys2Proof.Machine.execCopyEngineRun g h j n s
  | .copyComplete g h => Sys2Proof.Machine.execCopyComplete g h s
  | .gatherRun g q j => Sys2Proof.Machine.execGatherRun g q j s
  | .gatherComplete g q => Sys2Proof.Machine.execGatherComplete g q s
  | .engineFaultMap g h tbl => Sys2Proof.Machine.execEngineFaultMap g h tbl s
  | .engineFaultDecline g h => Sys2Proof.Machine.execEngineFaultDecline g h s
  | .tableWalkComplete c core vpn => Sys2Proof.Machine.execTableWalkComplete c core vpn s
  | .tlbInvalidate c tbl => Sys2Proof.Machine.execTlbInvalidate c tbl s
  | .ridgeOfferAccept j => Sys2Proof.Machine.execRidgeOfferAccept j s
  | .ridgeCopyUpdate j => Sys2Proof.Machine.execRidgeCopyUpdate j s
  | .ridgeConfigure c k r => Sys2Proof.Machine.execRidgeConfigure c k r s
  | .taskAccept g sp lane => Sys2Proof.Machine.execTaskAccept g sp lane s
  | .taskRemoval j => Sys2Proof.Machine.execTaskRemoval j s
  | .launchQueueConfigure c q en cls quantum => Sys2Proof.Machine.execLaunchQueueConfigure c q en cls quantum s
  | .carveOutGrant c mib => Sys2Proof.Machine.execCarveOutGrant c mib s
  | .chipStrike => Sys2Proof.Machine.execChipStrike s
  | .contextStart c => Sys2Proof.Machine.execContextStart c s
  | .contextPreempt c => Sys2Proof.Machine.execContextPreempt c s
  | .groupSave gr => Sys2Proof.Machine.execGroupSave gr s
  | .drainComplete c => Sys2Proof.Machine.execDrainComplete c s
  | .drainDeadline c => Sys2Proof.Machine.execDrainDeadline c s
  | .contextSwitchIn c => Sys2Proof.Machine.execContextSwitchIn c s
  | .contextKill c => Sys2Proof.Machine.execContextKill c s
  | .reclaimComplete c => Sys2Proof.Machine.execReclaimComplete c s
  | .powerSample watts rd => Sys2Proof.Machine.execPowerSample watts rd s
  | .sensorTakeBack n => Sys2Proof.Machine.execSensorTakeBack n s
  | .drawWindowClose bent => Sys2Proof.Machine.execDrawWindowClose bent s
  | .functionLevelReset => Sys2Proof.Machine.execFunctionLevelReset s
  | .linkRetrain rate width => Sys2Proof.Machine.execLinkRetrain rate width s
  | .attachRequest => Sys2Proof.Machine.execAttachRequest s
  | .detachRequest => Sys2Proof.Machine.execDetachRequest s
  | .acceptWrite v => Sys2Proof.Machine.execAcceptWrite v s
  | .qtailDoorbell c q v => Sys2Proof.Machine.execQtailDoorbell c q v s
  | .queueConfigWrite c q w => Sys2Proof.Machine.execQueueConfigWrite c q w s
  | .completionConfigWrite c w => Sys2Proof.Machine.execCompletionConfigWrite c w s
  | .cheadWrite c v => Sys2Proof.Machine.execCheadWrite c v s
  | .bar0RegisterWrite off v => Sys2Proof.Machine.execBar0RegisterWrite off v s
  | .hostRecordTake c q readErr => Sys2Proof.Machine.execHostRecordTake c q readErr s
  | .hostCopy c q => Sys2Proof.Machine.execHostCopy c q s
  | .completionRecordWrite c => Sys2Proof.Machine.execCompletionRecordWrite c s
  | .netPuti g q => Sys2Proof.Machine.execNetPuti g q s
  | .netPutm g q => Sys2Proof.Machine.execNetPutm g q s
  | .netGet g q data => Sys2Proof.Machine.execNetGet g q data s
  | .netExch g q partner => Sys2Proof.Machine.execNetExch g q partner s
  | .netPacketReceive p => Sys2Proof.Machine.execNetPacketReceive p s
  | .netAckReceive id data => Sys2Proof.Machine.execNetAckReceive id data s
  | .netRefusalReceive id why => Sys2Proof.Machine.execNetRefusalReceive id why s
  | .netRetransmitTimeout id => Sys2Proof.Machine.execNetRetransmitTimeout id s
  | .netPacketExpiry id => Sys2Proof.Machine.execNetPacketExpiry id s
  | .roleChange target called => Sys2Proof.Machine.execRoleChange target called s
  | .roleChangeReconfigure found => Sys2Proof.Machine.execRoleChangeReconfigure found s
  | .roleChangeAbandon => Sys2Proof.Machine.execRoleChangeAbandon s
  | .coolantCheck plate flow => Sys2Proof.Machine.execCoolantCheck plate flow s
  | .coolingClassChange => Sys2Proof.Machine.execCoolingClassChange s
  | .uncorrectableError e => Sys2Proof.Machine.execUncorrectableError e s
  | .hbmScrub bad => Sys2Proof.Machine.execHbmScrub bad s
  | .l2Scrub bad => Sys2Proof.Machine.execL2Scrub bad s
  | .thermalTrip => Sys2Proof.Machine.execThermalTrip s
  | .moduleReset => Sys2Proof.Machine.execModuleReset s
  | .dyrokWatchdog => Sys2Proof.Machine.execDyrokWatchdog s
  | .boot selfTest => Sys2Proof.Machine.execBoot selfTest s
  | .bootTimeout => Sys2Proof.Machine.execBootTimeout s
  | .firmwareUpdate w => Sys2Proof.Machine.execFirmwareUpdate w s
  | .spdmRequest nonce => Sys2Proof.Machine.execSpdmRequest nonce s
  | .pldmMonitorRequest r => Sys2Proof.Machine.execPldmMonitorRequest r s
  | .undecodableWord w => Sys2Proof.Machine.execUndecodableWord w s
  | .fabricPortLinkChange p up => Sys2Proof.Machine.execFabricPortLinkChange p up s
  | .ptpSyncChange sync aligned => Sys2Proof.Machine.execPtpSyncChange sync aligned s
  | .fabricJobJoin c job => Sys2Proof.Machine.execFabricJobJoin c job s
  | .contextCreate c p => Sys2Proof.Machine.execContextCreate c p s

end Sys2Proof.Machine
end

