-- ==== Sys2Proof/Machine/Schedule.lean ====
section
/-! DEFINITION. What a step does: a split fetches and issues (03 R74, R85, R87), the quadrant's scheduler chooses (21 R330,
R331), and what happens when nothing has been supplied from outside (log 1). -/

namespace Sys2Proof.Machine

/-! ## Fetching and issuing -/

/-- A split of a gang that may issue now: READY, its gang on the chip, its group not being saved (01 R28, 17 R283). -/
def State.issuable (s : State) (g k : Nat) : Option (Gang × Split) :=
  match s.gang g with
  | none => none
  | some G =>
    match KV.find G.splits k with
    | none => none
    | some sp => if G.mayIssue k sp && !s.saving g then some (G, sp) else none

/-- The machine with split k of gang g selected to execute. -/
def State.select (s : State) (g k : Nat) : State := { s with cur := some (g, k) }

/-- Split k of gang g fetches the word at its program counter and issues it. A word that decodes to no instruction raises
ILLOP (03 R85); a fetch that misses the TLBs starts a table walk, one that faults is held (17 R278), and a word of a marked
block is consumed (17 R291). -/
def State.issueStep (s : State) (g k : Nat) : Host.Outcome State Fault Refusal :=
  match s.issuable g k with
  | none => .next s
  | some (G, sp) =>
    match s.fetch G sp.pc with
    | .word w =>
      match decode w with
      | .ok i => exec i (s.select g k)
      | .error _ => exec (.undecodableWord w) (s.select g k)
    | .fault _ => exec (.instructionFetchFault g k) s
    | .miss =>
      if (s.fetchCause G sp.pc).isSome then exec (.instructionFetchFault g k) s
      else exec (.tableWalkComplete G.ctx G.core (vpnOf sp.pc)) s
    | .poison pa => .next (s.consume g pa)

/-! ## The scheduler of a quadrant (21 R330, R331) -/

/-- The charge of the instruction that a split would issue. -/
def State.nextCharge (s : State) (g : Nat) (G : Gang) (sp : Split) : Nat :=
  match s.wordAt G sp with
  | none => 0
  | some w =>
    match decode w with
    | .ok i => s.charge g G sp.slices i
    | .error _ => 0

/-- Whether what a split does next changes the machine. It is tried with an age, which every issue takes back to zero (21 R330): an
instruction that waits changes nothing, one that branches to itself does. -/
def State.stirs (s : State) (g k : Nat) : Bool :=
  let s := s.modGang g fun G => { G with splits := KV.mod G.splits k fun sp => { sp with age := sp.age + 1 } }
  match s.issueStep g k with
  | .next t => !decide ({ t with cur := s.cur } = s)
  | .fault _ => false
  | .refused _ => false

/-- A matrix instruction has not issued: its split holds a fault on the format block, or its gang has halted on the poison
there, and nothing was drawn (15 R247). -/
def State.onlyHeld (s t : State) (g k core : Nat) : Bool :=
  match (t.gang g).bind fun G => KV.find G.splits k with
  | some sp => sp.fetch
  | none => (s.bent (bentOf core)).sum == (t.bent (bentOf core)).sum

/-- The matrix instructions that read a format block (15 R247). -/
def readsFormat (i : Instr) : Bool :=
  match i with
  | .mma .. | .mmc .. | .mzero .. | .mfin .. => true
  | _ => false

/-- A split whose next instruction can issue (21 R330): its word has been fetched, and the instruction neither waits nor is
stopped by the issue gate or by its format block. -/
def State.canIssue (s : State) (g k : Nat) : Bool :=
  match s.issuable g k with
  | none => false
  | some (G, sp) =>
    match s.fetch G sp.pc with
    | .word w =>
      s.stirs g k &&
        (match decode w with
         | .ok i => !readsFormat i ||
           (match s.issueStep g k with
            | .next t => !s.onlyHeld t g k G.core
            | .fault _ => false
            | .refused _ => false)
         | .error _ => true)
    | .fault _ | .miss | .poison _ => false

/-- A split that the scheduler may choose. -/
structure Candidate where
  gang  : Nat
  split : Nat
  slot  : Nat
  age   : Nat
  /-- The distance |W + c - P x (j + 1)|, times 2,048. -/
  dist  : Nat

/-- The eligible splits of a quadrant, of those that `keep` names by gang and entry. -/
def State.eligible (s : State) (core quad : Nat) (keep : Nat → Nat → Bool := fun _ _ => true) : List Candidate :=
  let B := s.bent (bentOf core)
  let W := KV.get (s.core core).wsum quad 0
  s.gangs.flatMap fun p =>
    if p.2.core = core && p.2.slot % 4 = quad then
      p.2.splits.filterMap fun q =>
        if keep p.1 q.1 && s.canIssue p.1 q.1 then
          let c := s.nextCharge p.1 p.2 q.2
          some
            { gang := p.1, split := q.1, slot := p.2.slot, age := q.2.age
              dist := ((2048 * (W + c) : Nat) - (B.budget * (B.cycle + 1) : Nat) : Int).natAbs }
        else none
    else []

/-- Ties: the greater age, the lower gang slot, the lower entry. -/
def Candidate.before (x y : Candidate) : Bool :=
  decide (y.age < x.age) ||
    (x.age == y.age && (decide (x.slot < y.slot) || (x.slot == y.slot && decide (x.split < y.split))))

/-- Whether one candidate is chosen over another: by age from 64 on, else by distance. -/
def Candidate.over (old : Bool) (x y : Candidate) : Bool :=
  if old then x.before y else decide (x.dist < y.dist) || (x.dist == y.dist && x.before y)

/-- The best of a list. -/
def Candidate.best (old : Bool) : List Candidate → Option Candidate
  | [] => none
  | x :: r =>
    match Candidate.best old r with
    | none => some x
    | some y => if y.over old x then some y else some x

/-- The choice of a cycle (21 R331). -/
def choose (l : List Candidate) : Option Candidate :=
  let aged := l.filter fun x => decide (64 ≤ x.age)
  if aged.isEmpty then Candidate.best false l else Candidate.best true aged

/-- Splits that were eligible and did not issue grow older. -/
def State.grow (s : State) (l : List Candidate) : State :=
  l.foldl (fun s x => s.modGang x.gang fun G =>
    { G with splits := KV.mod G.splits x.split fun sp => { sp with age := sp.age + 1 } }) s

/-- The cycle of the bent's clock passes with the last quadrant of its last core; the 64th closes the window (21 R333). -/
def State.passCycle (s : State) (core quad : Nat) : State :=
  if core % 8 = 7 && quad = 3 then
    let b := bentOf core
    let B := s.bent b
    let s := s.setBent b { B with cycle := B.cycle + 1 }
    if 63 ≤ B.cycle then s.soon (.drawWindowClose b) else s
  else s

/-- A quadrant has done what it does in a cycle. -/
def afterCycle (core quad : Nat) (r : Host.Outcome State Fault Refusal) : Host.Outcome State Fault Refusal :=
  match r with
  | .next s => .next (s.passCycle core quad)
  | .fault f => .fault f
  | .refused r => .refused r

/-- A cycle of one quadrant. -/
def State.cycleStep (s : State) (core quad : Nat) : Host.Outcome State Fault Refusal :=
  let l := s.eligible core quad
  match choose l with
  | none => .next (s.passCycle core quad)
  | some x =>
    let s := s.grow (l.filter fun y => !(y.gang == x.gang && y.split == x.split))
    afterCycle core quad (s.issueStep x.gang x.split)

/-- The other eligible splits of a split's quadrant. -/
def State.rivals (s : State) (g k : Nat) (G : Gang) : List Candidate :=
  s.eligible G.core (G.slot % 4) fun h j => !(h == g && j == k)

/-- A cycle of the quadrant of split k of gang g, which issues: it is alone, or the scheduler chooses it (21 R331). A cycle in
which the scheduler would choose another does not happen (log 1). -/
def State.issueCycle (s : State) (g k : Nat) : Host.Outcome State Fault Refusal :=
  match s.gang g with
  | none => .next s
  | some G =>
    let quad := G.slot % 4
    if (s.rivals g k G).isEmpty then afterCycle G.core quad (s.issueStep g k)
    else
      match choose (s.eligible G.core quad) with
      | some x => if x.gang == g && x.split == k then s.cycleStep G.core quad else .next s
      | none => .next s

/-! ## When nothing is supplied (log 1) -/

/-- What an access of an outstanding instruction waits for. -/
def accEvent (g o k : Nat) (G : Gang) (op : Op) (a : Acc) : Option Instr :=
  match a.st with
  | .performed => some (if op.kind.writes && !op.kind.varLat then .storeAcknowledge g o k else .resultDelivery g o k)
  | .xlate => some (.tableWalkComplete G.ctx G.core (vpnOf a.va))
  | .refused => some (.ringRequestResend g o k)
  | .ready =>
    match op.kind with
    | .load => some (.homeLoad g o k)
    | .store => some (.homeStore g o k)
    | .atomic _ _ _ => some (.homeAtomic g o k)
    | .fwr => some (.homeFutureWrite g o k)
    | .frd _ => some (.homeFutureRead g o k)
    | .rclaim | .rawait => some (.homeRingClaim g o k)
    | .rcommit | .rretire | .rbind => some (.homeRingCommit g o k)
    | .rwr => some (.homeRemoteWrite g o)
    | .rwait | .nwait => some (.homeCounterWait g o k)
    | .calc | .rrd _ | .steal | .pop _ => some (.resultDelivery g o k)
    | .matrix | .format | .fetch | .engine _ => none
  | .waiting =>
    (match op.kind with
     | .pop _ => some (.resultDelivery g o k)
     | .rwait => some (.homeCounterWait g o k)
     | .load | .store | .atomic _ _ _ | .fwr | .frd _ | .rclaim | .rcommit | .rawait | .rretire | .rbind | .rwr
     | .calc | .rrd _ | .steal | .matrix | .format | .fetch | .engine _ | .nwait => none)
  | .sent _ | .fault _ => none

/-- Events of a gang's outstanding work. -/
def Gang.events (G : Gang) (g : Nat) : List Instr :=
  (G.ops.flatMap fun p =>
    (p.2.accs.filterMap fun q => accEvent g p.1 q.1 G p.2 q.2) ++ (if p.2.mat.isSome then [.matrixComplete g p.1] else [])) ++
  (G.copies.flatMap fun p => [.copyEngineRun g p.1 0 p.2.len, .copyComplete g p.1]) ++
  (G.queues.flatMap fun p =>
    if p.2.engine = 1 then
      .gatherComplete g p.1 ::
        (p.2.running.zipIdx.flatMap fun r =>
          (List.range (gatherOf r.1.tag r.1.words).count).map fun e => .gatherRun g p.1 (65536 * r.2 + e))
    else if p.2.engine = 2 then [.netPuti g p.1, .netPutm g p.1] else []) ++
  (G.splits.flatMap fun p =>
    match p.2.wait with
    | .spawn _ todo _ _ => (lanesOf todo).map fun i => .taskAccept g p.1 i
    | _ => []) ++
  [.gangRetire g]

/-- Bents whose issue gate is closed. -/
def State.closedGates (s : State) : List Nat := (s.bents.filter fun p => decide (p.2.budget ≤ p.2.sum)).map Prod.fst

/-- Wait events of launches at the heads of their queues that are still to be satisfied (21 R324). -/
def State.waitTests (s : State) : List Instr :=
  s.ctxs.flatMap fun p => (List.finRange 32).flatMap fun q =>
    match (s.headUnit p.1 q.val).bind fun l => KV.find s.launches l with
    | some L => (List.range L.events.length).map fun j => .waitEventTest p.1 q.val j
    | none => []

/-- Events that the part makes by itself, in a fixed order: ridge traffic, task removals, the requests of class-0 gangs and the
placement of class-0 units come first (21 R338). -/
def State.ownEvents (s : State) : List Instr :=
  (s.ridgeMsgs.zipIdx.map fun m => if m.1.dest = .offer then .ridgeOfferAccept m.2 else .ridgeCopyUpdate m.2) ++
  ((List.range s.removals.length).map fun j => .taskRemoval j) ++
  ((s.gangs.filter fun p => s.class0 p.2).flatMap fun p => p.2.events p.1) ++
  (if s.classFits 0 then [.placeGroup, .placeFrame] else []) ++
  ((s.gangs.filter fun p => !s.class0 p.2).flatMap fun p => p.2.events p.1) ++
  (s.groups.map fun p => .groupSave p.1) ++
  (s.ctxs.flatMap fun p => [.drainComplete p.1, .reclaimComplete p.1, .completionRecordWrite p.1]) ++
  s.waitTests ++ [.placeGroup, .placeFrame]

/-- The first event of a list that happens and changes the machine. -/
def State.firstOf (s : State) : List Instr → Option State
  | [] => none
  | i :: rest =>
    match exec i s with
    | .next t => if t = s then s.firstOf rest else some t
    | .fault _ => s.firstOf rest
    | .refused _ => s.firstOf rest

/-- The first split that fetches, or is held, without issuing: a walk of its page, a fault or poison met on the way. -/
def State.firstHeld (s : State) : List (Nat × Nat) → Option State
  | [] => none
  | (g, k) :: rest =>
    if s.stirs g k && !s.canIssue g k then
      match s.issueStep g k with
      | .next t => some t
      | .fault _ => s.firstHeld rest
      | .refused _ => s.firstHeld rest
    else s.firstHeld rest

/-- Every split of the part. -/
def State.allSplits (s : State) : List (Nat × Nat) := s.gangs.flatMap fun p => p.2.splits.map fun q => (p.1, q.1)

/-- The quadrants that have an eligible split. -/
def State.busyQuads (s : State) : List (Nat × Nat) :=
  (s.allSplits.filterMap fun x =>
    if s.canIssue x.1 x.2 then (s.gang x.1).map fun G => (G.core, G.slot % 4) else none).eraseDups

/-- The last quadrant of a bent, with which a cycle of its clock passes. -/
def lastQuad (b : Nat) : Nat × Nat := (8 * b + 7, 3)

/-- One cycle of the bents that have an eligible split, or of those whose issue gate holds splits back. -/
def State.nextCycles (s : State) : List (Nat × Nat) :=
  let qs := s.busyQuads
  let bs := if qs.isEmpty then s.closedGates else (qs.map fun x => bentOf x.1).eraseDups
  (qs.filter fun x => x != lastQuad (bentOf x.1)) ++ bs.map lastQuad

/-- With nothing supplied, the part goes on by itself: outstanding work, then a cycle of the bents that can issue, else a
strike edge. -/
def State.idle (s : State) : Host.Outcome State Fault Refusal :=
  match s.firstOf s.ownEvents with
  | some t => .next t
  | none =>
    match s.firstHeld s.allSplits with
    | some t => .next t
    | none =>
      if s.nextCycles.isEmpty then exec .chipStrike s
      else .next { s with agenda := s.nextCycles.map fun x => .cycle x.1 x.2 }

/-! ## A step -/

/-- What the head of the agenda asks for, with the rest of it left. -/
def State.perform (s : State) (a : Agenda) : Host.Outcome State Fault Refusal :=
  match a with
  | .event i => exec i s
  | .due i => exec i s
  | .issue g k => s.issueCycle g k
  | .cycle core quad => s.cycleStep core quad

/-- The machine after the head of its agenda is taken, with no split selected. -/
def State.popped (s : State) (rest : List Agenda) : State := { s with agenda := rest, cur := none }

/-- One step of the machine. -/
def State.advance (s : State) : Host.Outcome State Fault Refusal :=
  match s.agenda with
  | [] => ({ s with cur := none } : State).idle
  | a :: rest => (s.popped rest).perform a

/-! ## A place for one word (log 2) -/

/-- The key in memory of the word at a program counter of a gang, when a TLB translates it for fetching. -/
def State.fetchKey (s : State) (G : Gang) (pc : Dword) : Option Nat :=
  if pc.extractLsb' 60 3 != 0 || pc.extractLsb' 48 12 != s.node then none
  else
    match s.tlbHit G.core G.ctx (vpnOf pc) with
    | some l => if l.x then some (l.pa pc) else none
    | none => none

/-- Where split k of gang g fetches its next word. -/
def State.fetchOf (s : State) (g k : Nat) : Option Nat :=
  match s.issuable g k with
  | some (G, sp) => s.fetchKey G sp.pc
  | none => none

/-- Stores a word at a key as memory holds it, with no mark on its block. -/
def State.putWord (s : State) (key : Nat) (w : Word) : State :=
  { s with mem :=
      { s.mem.write key 4 w.toNat with poison := s.mem.poison.filter fun b => b != key / 32 && b != (key + 3) / 32 } }

/-- The first split that fetches its next word from memory. -/
def State.firstFetch (s : State) : List (Nat × Nat) → Option (Nat × Nat × Nat)
  | [] => none
  | (g, k) :: rest =>
    match s.fetchOf g k with
    | some key => some (g, k, key)
    | none => s.firstFetch rest

/-- The launch that `withFetchWord` stands for: one gang of 8 slices with 192 registers and 1,024 lane-private bytes, entry
0x1000, handler 0x1800. -/
def fetchParams : LaunchParams :=
  { prot := false, queue := 0
    levels := [{ domain := 0, scope := .gang, extent := 1 }, { domain := 1, scope := .gang, extent := 4 },
      { domain := 2, scope := .gang, extent := 8 }, { domain := 3, scope := .core, extent := 1 }]
    entry := 0x1000, handler := 0x1800, vregs := 192, pool := 0, priv := 1024, barriers := 1, scratch := 1024, shared := 0
    watchdog := 16777216, timeout := 31250, bound := 0, ridge := none, roles := [], args := [] }

/-- The launch as accepted on a module of a number: the entry and the handler are global addresses of its node. -/
def fetchLaunch (node : BitVec 12) : Launch :=
  let at_ (va : BitVec 48) : Dword := 0#4 ++ node ++ va
  { ctx := 0, inc := 0, params := { fetchParams with entry := at_ 0x1000, handler := at_ 0x1800 }, events := [], tag := none, task := false, root := 0, parent := none
    host := none, total := 1, placed := 1, retired := 0, pins := [], completed := false }

/-- Where its one group lies on core 0. -/
def fetchAlloc : Alloc :=
  { segs := [[(List.range 24).map fun j => 256 + j]], privs := [(List.range 32).map fun j => 280 + j], scratch := [312]
    share := [], pool := [], quads := [0], bars := [0] }

/-- The page of the entry, mapped onto itself with every permission. -/
def fetchLeaf : Leaf := { base := 0x1000, noL1 := false, r := true, w := true, x := true }

/-- A machine with context 0 LIVE and one gang placed on core 0, its page in the TLB. -/
def State.withGang (s : State) : State :=
  let s := s.setCtx 0 { s.ctx 0 with created := true, st := .live }
  let L := fetchLaunch s.node
  let s := { s with launches := KV.set s.launches s.nextLaunch L, nextLaunch := s.nextLaunch + 1 }
  let s := s.placeNew (s.nextLaunch - 1) L none 0 0 0 fetchAlloc
  s.setCore 0 { s.core 0 with tlb := KV.set (s.core 0).tlb (tlbKey 0 1) fetchLeaf }

/-- Makes a split the one that its quadrant chooses, where there are others: the oldest (21 R331). -/
def State.favour (s : State) (g k : Nat) : State :=
  match s.gang g with
  | none => s
  | some G =>
    let l := s.rivals g k G
    if l.isEmpty then s
    else
      let age := l.foldl (fun n x => max n x.age) 64 + 1
      s.setGang g { G with splits := KV.mod G.splits k fun sp => { sp with age := age } }

/-- Puts a word where the first split that can fetch does, or else in a machine with a gang of its own, and sees that the
next step fetches it. -/
def State.placeElse (s : State) (w : Word) : State :=
  match s.firstFetch s.allSplits with
  | some (g, k, key) => { (s.putWord key w).favour g k with agenda := .issue g k :: s.agenda }
  | none => { s.withGang.putWord 0x1000 w with agenda := .issue s.nextGang 0 :: s.agenda }

/-- Stores a word where the next step fetches. -/
def State.placeWord (s : State) (w : Word) : State :=
  match s.agenda with
  | .issue g k :: _ =>
    (match s.fetchOf g k with
     | some key => (s.putWord key w).favour g k
     | none => s.placeElse w)
  | _ => s.placeElse w

end Sys2Proof.Machine
end

