-- ==== Sys2Proof/Machine/Step.lean ====
section
/-! DEFINITION. One step of the machine, and the placing of a word where the next step fetches. -/

namespace Sys2Proof.Machine

/-- One step: what the agenda asks for next, or, with nothing on it, what the part does by itself (log 1). -/
def step (s : State) : Host.Outcome State Fault Refusal := s.advance

/-- The machine with the instruction whose bits are `w` stored where the next step fetches (log 2). -/
def State.withFetchWord (s : State) (nbits w : Nat) : State := s.placeWord (BitVec.ofNat 32 (w % 2 ^ nbits))

end Sys2Proof.Machine
end

