-- ==== Sys2Proof/Safety.lean ====
section
/-! DEFINITION. What a safe run keeps, and the terms in which the statements speak: a split that may issue, what an issue
leaves alone, and the canonical form of memory. -/

namespace Sys2Proof.Machine

/-! ## The canonical form of memory -/

/-- Both memories are in canonical form (log 10): keys rise, nothing listed equals what an unlisted key reads as. -/
def State.memOk (s : State) : Bool := s.mem.wf && s.host.wf

/-- A safe run of n steps: no fault, and memory canonical at the end. -/
def State.safeRun (s : State) : Nat → Bool
  | 0 => s.memOk
  | n + 1 =>
    match step s with
    | .next t => s.memOk && t.safeRun n
    | .fault _ => false
    | .refused _ => s.memOk

/-! ## Issuing -/

/-- Split k of gang g is the one that issues, none of its lanes is cancelled (19 R306), the issue gate lets instruction i
through (21 R334), the watchdog does not expire on it (01 R50), and it compares no copies of a protected gang that differ (17
R294): what Table 3-10 and R330 ask besides an instruction's own conditions. -/
abbrev State.Issuing (s : State) (i : Instr) (g k : Nat) (G : Gang) (sp : Split) : Prop :=
  s.cur = some (g, k) ∧ s.gang g = some G ∧ KV.find G.splits k = some sp ∧ s.unsettled G sp.slices = 0 ∧
    (s.gateClosed G.core = false ∨ weightless i = true) ∧ G.watchdogDue i = false ∧ (G.differs && compares i) = false

/-- The named registers lie below the bound (03 R59), and none is Pending in the lanes given or for the gang (01 R33). -/
abbrev Gang.Free (G : Gang) (lanes : Word) (rs : List Reg) : Prop := G.boundTest rs = [] ∧ G.hazardTest lanes rs = []

/-- An issuing split: it has passed its instruction and goes on at `pc`; with S set it stands at the segment marker (03
R74, R77). -/
def Split.goesOn (sp : Split) (pc : Dword) (sm : Bool) : Split :=
  let x : Split := { sp with ipc := sp.pc, pc := pc, age := 0 }
  if sm then x.mark else x

/-- An issuing split whose instruction waits. -/
def Split.waitsIn (sp : Split) (st : SplitState) (w : Wait) (sm : Bool) : Split :=
  let x : Split := { sp with ipc := sp.pc, pc := sp.pc + 4, age := 0, st := st, wait := w }
  if sm then x.mark else x

/-- Split k of a gang is now `sp`, and every other split is as it was. -/
abbrev Gang.OnlySplit (G H : Gang) (k : Nat) (sp : Split) : Prop :=
  KV.find H.splits k = some sp ∧ ∀ j, j ≠ k → KV.find H.splits j = KV.find G.splits j

/-! ## Frames -/

/-- Nothing but gang g and the draw record of its core's bent has changed (21 R331, R332); no byte of memory has. -/
abbrev State.OnlyGang (s u : State) (g : Nat) : Prop :=
  { u with gangs := s.gangs, cores := s.cores, bents := s.bents } = s ∧ (∀ h, h ≠ g → u.gang h = s.gang h) ∧
    (∀ c, { u.core c with wsum := (s.core c).wsum } = s.core c) ∧
    (∀ b, { u.bent b with sum := (s.bent b).sum } = s.bent b) ∧ ∀ a, u.mem.byte a = s.mem.byte a

/-- As `OnlyGang`, but memory may have changed too, as the statement says. -/
abbrev State.GangAndMem (s u : State) (g : Nat) : Prop :=
  { u with mem := s.mem, gangs := s.gangs, cores := s.cores, bents := s.bents } = s ∧ (∀ h, h ≠ g → u.gang h = s.gang h) ∧
    (∀ c, { u.core c with wsum := (s.core c).wsum } = s.core c) ∧
    (∀ b, { u.bent b with sum := (s.bent b).sum } = s.bent b) ∧ u.mem.full = s.mem.full

/-- A vector destination: lane by lane the value `f`, in the lanes for which `on` holds; every other register of every
lane, and all else of the gang but its splits and its watchdog counter, is as it was. -/
abbrev Gang.WritesV (G H : Gang) (n : Nat) (on : Nat → Bool) (f : Nat → Word) : Prop :=
  (∀ i, i < 32 → H.vreg n i = if on i then f i else G.vreg n i) ∧
    (∀ m i, i < 32 → m ≠ n → H.vreg m i = G.vreg m i) ∧ { H with v := G.v, splits := G.splits, wd := G.wd } = G

/-- A scalar destination: all else of the gang but its splits and its watchdog counter is as it was. -/
abbrev Gang.WritesS (G H : Gang) (n : Nat) (w : Dword) : Prop :=
  H.sreg n = w ∧ (∀ m, m ≠ n → H.sreg m = G.sreg m) ∧ { H with s := G.s, splits := G.splits, wd := G.wd } = G

/-- A mask destination. -/
abbrev Gang.WritesM (G H : Gang) (n : Nat) (w : Word) : Prop :=
  H.mreg n = w ∧ (∀ m, m ≠ n → H.mreg m = G.mreg m) ∧ { H with m := G.m, splits := G.splits, wd := G.wd } = G

/-- No register changes: all of the gang but its splits and its watchdog counter is as it was. -/
abbrev Gang.WritesNothing (G H : Gang) : Prop := { H with splits := G.splits, wd := G.wd } = G

/-- What a destination receives: lane by lane `f` in a V register, `w` in an S register or `stat`, the bits of `mw` of the
split's own lanes in an M register (07 R133), nothing in zr (03 R57). -/
def Gang.Writes (G H : Gang) (sl : BitVec 8) (d : Reg) (on : Nat → Bool) (f : Nat → Word) (w : Dword) (mw : Word) : Prop :=
  match d with
  | .v n => G.WritesV H n.val on f
  | .s n => G.WritesS H n.val w
  | .m n => G.WritesM H n.val ((G.mreg n.val &&& ~~~G.sliceMask sl) ||| (mw &&& G.sliceMask sl))
  | .stat => H.stat = w ∧ { H with stat := G.stat, splits := G.splits, wd := G.wd } = G
  | .q _ | .zr | .lid | .role | .bnd | .alt | .mode | .live => G.WritesNothing H

/-- What a typed instruction's destination receives in the lanes L in which it executed (32: once, scalar-wise), and the
sticky flags it sets: `f` gives each lane's flags and value; a value of a 64-bit type fills a pair of V registers (05 R108,
03 R62). -/
def Gang.WritesT (G H : Gang) (L : List Nat) (d : Reg) (wide : Bool) (f : Nat → Res × Dword) : Prop :=
  H.mode = G.mode ||| flagBits (L.any fun i => (f i).1.inexact) (L.any fun i => (f i).1.outl) ∧
    match d with
    | .v n =>
      (∀ i, i < 32 → H.vreg n.val i = if L.contains i then (f i).2.setWidth 32 else G.vreg n.val i) ∧
        (∀ m i, i < 32 → m ≠ n.val → H.vreg m i =
          if wide && m == n.val + 1 && L.contains i then (f i).2.extractLsb' 32 32 else G.vreg m i) ∧
        { H with v := G.v, mode := G.mode, splits := G.splits, wd := G.wd } = G
    | .s n => H.sreg n.val = (f 32).2 ∧ (∀ m, m ≠ n.val → H.sreg m = G.sreg m) ∧
        { H with s := G.s, mode := G.mode, splits := G.splits, wd := G.wd } = G
    | .stat => H.stat = (f 32).2 ∧ { H with stat := G.stat, mode := G.mode, splits := G.splits, wd := G.wd } = G
    | .m _ | .q _ | .zr | .lid | .role | .bnd | .alt | .mode | .live =>
      { H with mode := G.mode, splits := G.splits, wd := G.wd } = G

/-- A variable-latency instruction has issued: its destinations are Pending in its lanes until instruction number
`G.nextOp`, which is outstanding as `op`, delivers them (01 R32); no register has changed. -/
abbrev Gang.Starts (G H : Gang) (regs : List Reg) (lanes : List Nat) (op : Op) : Prop :=
  (∀ r ∈ regs, ∀ i ∈ lanes, r ≠ .zr → KV.find H.pend (pendKey r i) = some G.nextOp) ∧
    KV.find H.ops G.nextOp = some op ∧ (∀ o, o ≠ G.nextOp → KV.find H.ops o = KV.find G.ops o) ∧
    { H with pend := G.pend, ops := G.ops, nextOp := G.nextOp, splits := G.splits, wd := G.wd } = G ∧
    H.nextOp = G.nextOp + 1

/-- An instruction that issues answers a next state: the machine `u`, in which its effect `post` has happened to gang g and
split k has become `sp'`, with every wait of the gang that can now end ended (01 R41). -/
abbrev State.Issues (s : State) (i : Instr) (g k : Nat) (G : Gang) (sp' : Split) (post : Gang → Prop) : Prop :=
  ∃ u H, exec i s = .next (u.wake g) ∧ u.gang g = some H ∧ s.OnlyGang u g ∧ G.OnlySplit H k sp' ∧ post H

/-- An instruction that does not issue: it raises a trap at its own address (17 R267, R268). -/
abbrev State.Traps (s : State) (i : Instr) (g k : Nat) (t : Trap) (pc : Dword) : Prop :=
  exec i s = .next (s.raise g k t ((encode i).getD 0) pc [])

/-! ## Tables of the spec, as they are written there -/

/-- The accepted operands of an integer instruction (07 R140, 03 R57): a V destination takes V, S and zr; an S destination
S, M and zr; zr takes V, S and zr. -/
abbrev intForm (d a b : Reg) : Prop :=
  ((d.isVDst || d.isZ) = true ∧ a.vecSrc = true ∧ b.vecSrc = true) ∨
    (d.isSDst = true ∧ a.scaSrc = true ∧ b.scaSrc = true)

/-- Smaller, signed or unsigned by TYPE. -/
def below {w : Nat} (u : Bool) (a b : BitVec w) : Bool :=
  if u then decide (a.toNat < b.toNat) else decide (a.toInt < b.toInt)

/-- Table 7-4, RRR: each operation's result at width w. -/
def table7_4 : List ((Bool → Reg → Reg → Reg → Instr) × ((w : Nat) → Bool → BitVec w → BitVec w → BitVec w)) :=
  [ (.add, fun _ _ a b => a + b),
    (.sub, fun _ _ a b => a - b),
    (.mul, fun w _ a b => BitVec.ofNat w (a.toNat * b.toNat)),
    (.mulh, fun w u a b =>
      if u then BitVec.ofNat w (a.toNat * b.toNat / 2 ^ w) else BitVec.ofInt w (a.toInt * b.toInt / 2 ^ w)),
    (.and, fun _ _ a b => a &&& b),
    (.or, fun _ _ a b => a ||| b),
    (.xor, fun _ _ a b => a ^^^ b),
    (.shl, fun w _ a b => BitVec.ofNat w (a.toNat * 2 ^ (b.toNat % w))),
    (.shr, fun w _ a b => BitVec.ofNat w (a.toNat / 2 ^ (b.toNat % w))),
    (.sar, fun w _ a b => BitVec.ofInt w (a.toInt / 2 ^ (b.toNat % w))),
    (.rot, fun w _ a b => a.rotateLeft (b.toNat % w)),
    (.min, fun _ u a b => if below u b a then b else a),
    (.max, fun _ u a b => if below u a b then b else a) ]

/-- Table 7-4, RRI with a signed immediate. -/
def table7_4i : List ((Bool → Reg → Reg → BitVec 8 → Instr) × ((w : Nat) → Bool → BitVec w → BitVec w → BitVec w)) :=
  [ (.addImm, fun _ _ a b => a + b),
    (.mulImm, fun w _ a b => BitVec.ofNat w (a.toNat * b.toNat)),
    (.andImm, fun _ _ a b => a &&& b),
    (.orImm, fun _ _ a b => a ||| b),
    (.xorImm, fun _ _ a b => a ^^^ b),
    (.minImm, fun _ u a b => if below u b a then b else a),
    (.maxImm, fun _ u a b => if below u a b then b else a) ]

/-- Table 7-4, RRI with a count. -/
def table7_4s : List ((Bool → Reg → Reg → BitVec 6 → Instr) × ((w : Nat) → BitVec w → Nat → BitVec w)) :=
  [ (.shlImm, fun w a n => BitVec.ofNat w (a.toNat * 2 ^ (n % w))),
    (.shrImm, fun w a n => BitVec.ofNat w (a.toNat / 2 ^ (n % w))),
    (.sarImm, fun w a n => BitVec.ofInt w (a.toInt / 2 ^ (n % w))),
    (.rotImm, fun w a n => a.rotateLeft (n % w)) ]

/-- Table 7-5: the counting forms on a value of width w. -/
def table7_5 : List ((Bool → Reg → Reg → Instr) × (Nat → Nat → Nat)) :=
  [ (.popc, fun w x => ((List.range w).filter fun i => x.testBit i).length),
    (.clz, fun w x => if x = 0 then w else w - 1 - x.log2),
    (.ffs, fun w x => ((List.range w).find? fun i => x.testBit i).getD w) ]

/-- The accepted operands of a typed instruction (09 R159, R160, 03 R58): D is V, S or zr; vector-wise its sources are V, S or
zr, scalar-wise S or zr; V operands of a 64-bit type are even pairs. -/
abbrev typedForm (wideD : Bool) (d : Reg) (srcs : List (Reg × Bool)) : Prop :=
  (d.isVDst || d.isSDst || d.isZ) = true ∧ pairOk wideD d = true ∧
    ∀ p ∈ srcs, (if vectorWise d (srcs.map Prod.fst) then p.1.vecSrc else sSrc p.1) = true ∧ pairOk p.2 p.1 = true

/-- Table 9-1. -/
def table9_1 : List ((Bool → Reg → Reg → Reg → Instr) × FOp) :=
  [(.fadd, .add), (.fsub, .sub), (.fmul, .mul), (.fma, .fma), (.fms, .fms), (.fmin, .min), (.fmax, .max)]

/-- Table 7-7: the vector-wise and the scalar-wise compares. -/
def table7_7 : List ((Bool → Reg → Reg → Reg → Instr) × (Bool → Reg → Reg → Reg → Instr) × Cmp) :=
  [(.ceq, .sceq, .eq), (.cne, .scne, .ne), (.clt, .sclt, .lt), (.cle, .scle, .le), (.cun, .scun, .un)]

/-! ## Memory instructions, requests and waits -/

/-- A global address of the own node that a TLB entry of the gang's core or bent translates to `pa` for an access that needs
`n`, on a page at which the split has met no fault (17 R272, R288, R289). -/
abbrev State.Translates (s : State) (G : Gang) (sl : BitVec 8) (n : Need) (va : Dword) (pa : Nat) : Prop :=
  localWindow va = none ∧ va.extractLsb' 60 3 = 0 ∧ va.extractLsb' 48 12 = s.node ∧ G.pageFault sl G.nextOp va = none ∧
    ∃ l, s.tlbHit G.core G.ctx (vpnOf va) = some l ∧ l.allows n = true ∧ pa = l.base + (va.extractLsb' 0 12).toNat

/-- The access `A` of a request on `size` bytes at `va`, kept with its data (17 R271): ALIGN when `va` is not aligned, WINDOW in
the windows below `low`, on its way to memory where a TLB holds the page. -/
abbrev State.Asks (s : State) (G : Gang) (sl : BitVec 8) (A : Acc) (lane : Nat) (va : Dword) (size : Nat)
    (data : BitVec 128) (low align : Nat) : Prop :=
  A.lane = lane ∧ A.va = va ∧ A.size = size ∧ A.data = data ∧
    (va.toNat % align ≠ 0 → A.st = .fault causeAlign) ∧
    (va.toNat % align = 0 → (∀ w, localWindow va = some w → w < low → A.st = .fault causeWindow) ∧
      ∀ pa, s.Translates G sl ⟨true, true, false⟩ va pa → A.st = .ready ∧ A.place = some (.hbm pa))

/-- A split may issue one more memory instruction on these addresses: fewer than 32 are outstanding (17 R271), and the core
has room for its translations (17 R289). -/
abbrev State.MemRoom (s : State) (G : Gang) (sp : Split) (vas : List Dword) : Prop :=
  G.opHold sp.slices = false ∧ s.missHold G vas = false

/-- As `OnlyGang`, but L1 sectors of gang g's core may have been invalidated (11 R183, R192). -/
abbrev State.NearGang (s u : State) (g core : Nat) : Prop :=
  { u with gangs := s.gangs, cores := s.cores, bents := s.bents } = s ∧ (∀ h, h ≠ g → u.gang h = s.gang h) ∧
    (∀ c, { u.core c with wsum := (s.core c).wsum, l1 := (s.core c).l1 } = s.core c) ∧
    (∀ c, c ≠ core → (u.core c).l1 = (s.core c).l1) ∧
    (∀ x, KV.find (u.core core).l1 x = KV.find (s.core core).l1 x ∨ KV.find (u.core core).l1 x = none) ∧
    (∀ b, { u.bent b with sum := (s.bent b).sum } = s.bent b) ∧ ∀ a, u.mem.byte a = s.mem.byte a

/-- A request has left: it is outstanding with accesses for which `post` holds, `pend` is Pending in the lanes given until its
result, it releases and acquires at the scopes given (11 Table 11-3), and split k has become `sp'`. -/
abbrev State.Requests (s : State) (i : Instr) (g k : Nat) (G : Gang) (sp sp' : Split) (kind : OpKind) (d : Reg)
    (rel acq : Option Scope) (pend : List Reg) (lanes : List Nat) (post : KV Acc → Prop) : Prop :=
  ∃ u H accs, exec i s = .next (u.wake g) ∧ u.gang g = some H ∧ s.NearGang u g G.core ∧ G.OnlySplit H k sp' ∧
    G.Starts H pend lanes
      { kind := kind, instr := i, pc := sp.pc, slices := sp.slices, mode := G.mode, dest := d, rel := rel, acq := acq,
        accs := accs, held := false, mat := none } ∧
    post accs

/-- Split k is the only one of a RESIDENT gang that has nothing outstanding, and owes no acquire. -/
abbrev Gang.Alone (G : Gang) (k : Nat) (sp : Split) : Prop :=
  G.splits = [(k, sp)] ∧ sp.st = .ready ∧ sp.wait = .none ∧ sp.seg = false ∧ sp.acqAfter = none ∧ G.st = .resident ∧
    G.ops = []

/-- The instruction of the only split of a gang ends within its step: the split is at the next word, in a state `x` and a
machine `t` for which `post` holds. -/
abbrev State.EndsAlone (s : State) (i : Instr) (g k : Nat) (sp : Split) (post : State → Gang → Split → Prop) : Prop :=
  ∃ t H x, exec i s = .next t ∧ t.gang g = some H ∧ H.splits = [(k, x)] ∧ x.slices = sp.slices ∧ x.pc = sp.pc + 4 ∧
    post t H x

/-- The operands and addresses of a plain access pass every test of Table 3-10 (07 R149, R150, 03 R68, R70, 11 R200). -/
abbrev Plain.Passes (x : Plain) (strict : Bool) (s : State) (G : Gang) (sp : Split) : Prop :=
  let L := G.runs sp.slices x.vec
  let eas := L.map fun i => (i, x.ea G i)
  memAligned x.size x.d = true ∧
    (if strict then (if x.load then x.d.isVDst else x.d.isV) = true ∧ ∀ r ∈ x.regs, (r.isS || r.isZ) = true
     else if x.load then
       (x.d.isVDst || x.d.isSDst || x.d.isZ) = true ∧ ∀ r ∈ x.regs, (if x.d.isS then r.isS || r.isZ else r.vecSrc) = true
     else (x.d.isV || x.d.isS || x.d.isZ) = true ∧ ∀ r ∈ x.regs, r.vecSrc = true) ∧
    G.Free (G.active sp.slices) (memSpan x.size x.d ++ x.regs) ∧ G.winBound x.size eas = [] ∧ G.winHazard x.size eas = [] ∧
    s.clampTest G (!x.load) (eas.map fun e => (e.2, x.size)) = none ∧ s.MemRoom G sp (eas.map Prod.snd)

/-- The plain accesses of Table 7-10 and R153, each with its effective address and whether it is strided. -/
def table7_10 (load sm : Bool) (d a b : Reg) (o : BitVec 5) : List (Instr × Plain × Bool) :=
  if load then
    [(.ldb sm d a b, plainIdx true 1 d a b, false), (.ldh sm d a b, plainIdx true 2 d a b, false),
     (.ldw sm d a b, plainIdx true 4 d a b, false), (.ldd sm d a b, plainIdx true 8 d a b, false),
     (.ldq sm d a b, plainIdx true 16 d a b, false), (.ldbImm sm d a o, plainImm true 1 d a o, false),
     (.ldhImm sm d a o, plainImm true 2 d a o, false), (.ldwImm sm d a o, plainImm true 4 d a o, false),
     (.lddImm sm d a o, plainImm true 8 d a o, false), (.ldqImm sm d a o, plainImm true 16 d a o, false),
     (.lds sm d a b, plainStride true d a b, true)]
  else
    [(.stb sm d a b, plainIdx false 1 d a b, false), (.sth sm d a b, plainIdx false 2 d a b, false),
     (.stw sm d a b, plainIdx false 4 d a b, false), (.std sm d a b, plainIdx false 8 d a b, false),
     (.stq sm d a b, plainIdx false 16 d a b, false), (.stbImm sm d a o, plainImm false 1 d a o, false),
     (.sthImm sm d a o, plainImm false 2 d a o, false), (.stwImm sm d a o, plainImm false 4 d a o, false),
     (.stdImm sm d a o, plainImm false 8 d a o, false), (.stqImm sm d a o, plainImm false 16 d a o, false),
     (.sts sm d a b, plainStride false d a b, true)]

/-- The key of the first byte of a lane's private region that a half of an access names (03 R67): `none` when the access is
misaligned, runs past the region, is not in window 0 or is scalar-wise. -/
def Plain.privAt (x : Plain) (g : Nat) (G : Gang) (lane : Nat) (h : Nat × Dword × Nat) : Option Nat :=
  if (x.ea G lane).toNat % x.size = 0 ∧ localWindow h.2.1 = some 0 ∧ lane < 32 ∧ offset h.2.1 + h.2.2 ≤ G.privBytes
  then (Place.priv g lane (offset h.2.1)).key else none

/-- The own module's `n` bytes at an aligned address `va`, as a matrix instruction reads them (15 R240, R247): in windows 2 to
4, or on a page that a TLB entry lets the gang read, on which the split has met no fault (17 R272); no block of them is
poisoned. -/
abbrev State.Holds (s : State) (g : Nat) (G : Gang) (sl : BitVec 8) (va : Dword) (n : Nat) (l : List Byte) : Prop :=
  va.toNat % n = 0 ∧ G.pageFault sl G.nextOp va = none ∧ ∃ key,
    ((∃ w, localWindow va = some w ∧ 2 ≤ w ∧ ∃ p, s.locate g G 32 va n = .place p ∧ p.key = some key) ∨
      (s.locate g G 32 va n = .translate ∧ ∃ lf, s.tlbHit G.core G.ctx (vpnOf va) = some lf ∧ lf.r = true ∧
        key = lf.base + (va.extractLsb' 0 12).toNat)) ∧
    s.mem.poisoned key n = false ∧ l = (List.range n).map fun j => s.mem.byte (key + j)

/-- The four matrix instructions on tiles: the instruction, its kind, whether it multiplies, and the register that holds its
format block's address (15 R244, R250). -/
def table15_5 (sm : Bool) (d a b : Reg) : List (Instr × MatKind × Bool × Reg) :=
  [(.mma sm d a b, .mma, true, b), (.mmc sm d a b, .mmc, true, b), (.mzero sm d a, .mzero, false, a),
   (.mfin sm d a, .mfin, false, a)]

/-- Table 13-1: the atomics and their return forms. -/
def table13_1 : List ((Bool → Reg → Reg → Scope → Instr) × AtomicOp × Bool) :=
  [(.aadd, .add, false), (.aaddR, .add, true), (.amin, .min, false), (.aminR, .min, true), (.amax, .max, false),
   (.amaxR, .max, true), (.aand, .and, false), (.aandR, .and, true), (.aor, .or, false), (.aorR, .or, true),
   (.axor, .xor, false), (.axorR, .xor, true), (.axch, .xch, false), (.axchR, .xch, true), (.acas, .cas, false),
   (.acasR, .cas, true), (.afadd, .fadd, false), (.afaddR, .fadd, true)]

/-! ## Events -/

/-- Access k of outstanding instruction o of gang g is translated and may leave the core (07 R154, 11 R191, R206); its home is
on the own module, where its first byte has `key`. -/
abbrev State.Arrives (s : State) (g o k : Nat) (G : Gang) (op : Op) (a : Acc) (key : Nat) : Prop :=
  s.gang g = some G ∧ KV.find G.ops o = some op ∧ KV.find op.accs k = some a ∧ a.st = .ready ∧ G.leaves o op a = true ∧
    a.place.bind Place.key = some key

/-- A request of gang g has been dealt with at its home: the gang is now `H`; beside it only memory, the claim lists of rings and
which wait events of launches are satisfied have changed. -/
abbrev State.AtHome (s u : State) (g : Nat) (H : Gang) : Prop :=
  u.gang g = some H ∧ (∀ h, h ≠ g → u.gang h = s.gang h) ∧
    { u with gangs := s.gangs, mem := s.mem, rings := s.rings, launches := s.launches } = s ∧
    ∀ l, (KV.find u.launches l).map (fun L => { L with events := [] }) =
      (KV.find s.launches l).map fun L => { L with events := [] }

/-- The bytes from `key` on, and no others, may have changed. -/
abbrev State.Stores (s u : State) (key n : Nat) : Prop := ∀ y, (y < key ∨ key + n ≤ y) → u.mem.byte y = s.mem.byte y

/-- Access k of instruction o is no longer outstanding; every other access of the gang is as it was. -/
abbrev Gang.Loses (G H : Gang) (o k : Nat) : Prop :=
  H.acc o k = none ∧ ∀ p q, (p, q) ≠ (o, k) → (H.acc p q).map Prod.snd = (G.acc p q).map Prod.snd

/-- Table 13-1 and R214: what an atomic leaves, from the old value, the data and the compare value; `u` makes minimum and
maximum unsigned. -/
def table13_1r (w : Nat) (u : Bool) (old x cmp : BitVec w) : AtomicOp → BitVec w
  | .add => old + x
  | .min => if below u x old then x else old
  | .max => if below u old x then x else old
  | .and => old &&& x
  | .or => old ||| x
  | .xor => old ^^^ x
  | .xch => x
  | .cas => if old = cmp then x else old
  | .fadd =>
    let f := if w = 64 then fp64 else fp32
    BitVec.ofNat w (f.rn (FV.add .rne (f.value old.toNat) (f.value x.toNat)))

end Sys2Proof.Machine
end

