-- ==== Sys2Proof/Certificates/Slice0/Obligations.lean ====
section
/-! DEFINITION. Statements about the machine for the provers, from the numbered rules of spec/. -/

open Sys2Proof Sys2Proof.Machine

/-! ## Integer and logic instructions (07 R140 to R143) -/

/-- R140, R131, R58, Table 7-4: every RRR integer and logic instruction, in every accepted form, writes its result in the
active lanes of a V register, once in an S register or `stat`, and nothing into zr; nothing else changes. The RRI forms do so
with b = SignExt(I8) for arithmetic and logic, and a count I8[5:0] taken modulo the width for shifts and rotates. -/
def Obligations.IntegerResult : Prop :=
  (∀ p ∈ table7_4, ∀ (s : State) (g k : Nat) (G : Gang) (sp : Split) (sm : Bool) (d a b : Reg),
    s.Issuing (p.1 sm d a b) g k G sp → intForm d a b → G.Free (G.active sp.slices) [d, a, b] →
    s.Issues (p.1 sm d a b) g k G (sp.goesOn (sp.pc + 4) sm) fun H =>
      G.Writes H sp.slices d (G.activeLane sp.slices) (fun i => p.2 32 G.unsignedType (G.opnd32 a i) (G.opnd32 b i))
        (p.2 64 G.unsignedType (G.opnd64 a) (G.opnd64 b)) 0) ∧
  (∀ p ∈ table7_4i, ∀ (s : State) (g k : Nat) (G : Gang) (sp : Split) (sm : Bool) (d a : Reg) (e : BitVec 8),
    s.Issuing (p.1 sm d a e) g k G sp → intForm d a a → G.Free (G.active sp.slices) [d, a] →
    s.Issues (p.1 sm d a e) g k G (sp.goesOn (sp.pc + 4) sm) fun H =>
      G.Writes H sp.slices d (G.activeLane sp.slices)
        (fun i => p.2 32 G.unsignedType (G.opnd32 a i) (e.signExtend 32))
        (p.2 64 G.unsignedType (G.opnd64 a) (e.signExtend 64)) 0) ∧
  ∀ p ∈ table7_4s, ∀ (s : State) (g k : Nat) (G : Gang) (sp : Split) (sm : Bool) (d a : Reg) (e : BitVec 6),
    s.Issuing (p.1 sm d a e) g k G sp → intForm d a a → G.Free (G.active sp.slices) [d, a] →
    s.Issues (p.1 sm d a e) g k G (sp.goesOn (sp.pc + 4) sm) fun H =>
      G.Writes H sp.slices d (G.activeLane sp.slices) (fun i => p.2 32 (G.opnd32 a i) e.toNat)
        (p.2 64 (G.opnd64 a) e.toNat) 0

/-- R142, R143, Table 7-5: `popc`, `clz` and `ffs` count in the w-bit value, `mov` copies between the classes Table 7-5 names
(an M destination under R133) and raises ILLREG for a destination that only the device writes, `li` writes SignExt(I16), `lih`
keeps bits 15:0 and replaces the bits above. -/
def Obligations.CountMoveImmediate : Prop :=
  ∀ (s : State) (g k : Nat) (G : Gang) (sp : Split) (sm : Bool) (d a : Reg) (e : BitVec 16),
    (∀ p ∈ table7_5, s.Issuing (p.1 sm d a) g k G sp → intForm d a a → G.Free (G.active sp.slices) [d, a] →
      s.Issues (p.1 sm d a) g k G (sp.goesOn (sp.pc + 4) sm) fun H =>
        G.Writes H sp.slices d (G.activeLane sp.slices) (fun i => BitVec.ofNat 32 (p.2 32 (G.opnd32 a i).toNat))
          (BitVec.ofNat 64 (p.2 64 (G.opnd64 a).toNat)) 0) ∧
    (s.Issuing (.mov sm d a) g k G sp →
      (d.isVDst = true ∧ a.vecSrc = true ∨ (d.isSDst || d.isMDst) = true ∧ a.scaSrc = true ∨
        d = .zr ∧ (a.isV || a.scaSrc) = true) →
      G.Free (G.active sp.slices) [d, a] →
      s.Issues (.mov sm d a) g k G (sp.goesOn (sp.pc + 4) sm) fun H =>
        G.Writes H sp.slices d (G.activeLane sp.slices) (fun i => G.opnd32 a i) (G.opnd64 a) ((G.opnd64 a).setWidth 32)) ∧
    (s.Issuing (.mov sm d a) g k G sp → movSrc d a = true → d ∈ [Reg.role, .lid, .live, .bnd, .alt, .mode] →
      s.Traps (.mov sm d a) g k (.illreg d.num.toNat 0) sp.pc) ∧
    (s.Issuing (.li sm d e) g k G sp → (d.isVDst || d.isSDst || d.isZ) = true → G.Free (G.active sp.slices) [d] →
      s.Issues (.li sm d e) g k G (sp.goesOn (sp.pc + 4) sm) fun H =>
        G.Writes H sp.slices d (G.activeLane sp.slices) (fun _ => e.signExtend 32) (e.signExtend 64) 0) ∧
    (s.Issuing (.lih sm d e) g k G sp → (d.isVDst || d.isSDst || d.isZ) = true → G.Free (G.active sp.slices) [d] →
      s.Issues (.lih sm d e) g k G (sp.goesOn (sp.pc + 4) sm) fun H =>
        G.Writes H sp.slices d (G.activeLane sp.slices) (fun i => e ++ (G.opnd32 d i).extractLsb' 0 16)
          (e.signExtend 48 ++ (G.opnd64 d).extractLsb' 0 16) 0)

/-- R141: `sel` writes, in each lane with `live` and `m0` set, A where the guard condition holds and B elsewhere; the guard
takes no part in activity, and with GSEL 0 every such lane takes A. An S or M destination raises ILLREG. -/
def Obligations.SelectResult : Prop :=
  ∀ (s : State) (g k : Nat) (G : Gang) (sp : Split) (sm : Bool) (d a b : Reg),
    s.Issuing (.sel sm d a b) g k G sp → a.vecSrc = true → b.vecSrc = true →
    ((d.isVDst || d.isZ) = true → G.Free (G.selActive sp.slices) [d, a, b] →
      s.Issues (.sel sm d a b) g k G (sp.goesOn (sp.pc + 4) sm) fun H =>
        G.Writes H sp.slices d (fun i => G.inSlices sp.slices i && G.live.getLsbD i && (G.mreg 0).getLsbD i)
          (fun i =>
            let sel := (G.mode.extractLsb' 8 3).toNat
            if sel = 0 ∨ (G.mreg sel).getLsbD i ≠ G.mode.getLsbD 11 then G.opnd32 a i else G.opnd32 b i) 0 0) ∧
    ((d.isS || d.isM) = true → s.Traps (.sel sm d a b) g k (.illreg d.num.toNat 0) sp.pc)

/-! ## Typed arithmetic, divide, convert (09 R160 to R165) -/

/-- R160 to R163, R62, Table 9-1, Table 9-2: a typed instruction writes the rounded result of its operation in every lane in
which it executes, and its sticky flags into `mode`; nothing else changes.What FLUSH does to CF32 is
the model's reading (log 38). -/
def Obligations.TypedResult : Prop :=
  ∀ (s : State) (g k : Nat) (G : Gang) (sp : Split) (sm : Bool) (d a b : Reg) (t : EType), G.etype = some t →
    (∀ p ∈ table9_1, s.Issuing (p.1 sm d a b) g k G sp → p.2.accepts t = true →
      typedForm t.isWide d [(a, t.isWide), (b, t.isWide)] →
      G.Free (G.active sp.slices) (spanOf t.isWide d ++ spanOf t.isWide a ++ spanOf t.isWide b) →
      s.Issues (p.1 sm d a b) g k G (sp.goesOn (sp.pc + 4) sm) fun H =>
        G.WritesT H (G.runs sp.slices (vectorWise d [a, b])) d t.isWide fun i =>
          let r := p.2.run G.fmode t (G.codeAt t.isWide a i) (G.codeAt t.isWide b i) (G.codeAt t.isWide d i)
          (r, BitVec.ofNat 64 r.code)) ∧
    ∀ q ∈ [((.fneg : Bool → Reg → Reg → Instr), true), ((.fabs : Bool → Reg → Reg → Instr), false)],
      s.Issuing (q.1 sm d a) g k G sp → arithType t = true → (t = .cf32 → q.2 = true) →
      typedForm t.isWide d [(a, t.isWide)] → G.Free (G.active sp.slices) (spanOf t.isWide d ++ spanOf t.isWide a) →
      s.Issues (q.1 sm d a) g k G (sp.goesOn (sp.pc + 4) sm) fun H =>
        G.WritesT H (G.runs sp.slices (vectorWise d [a])) d t.isWide fun i =>
          let c := signCode q.2 t (G.codeAt t.isWide a i)
          ({ code := c, inexact := false, outl := false }, BitVec.ofNat 64 c)

/-- R165, Table 5-6: `cvt` converts from the source type in X to TYPE, for every pair of types that Table 5-6 does not make
ILLOP. What it does to INEXACT for an infinity delivered as NaN and for a flushed operand is the model's choice (log 37). -/
def Obligations.ConvertResult : Prop :=
  ∀ (s : State) (g k : Nat) (G : Gang) (sp : Split) (sm : Bool) (d a : Reg) (src t : EType), G.etype = some t →
    s.Issuing (.cvt sm d a src) g k G sp → cvtLegal src t = true → typedForm t.isWide d [(a, src.isWide)] →
    G.Free (G.active sp.slices) (spanOf t.isWide d ++ spanOf src.isWide a) →
    s.Issues (.cvt sm d a src) g k G (sp.goesOn (sp.pc + 4) sm) fun H =>
      G.WritesT H (G.runs sp.slices (vectorWise d [a])) d t.isWide fun i =>
        let r := cvtCode G.fmode src t (G.codeAt src.isWide a i)
        (r, fillCode t r.code)

/-- R163, R164, R33: `div`, `sqrt`, `rcp` and `rsqrt` under FP32 and FP64 make the span of D Pending in the lanes in which they
execute, and start the computation of each lane's rounded result with the `mode` read at issue; with no such lane they do
nothing. -/
def Obligations.DivideStarts : Prop :=
  ∀ (s : State) (g k : Nat) (G : Gang) (sp : Split) (sm : Bool) (d a b : Reg) (t : EType) (f : Fmt),
    G.etype = some t → t.fmt = some f → divType t = true →
    let x (r : Reg) (i : Nat) : FV := G.fmode.fl f (G.codeAt t.isWide r i)
    let starts (i : Instr) (srcs : List Reg) (v : Nat → FV) : Prop :=
      let L := G.runs sp.slices (vectorWise d srcs)
      s.Issuing i g k G sp → typedForm t.isWide d (srcs.map fun r => (r, t.isWide)) →
      G.Free (G.active sp.slices) (spanOf t.isWide d ++ srcs.flatMap (spanOf t.isWide)) →
      s.Issues i g k G (sp.goesOn (sp.pc + 4) sm) fun H =>
        (L = [] → G.WritesNothing H) ∧
        (L ≠ [] → G.Starts H (spanOf t.isWide d) L
          { kind := .calc, instr := i, pc := sp.pc, slices := sp.slices, mode := G.mode, dest := d, rel := none, acq := none,
            accs := L.map fun j => Acc.computed j (Res.one (G.fmode.round f (v j))), held := false, mat := none })
    starts (.div sm d a b) [a, b] (fun i => FV.div (x a i) (x b i)) ∧ starts (.sqrt sm d a) [a] (fun i => FV.sqrt (x a i)) ∧
      starts (.rcp sm d a) [a] (fun i => FV.rcp (x a i)) ∧ starts (.rsqrt sm d a) [a] (fun i => FV.rsqrt (x a i))

/-! ## Compares and masks (07 R144 to R147) -/

/-- R144, R145, R133, Table 7-7: with an M destination a compare sets bit i for each active lane of the split's own slices and
keeps the other bits; with an S destination the scalar spelling writes 1 or 0. A zr destination, which "The register number
space" and "The opcode map" of 03 accept, keeps the form of its spelling and loses the result: this reading is the model's
(log 11). -/
def Obligations.CompareResult : Prop :=
  ∀ p ∈ table7_7, ∀ (s : State) (g k : Nat) (G : Gang) (sp : Split) (sm : Bool) (d a b : Reg) (t : EType),
    G.etype = some t → p.2.2.accepts t = true →
    (s.Issuing (p.1 sm d a b) g k G sp → d.isMDst = true ∨ d = .zr ∧ (a.isV || b.isV) = true →
      (a.vecSrc && pairOk t.isWide a) = true → (b.vecSrc && pairOk t.isWide b) = true →
      G.Free (G.active sp.slices) (d :: spanOf t.isWide a ++ spanOf t.isWide b) →
      s.Issues (p.1 sm d a b) g k G (sp.goesOn (sp.pc + 4) sm) fun H =>
        G.Writes H sp.slices d (fun _ => false) (fun _ => 0) 0
          (maskOf fun i => G.activeLane sp.slices i &&
            p.2.2.result t G.flush 32 (G.laneCode t.isWide a i) (G.laneCode t.isWide b i))) ∧
    (s.Issuing (p.2.1 sm d a b) g k G sp → (d.isSDst || d.isZ) = true → a.scaSrc = true → b.scaSrc = true →
      G.Free 0 [d, a, b] →
      s.Issues (p.2.1 sm d a b) g k G (sp.goesOn (sp.pc + 4) sm) fun H =>
        G.Writes H sp.slices d (fun _ => false) (fun _ => 0)
          (if p.2.2.result t G.flush 64 (G.opnd64 a).toNat (G.opnd64 b).toNat then 1 else 0) 0)

/-- R146, R147, R133, Table 7-8: the mask instructions compute on whole masks and execute gang-wise, whatever m0 holds. -/
def Obligations.MaskResult : Prop :=
  ∀ (s : State) (g k : Nat) (G : Gang) (sp : Split) (sm : Bool) (d a b : Reg),
    let mask (r : Reg) : Word := (G.opnd64 r).setWidth 32
    let done (i : Instr) (rs : List Reg) (ok : Bool) (w : Dword) (mw : Word) : Prop :=
      s.Issuing i g k G sp → ok = true → G.Free 0 rs →
      s.Issues i g k G (sp.goesOn (sp.pc + 4) sm) fun H => G.Writes H sp.slices d (fun _ => false) (fun _ => 0) w mw
    done (.mand sm d a b) [d, a, b] ((d.isMDst || d.isZ) && a.isM && b.isM) 0 (mask a &&& mask b) ∧
    done (.mor sm d a b) [d, a, b] ((d.isMDst || d.isZ) && a.isM && b.isM) 0 (mask a ||| mask b) ∧
    done (.mxor sm d a b) [d, a, b] ((d.isMDst || d.isZ) && a.isM && b.isM) 0 (mask a ^^^ mask b) ∧
    done (.mnot sm d a) [d, a] (d.isMDst && a.isM) 0 (~~~mask a) ∧
    done (.msave sm d a) [d, a] ((d.isSDst || d.isZ) && a.isM) (G.opnd64 a) 0 ∧
    done (.mrest sm d a) [d, a] (d.isMDst && (a.isS || a.isZ)) 0 (mask a) ∧
    done (.mpop sm d a) [d, a] ((d.isSDst || d.isZ) && a.isM) (BitVec.ofNat 64 (popcount (mask a))) 0 ∧
    done (.mffs sm d a) [d, a] ((d.isSDst || d.isZ) && a.isM)
      (BitVec.ofNat 64 (((List.range 32).find? fun i => (mask a).getLsbD i).getD 32)) 0

/-! ## Lane exchange, dot products, reductions, indexed registers (09 R157, R158, R166 to R173) -/

/-- R157, R166 to R169: the lane-crossing instructions write, in each active lane, the value of their source lane when that lane
is live in the split and 0 otherwise; `btl` and `btlh` look nibbles up in the 16 bytes of a scalar pair. -/
def Obligations.ExchangeResult : Prop :=
  ∀ (s : State) (g k : Nat) (G : Gang) (sp : Split) (sm : Bool) (d a b : Reg) (p : LanePat) (n : BitVec 5),
    let src (j : Nat) : Word := if (G.liveOf sp.slices).getLsbD j then G.opnd32 a j else 0
    let done (i : Instr) (more cross : List Reg) (f : Nat → Word) : Prop :=
      s.Issuing i g k G sp → (d.isVDst || d.isZ) = true → (a.isV || a.isZ) = true →
      G.Free (G.active sp.slices) (d :: more) → G.Free (G.liveOf sp.slices) cross →
      s.Issues i g k G (sp.goesOn (sp.pc + 4) sm) fun H => G.Writes H sp.slices d (G.activeLane sp.slices) f 0 0
    (b.vecSrc = true → done (.shfl sm d a b) [b] [a] fun i => src ((G.opnd32 b i).toNat % 32)) ∧
    done (.shfi sm d a p n) [] [a] (fun i =>
      match p with
      | .bcast => src n.toNat
      | .xor => src (i ^^^ n.toNat)
      | .rotd => src ((i + n.toNat) % 32)
      | .down => if i + n.toNat ≤ 31 then src (i + n.toNat) else 0
      | .up => if n.toNat ≤ i then src (i - n.toNat) else 0) ∧
    ((b.isS || b.isZ) = true → done (.lsh sm d a b) [b] [a] fun i => if i = 0 then (G.opnd64 b).setWidth 32 else src (i - 1)) ∧
    (tableReg b = true → done (.btl sm d a b) (a :: b.span 2) [] (G.lookup b false ∘ G.opnd32 a)) ∧
    (tableReg b = true → done (.btlh sm d a b) (a :: b.span 2) [] (G.lookup b true ∘ G.opnd32 a))

/-- R170, Table 9-7: `dot8` and `dot4` add the products of 4 or 8 packed elements to D, lane by lane, with their flags.
R171, R172, Table 9-8: `redadd`, `redmin` and `redmax` reduce the active lanes of A in increasing lane order to one value in
D; `scan` gives each active lane the reduction of the active lanes up to it.What FLUSH
does to CF32 is the model's reading (log 38). -/
def Obligations.DotAndReduction : Prop :=
  (∀ (s : State) (g k : Nat) (G : Gang) (sp : Split) (sm : Bool) (d a b : Reg) (t : EType), G.etype = some t →
    ∀ q ∈ [((.dot8 : Bool → Reg → Reg → Reg → Instr), 8, 4), ((.dot4 : Bool → Reg → Reg → Reg → Instr), 4, 8)],
      s.Issuing (q.1 sm d a b) g k G sp → dotType q.2.1 t = true → (d.isVDst || d.isZ) = true → a.vecSrc = true →
      b.vecSrc = true → G.Free (G.active sp.slices) [d, a, b] →
      s.Issues (q.1 sm d a b) g k G (sp.goesOn (sp.pc + 4) sm) fun H =>
        G.WritesT H (G.runs sp.slices (vectorWise d [a, b])) d false fun i =>
          let at_ (r : Reg) : Word := BitVec.ofNat 32 (G.codeAt false r i)
          let r := dotRes G.fmode t q.2.1 q.2.2 (at_ d) (at_ a) (at_ b)
          (r, BitVec.ofNat 64 r.code)) ∧
  (∀ (s : State) (g k : Nat) (G : Gang) (sp : Split) (sm : Bool) (d a : Reg) (t : EType), G.etype = some t →
    (∀ q ∈ [((.redadd : Bool → Reg → Reg → Instr), RedOp.add), (.redmin, .min), (.redmax, .max)],
      s.Issuing (q.1 sm d a) g k G sp → q.2.accepts t = true → (d.isSDst || d.isZ) = true → a.isV = true →
      pairOk t.isWide a = true → G.Free (G.active sp.slices) [d] → G.Free (G.liveOf sp.slices) (spanOf t.isWide a) →
      s.Issues (q.1 sm d a) g k G (sp.goesOn (sp.pc + 4) sm) fun H =>
        G.WritesT H [32] d false fun _ => G.reduce q.2 a (lanesOf (G.active sp.slices))) ∧
    (s.Issuing (.scan sm d a) g k G sp → RedOp.add.accepts t = true → (d.isVDst || d.isZ) = true → pairOk t.isWide d = true →
      (a.isV || a.isZ) = true → pairOk t.isWide a = true → G.Free (G.active sp.slices) (spanOf t.isWide d) →
      G.Free (G.liveOf sp.slices) (spanOf t.isWide a) →
      s.Issues (.scan sm d a) g k G (sp.goesOn (sp.pc + 4) sm) fun H =>
        G.WritesT H (lanesOf (G.active sp.slices)) d t.isWide fun i =>
          G.reduce .add a ((lanesOf (G.active sp.slices)).filter fun j => decide (j ≤ i))))

/-- R173: `rget` reads, and `rput` writes, in each active lane, the V register whose number that lane's index gives. -/
def Obligations.IndexedResult : Prop :=
  ∀ (s : State) (g k : Nat) (G : Gang) (sp : Split) (sm : Bool) (d a : Reg), a.vecSrc = true →
    G.Free (G.active sp.slices) [d, a] →
    (s.Issuing (.rget sm d a) g k G sp → (d.isVDst || d.isZ) = true → G.indexBound sp.slices a = [] →
      G.indexHazard sp.slices a = [] →
      s.Issues (.rget sm d a) g k G (sp.goesOn (sp.pc + 4) sm) fun H =>
        G.Writes H sp.slices d (G.activeLane sp.slices) (fun i => G.vreg (G.opnd32 a i).toNat i) 0 0) ∧
    (s.Issuing (.rput sm d a) g k G sp → d.vecSrc = true → G.indexBound sp.slices d = [] →
      G.indexHazard sp.slices d = [] →
      s.Issues (.rput sm d a) g k G (sp.goesOn (sp.pc + 4) sm) fun H =>
        (∀ i n, i < 32 → H.vreg n i =
          if G.activeLane sp.slices i ∧ (G.opnd32 d i).toNat = n then G.opnd32 a i else G.vreg n i) ∧
        { H with v := G.v, splits := G.splits, wd := G.wd } = G)

/-! ## Control transfer, parting, rejoining (07 R134 to R137) -/

/-- R74, R75, R134, R135, Table 7-1: `nop` does nothing; a branch goes to PC + 4 x its offset, a conditional one when the 64-bit
value of D is, or is not, 0 and else to PC + 4; `call` and `jr` save PC + 4; `ret` and `jr` go to the address in a register. -/
def Obligations.BranchResult : Prop :=
  ∀ (s : State) (g k : Nat) (G : Gang) (sp : Split) (sm : Bool) (d a : Reg) (o : BitVec 24) (e : BitVec 16),
    let goes (i : Instr) (rs : List Reg) (pc : Dword) (post : Gang → Prop) : Prop :=
      s.Issuing i g k G sp → G.Free 0 rs → legalPc pc = true → s.Issues i g k G (sp.goesOn pc sm) post
    let to24 : Dword := sp.pc + 4 * o.signExtend 64
    let to16 : Dword := sp.pc + 4 * e.signExtend 64
    (s.Issuing (.nop sm) g k G sp → s.Issues (.nop sm) g k G (sp.goesOn (sp.pc + 4) sm) G.WritesNothing) ∧
    goes (.br sm o) [] to24 G.WritesNothing ∧
    goes (.call sm o) [.s 39] to24 (fun H => G.WritesS H 39 (sp.pc + 4)) ∧
    goes (.ret sm) [.s 39] (G.sreg 39) G.WritesNothing ∧
    ((d.isSDst || d.isZ) = true → (a.isS || a.isZ) = true →
      goes (.jr sm d a) [d, a] (G.opnd64 a) fun H =>
        G.Writes H sp.slices d (fun _ => false) (fun _ => 0) (sp.pc + 4) 0) ∧
    ((d.isS || d.isM || d.isZ) = true →
      (G.opnd64 d = 0 → goes (.brz sm d e) [d] to16 G.WritesNothing) ∧
      (G.opnd64 d ≠ 0 → goes (.brnz sm d e) [d] to16 G.WritesNothing) ∧
      (G.opnd64 d ≠ 0 → s.Issuing (.brz sm d e) g k G sp → G.Free 0 [d] →
        s.Issues (.brz sm d e) g k G (sp.goesOn (sp.pc + 4) sm) G.WritesNothing) ∧
      (G.opnd64 d = 0 → s.Issuing (.brnz sm d e) g k G sp → G.Free 0 [d] →
        s.Issues (.brnz sm d e) g k G (sp.goesOn (sp.pc + 4) sm) G.WritesNothing))

/-- R74, Table 17-6: a taken branch whose target is no multiple of 4 or has bit 63 set raises ILLOP with reason 2 at its own
address, and does not issue. R57, R59, R33, R87, Table 3-10, on the integer instructions of Table 7-4 with a V destination:
one source register of a class that is not accepted raises ILLREG with its number and field, a destination at or above the
bound REGBOUND, a destination Pending in an active lane HAZARD, in this order; the instruction does not issue. -/
def Obligations.IssueTraps : Prop :=
  (∀ (s : State) (g k : Nat) (G : Gang) (sp : Split) (sm : Bool) (o : BitVec 24),
    (s.Issuing (.br sm o) g k G sp → legalPc (sp.pc + 4 * o.signExtend 64) = false →
      s.Traps (.br sm o) g k (.illop 2) sp.pc) ∧
    (s.Issuing (.ret sm) g k G sp → G.isPending (.s 39) 0 = false → legalPc (G.sreg 39) = false →
      s.Traps (.ret sm) g k (.illop 2) sp.pc)) ∧
  (∀ p ∈ table7_4, ∀ (s : State) (g k : Nat) (G : Gang) (sp : Split) (sm : Bool) (n : Fin 192) (a b : Reg),
    s.Issuing (p.1 sm (.v n) a b) g k G sp →
    (a.vecSrc = false → b.vecSrc = true → s.Traps (p.1 sm (.v n) a b) g k (.illreg a.num.toNat 1) sp.pc) ∧
    (a.vecSrc = true → b.vecSrc = false → s.Traps (p.1 sm (.v n) a b) g k (.illreg b.num.toNat 2) sp.pc) ∧
    (a.vecSrc = true → b.vecSrc = true → G.regBound ≤ n.val → G.boundTest [a, b] = [] →
      s.Traps (p.1 sm (.v n) a b) g k (.regbound n.val) sp.pc) ∧
    (a.vecSrc = true → b.vecSrc = true → G.boundTest [.v n, a, b] = [] → G.hazardTest (G.active sp.slices) [a, b] = [] →
      (∃ i, i < 32 ∧ G.activeLane sp.slices i = true ∧ G.isPending (.v n) i = true) →
      s.Traps (p.1 sm (.v n) a b) g k (.hazard n.val) sp.pc))

/-- R136, R29: `part` sends the slices whose active lanes all hold the condition to the target, as a split of its own, and lets
the others go on; where the condition holds in every slice, or in none, the split moves as one. Mixed slices raise SLICEMIX, and
a D that is no S register ILLREG. R137, R30, R50: at `regang` a split waits, and the watchdog counter restarts, while another
split of its gang is not at the same `regang`; the last one leaves one split that holds the slices of all and is READY at the
next word. A `regang` while another waits at another address raises REGANGMIX. The model's choices: that the new split takes the
lowest free entry and the merged split the lowest of the old ones (log 14), that both splits of a marked `part` stand marked
(log 19), and that the merged split waits as `fence` does, where it also reports held faults (log 40). -/
def Obligations.PartAndRegang : Prop :=
  (∀ (s : State) (g k : Nat) (G : Gang) (sp : Split) (sm : Bool) (d a : Reg),
    s.Issuing (.part sm d a) g k G sp → a.isM = true →
    (d.isS = false → s.Traps (.part sm d a) g k (.illreg d.num.toNat 0) sp.pc) ∧
    (d.isS = true → G.Free 0 [d, a] →
    let m : Word := (G.opnd64 a).setWidth 32
    let t := G.trueSlices sp.slices m
    let f := sp.slices &&& ~~~t
    (G.mixed sp.slices m ≠ 0 → s.Traps (.part sm d a) g k (.slicemix (G.mixed sp.slices m)) sp.pc) ∧
    (G.mixed sp.slices m = 0 → (t ≠ 0 → legalPc (G.opnd64 d) = true) →
      ∃ u H, exec (.part sm d a) s = .next (u.wake g) ∧ u.gang g = some H ∧ s.OnlyGang u g ∧ G.WritesNothing H ∧
        (t = 0 → G.OnlySplit H k (sp.goesOn (sp.pc + 4) sm)) ∧
        (t ≠ 0 → f = 0 → G.OnlySplit H k (sp.goesOn (G.opnd64 d) sm)) ∧
        (t ≠ 0 → f ≠ 0 → k ≠ G.freeEntry →
          KV.find H.splits k = some (({ sp with slices := f } : Split).goesOn (sp.pc + 4) sm) ∧
          KV.find H.splits G.freeEntry = some (({ sp with slices := t } : Split).goesOn (G.opnd64 d) sm) ∧
          ∀ j, j ≠ k → j ≠ G.freeEntry → KV.find H.splits j = KV.find G.splits j)))) ∧
  (∀ (s : State) (g k : Nat) (G : Gang) (sp : Split) (sm : Bool), s.Issuing (.regang sm) g k G sp →
    (∀ pc, G.otherRegang sp.pc = [pc] → s.Traps (.regang sm) g k (.regangmix (pc.setWidth 32)) sp.pc) ∧
    (G.otherRegang sp.pc = [] → (∃ p ∈ G.splits, p.1 ≠ k ∧ p.2.st ≠ .regang) →
      s.Issues (.regang sm) g k G { sp.waitsIn .regang .regang sm with seg := sm } fun H =>
        H.wd = 0 ∧ G.WritesNothing H) ∧
    (∀ e x0, KV.sorted G.splits = true → G.splits.head? = some (e, x0) → G.st = .resident → G.ops = [] → (∀ sl, s.unsettled G sl = 0) →
      (∀ p ∈ G.splits, p.1 ≠ k → p.2.st = .regang ∧ p.2.ipc = sp.pc) →
      ∃ t H, exec (.regang sm) s = .next t ∧ t.gang g = some H ∧ H.wd = 0 ∧ G.WritesNothing H ∧ ∃ x, H.splits = [(e, x)] ∧
        (∀ j, x.slices.getLsbD j = G.splits.any fun p => p.2.slices.getLsbD j) ∧ x.pc = sp.pc + 4 ∧ x.st = .ready))

/-- R138, R139, R78: `yield` waits on the copies its handle names, to go on at its target; `exit` waits as a segment marker does;
with nothing outstanding the last split's `exit` makes the gang RETIRING with no live lane of it left. -/
def Obligations.YieldExit : Prop :=
  ∀ (s : State) (g k : Nat) (G : Gang) (sp : Split) (sm : Bool) (d : Reg) (e : BitVec 16),
    (s.Issuing (.yield sm d e) g k G sp → (d.isS || d.isZ) = true → G.Free 0 [d] →
      legalPc (sp.pc + 4 * e.signExtend 64) = true →
      s.Issues (.yield sm d e) g k G
        (sp.waitsIn .yield (.yield (G.copiesNamed (G.opnd64 d).toNat) (sp.pc + 4 * e.signExtend 64)) sm) G.WritesNothing) ∧
    (s.Issuing (.yield false d e) g k G sp → (d.isS || d.isZ) = true → G.Free 0 [d] →
      legalPc (sp.pc + 4 * e.signExtend 64) = true → G.splits = [(k, sp)] → sp.st = .ready → sp.seg = false →
      G.st = .resident → G.ops = [] → G.copies = [] →
      ∃ t H, exec (.yield false d e) s = .next t ∧ t.gang g = some H ∧ ∃ x, H.splits = [(k, x)] ∧ x.st = .ready ∧
        x.pc = sp.pc + 4 * e.signExtend 64) ∧
    (s.Issuing (.exit sm) g k G sp → s.Issues (.exit sm) g k G (sp.waitsIn .segwait .exit sm) G.WritesNothing) ∧
    (s.Issuing (.exit false) g k G sp → G.splits = [(k, sp)] → sp.st = .ready → G.st = .resident → G.ops = [] →
      (∀ gr, s.group G.group = some gr → gr.claims = []) →
      ∃ t H, exec (.exit false) s = .next t ∧ t.gang g = some H ∧ H.st = .retiring ∧ H.splits = [] ∧
        H.live = G.live &&& ~~~G.sliceMask sp.slices ∧ H.v = G.v ∧ H.s = G.s ∧ H.m = G.m)

/-! ## System registers and traps (17 R264 to R270) -/

/-- R264, R62, R266, Table 17-4, Table 17-5: `setm` writes all 16 bits of `mode`; `rdsr` reads the system register of its
number, a trap register as 0 outside TRAP; `wrsr` in TRAP writes the trap register it names and nothing else. R265: `sysc`
waits in EVWAIT, for its release at system scope and then for the answer; with nothing outstanding the request leaves at
once with its number and s32 to s37. -/
def Obligations.SystemRegisters : Prop :=
  (∀ (s : State) (g k : Nat) (G : Gang) (sp : Split) (sm : Bool) (d : Reg) (e : BitVec 16),
    (s.Issuing (.setm sm e) g k G sp → G.Free 0 [.mode] →
      s.Issues (.setm sm e) g k G (sp.goesOn (sp.pc + 4) sm) fun H =>
        H.mode = e ∧ { H with mode := G.mode, splits := G.splits, wd := G.wd } = G) ∧
    (∀ r, SysReg.ofNum e = some r → s.Issuing (.rdsr sm d e) g k G sp → (d.isSDst || d.isZ) = true → G.Free 0 [d] →
      s.Issues (.rdsr sm d e) g k G (sp.goesOn (sp.pc + 4) sm) fun H =>
        G.Writes H sp.slices d (fun _ => false) (fun _ => 0) (s.sysRead G r) 0) ∧
    (G.st ≠ .trap → ∀ r ∈ [SysReg.tcause, .tpc, .tmode, .tmask, .tinfo, .tslice, .tfcount, .tfsel, .tfrec 0, .tfrec 1,
      .tfrec 2, .tfrec 3, .treplay], s.sysRead G r = 0) ∧
    (∀ r t, SysReg.ofNum e = some r → r.writable = true → G.st = .trap → G.trap = some t → (d.isS || d.isZ) = true →
      (r = .tmode → Instr.setmLegal ((G.opnd64 d).setWidth 16) = true) → s.Issuing (.wrsr sm d e) g k G sp →
      G.Free 0 [d] →
      s.Issues (.wrsr sm d e) g k G (sp.goesOn (sp.pc + 4) sm) fun H =>
        { H with trap := G.trap, splits := G.splits, wd := G.wd } = G ∧ ∃ t', H.trap = some t' ∧
          match r with
          | .tpc => t' = { t with tpc := G.opnd64 d }
          | .tmode => t' = { t with tmode := (G.opnd64 d).setWidth 16 }
          | .tmask => t' = { t with tmask := (G.opnd64 d).setWidth 32 }
          | .tfsel => t' = { t with tfsel := (G.opnd64 d).setWidth 5 }
          | .treplay => t' = { t with replay := (G.opnd64 d).getLsbD 0 }
          | .tcause | .tinfo | .tslice | .tfcount | .tfrec _ | .strike | .sstrike | .ctxid | .place | .node => False)) ∧
  (∀ (s : State) (g k : Nat) (G : Gang) (sp : Split) (sm : Bool) (e : BitVec 16), s.Issuing (.sysc sm e) g k G sp →
    G.Free 0 [.s 32, .s 33, .s 34, .s 35, .s 36, .s 37, .stat] →
    s.Issues (.sysc sm e) g k G (sp.waitsIn .evwait (.sysc e false) sm) G.WritesNothing ∧
    (sm = false → G.splits = [(k, sp)] → G.st = .resident → G.ops = [] →
      ∃ t H, exec (.sysc sm e) s = .next t ∧ t.gang g = some H ∧ G.WritesNothing H ∧
        t.out = s.out ++ [.sysc e g [G.sreg 32, G.sreg 33, G.sreg 34, G.sreg 35, G.sreg 36, G.sreg 37]] ∧
        ∃ x, H.splits = [(k, x)] ∧ x.st = .evwait ∧ x.wait = .sysc e true ∧ x.pc = sp.pc + 4))

/-- R267, R268: `trap e` enters TRAP in one step: TCAUSE 13, TPC the address of the word after it, TMODE and TMASK the old
`mode` and m0, TINFO its word and code, TSLICE its slices; `mode` becomes 0, m0 equals `live` in the split's slices and
keeps its other bits, the watchdog counter is 0, the split goes on at the handler. R270: a precise trap of the trapping split
of a gang in TRAP is a double trap: the gang halts with no split and no live lane left, and the device OS is told the gang,
its core and place. -/
def Obligations.TrapEntry : Prop :=
  (∀ (s : State) (g k : Nat) (G : Gang) (sp : Split) (sm : Bool) (e : BitVec 16), s.Issuing (.trap sm e) g k G sp →
    G.st ≠ .trap → G.binds = [] →
    ∃ t H w, exec (.trap sm e) s = .next t ∧ t.gang g = some H ∧ { t with gangs := s.gangs } = s ∧
      (∀ h, h ≠ g → t.gang h = s.gang h) ∧ encode (.trap sm e) = some w ∧
      H.st = .trap ∧ H.mode = 0 ∧ H.wd = 0 ∧
      (∀ i, i < 32 → (H.mreg 0).getLsbD i = if G.inSlices sp.slices i then G.live.getLsbD i else (G.mreg 0).getLsbD i) ∧
      (∀ n, n ≠ 0 → H.mreg n = G.mreg n) ∧
      H.trap = some
        { split := k, cause := 13, tpc := sp.pc + 4, tmode := G.mode, tmask := G.mreg 0, tinfo := w ++ e.setWidth 32,
          tslice := sp.slices, tfsel := 0, replay := false, recs := [], again := .none, seg := false } ∧
      (∃ x, KV.find H.splits k = some x ∧ x.pc = G.handler ∧ x.st = .ready ∧ x.slices = sp.slices) ∧
      (∀ j, j ≠ k → KV.find H.splits j = KV.find G.splits j) ∧
      { H with st := G.st, mode := G.mode, wd := G.wd, m := G.m, trap := G.trap, splits := G.splits } = G) ∧
  (∀ (s : State) (g k : Nat) (G : Gang) (sp : Split) (sm : Bool) (e : BitVec 16), s.Issuing (.trap sm e) g k G sp →
    G.st = .trap → G.trapSplit = some k →
    ∃ t H, exec (.trap sm e) s = .next t ∧ t.gang g = some H ∧ H.st = .retiring ∧ H.live = 0 ∧ H.splits = [] ∧
      H.trap = none ∧ .osHalt g G.core G.slot G.idx 12 0 ∈ t.out)

/-- R85, R87: a word that decodes to no instruction raises ILLOP, reason 0, at its own address, whatever else holds, with the word
in TINFO. -/
def Obligations.UndecodableTraps : Prop :=
  ∀ (s : State) (g k : Nat) (G : Gang) (sp : Split) (w : Word), s.cur = some (g, k) → s.gang g = some G →
    KV.find G.splits k = some sp → s.unsettled G sp.slices = 0 → G.st ≠ .trap → G.binds = [] →
    ∃ t H r, exec (.undecodableWord w) s = .next t ∧ t.gang g = some H ∧ H.st = .trap ∧ H.trap = some r ∧ r.cause = 1 ∧
      r.tpc = sp.pc ∧ r.tinfo = w ++ 0#32 ∧ t.mem = s.mem

/-- R269: `tret` sets `mode` to TMODE and m0 to TMASK (of a protected gang, its visible lanes), makes the gang RESIDENT, and the
split goes on at TPC; outside TRAP it raises ILLOP, reason 4. R276: returning from a MEMFAULT it waits at its report point again;
with TREPLAY clear the access of a faulted load is never performed, its lane is no longer Pending and no register has changed;
with TREPLAY set the access is issued again with its kept address. What of a MEMFAULT's report point is waited for again is the
model's reading (log 26). -/
def Obligations.TrapReturn : Prop :=
  ∀ (s : State) (g k : Nat) (G : Gang) (sp : Split) (sm : Bool), s.Issuing (.tret sm) g k G sp →
    (G.st ≠ .trap → s.Traps (.tret sm) g k (.illop 4) sp.pc) ∧
    ∀ t, G.st = .trap → G.trap = some t → legalPc t.tpc = true → G.held = [] →
      let back (H : Gang) : Prop :=
        H.st = .resident ∧ H.mode = t.tmode ∧ H.mreg 0 = (if G.prot then t.tmask &&& 0xFFFF#32 else t.tmask) ∧
          (∀ n, n ≠ 0 → H.mreg n = G.mreg n) ∧ H.trap = none ∧
          { H with st := G.st, mode := G.mode, m := G.m, trap := G.trap, ops := G.ops, pend := G.pend, splits := G.splits,
                   wd := G.wd } = G
      (t.cause ≠ 14 → t.again = .none →
        s.Issues (.tret sm) g k G
          (let x : Split := { sp with ipc := sp.pc, pc := t.tpc, age := 0, st := .ready, wait := .none, seg := false }
           if sm then x.mark else x)
          fun H => back H ∧ H.ops = G.ops ∧ H.pend = G.pend) ∧
      ∀ r o j op a, t.cause = 14 → t.again = .marker → t.tslice = sp.slices → t.recs = [r] → r.op = o → G.ops = [(o, op)] →
        op.kind = .load → op.mat = none → op.isStt = false → op.accs = [(j, a)] → a.lane < 32 → a.st = .fault causeTrans →
        G.owns sp.slices a = true →
        let x : Split :=
          { sp with ipc := sp.pc, pc := t.tpc, age := 0, st := .segwait, wait := .marker, seg := t.seg || sm }
        (t.replay = false → s.Issues (.tret sm) g k G x fun H => back H ∧ H.ops = [] ∧
          ∀ y, y.1 < 256 * 32 → (y ∈ H.pend ↔ y ∈ G.pend ∧
            ¬(y.2 = o ∧ ((Reg.ofNum (BitVec.ofNat 8 (y.1 / 32))).isV = true → y.1 % 32 = a.lane)))) ∧
        (t.replay = true → localWindow a.va = none → a.va.extractLsb' 60 3 = 0 → a.va.extractLsb' 48 12 = s.node →
          s.Issues (.tret sm) g k G x fun H => back H ∧ H.pend = G.pend ∧ ∃ A, (H.acc o j).map Prod.snd = some A ∧ A.va = a.va ∧
            (s.tlbHit G.core G.ctx (vpnOf a.va) = none → A.st = .xlate) ∧
            ∀ l, s.tlbHit G.core G.ctx (vpnOf a.va) = some l → l.r = true →
              A.place = some (.hbm (l.base + (a.va.extractLsb' 0 12).toNat)) ∧ (A.st = .ready ∨ A.st = .performed))

/-! ## Loads, stores, atomics (07 R148 to R153, 13 R211 to R215) -/

/-- R149 to R152, R33, R67, R68, R151, Table 7-10: a load makes its span Pending in the lanes that perform it and asks for each
lane's bytes at its effective address, in halves of 8 bytes when it is of 16; a misaligned lane is held by ALIGN; a lane of
the private window or of the register window has its bytes at once. With no lane it does nothing. -/
def Obligations.LoadResult : Prop :=
  ∀ (s : State) (g k : Nat) (G : Gang) (sp : Split) (sm : Bool) (d a b : Reg) (o : BitVec 5),
    ∀ p ∈ table7_10 true sm d a b o, s.Issuing p.1 g k G sp → p.2.1.Passes p.2.2 s G sp →
      let x := p.2.1
      let L := G.runs sp.slices x.vec
      (L = [] → s.Issues p.1 g k G (sp.goesOn (sp.pc + 4) sm) G.WritesNothing) ∧
      (L ≠ [] → s.Requests p.1 g k G sp (sp.goesOn (sp.pc + 4) sm) .load d none none (memSpan x.size d) L fun accs =>
        accs.map Prod.fst = L.flatMap (fun l => (halves (x.ea G l) x.size).map fun h => l * 2 + h.1) ∧
        ∀ l ∈ L, ∀ h ∈ halves (x.ea G l) x.size, ∃ A, KV.find accs (l * 2 + h.1) = some A ∧ A.lane = l ∧ A.va = h.2.1 ∧
          A.size = h.2.2 ∧
          ((x.ea G l).toNat % x.size ≠ 0 → A.st = .fault causeAlign) ∧
          (∀ key, x.privAt g G l h = some key →
            A.st = .performed ∧ A.ans = BitVec.ofNat 128 (s.mem.read key h.2.2)) ∧
          (x.size = 4 → (x.ea G l).toNat % 4 = 0 → localWindow (x.ea G l) = some 1 → A.st = .performed ∧
            A.ans = (G.vreg (offset (x.ea G l) / 128) (offset (x.ea G l) / 4 % 32)).setWidth 128))

/-- R149 to R152, R67, R68, R70, R183, Table 7-10: a store writes the low bytes of its span, lane by lane. At issue the
aligned lanes of the private window store theirs at the address that `Plain.privAt` computes, and every other byte of memory
reads as before; the lanes of the register window write register words, one that several lanes touch by one of them; every
other lane is outstanding with its data, a misaligned one held by ALIGN. No other register, gang or L1 sector set changes.
Which lane's bytes stay where lanes of one store meet in the gang's register window is free (log 4). -/
def Obligations.StoreResult : Prop :=
  ∀ (s : State) (g k : Nat) (G : Gang) (sp : Split) (sm : Bool) (d a b : Reg) (o : BitVec 5),
    ∀ p ∈ table7_10 false sm d a b o, s.Issuing p.1 g k G sp → p.2.1.Passes p.2.2 s G sp →
      let x := p.2.1
      let L := G.runs sp.slices x.vec
      let data (l : Nat) : Nat := G.storeData x.size d l
      ∃ (u : State) (H : Gang), exec p.1 s = .next (u.wake g) ∧ u.gang g = some H ∧ G.OnlySplit H k (sp.goesOn (sp.pc + 4) sm) ∧
        { u with mem := s.mem, gangs := s.gangs, cores := s.cores, bents := s.bents, fresh := s.fresh } = s ∧
        (∀ h, h ≠ g → u.gang h = s.gang h) ∧
        { H with v := G.v, ops := G.ops, nextOp := G.nextOp, splits := G.splits, wd := G.wd } = G ∧
        (∀ c, { u.core c with wsum := (s.core c).wsum, l1 := (s.core c).l1 } = s.core c) ∧
        (∀ c, c ≠ G.core → (u.core c).l1 = (s.core c).l1) ∧ (∀ b, { u.bent b with sum := (s.bent b).sum } = s.bent b) ∧
        (∀ pa, (u.sector G.core pa).isSome = (s.sector G.core pa).isSome) ∧
        u.mem.full = s.mem.full ∧
        (∀ key, (∀ l ∈ L, ∀ h ∈ halves (x.ea G l) x.size, ∀ at_, x.privAt g G l h = some at_ →
            key < at_ ∨ at_ + h.2.2 ≤ key) → u.mem.byte key = s.mem.byte key) ∧
        (∀ l ∈ L, ∀ h ∈ halves (x.ea G l) x.size, ∀ at_, x.privAt g G l h = some at_ →
          u.mem.read at_ h.2.2 = data l / 2 ^ (64 * h.1) % 2 ^ (8 * h.2.2)) ∧
        (∀ n i, i < 32 → (∀ l ∈ L, (n, i) ∉ winWords x.size (x.ea G l)) → H.vreg n i = G.vreg n i) ∧
        (∀ l ∈ L, (x.ea G l).toNat % 4 = 0 → x.size = 4 → localWindow (x.ea G l) = some 1 →
          (∀ l' ∈ L, l' ≠ l → winWords 4 (x.ea G l') ≠ winWords 4 (x.ea G l)) →
          H.vreg (offset (x.ea G l) / 128) (offset (x.ea G l) / 4 % 32) = BitVec.ofNat 32 (data l)) ∧
        (∀ l ∈ L, ∀ h ∈ halves (x.ea G l) x.size, x.privAt g G l h = none →
          ((x.ea G l).toNat % x.size = 0 → localWindow h.2.1 ≠ some 1) →
          ∃ op A, KV.find H.ops G.nextOp = some op ∧ op.kind = .store ∧ op.pc = sp.pc ∧
            KV.find op.accs (l * 2 + h.1) = some A ∧ A.lane = l ∧ A.va = h.2.1 ∧ A.size = h.2.2 ∧
            A.data = BitVec.ofNat 128 (data l / 2 ^ (64 * h.1)) ∧
            ((x.ea G l).toNat % x.size ≠ 0 → A.st = .fault causeAlign))

/-- R212, R213, R215, R183, R184, Table 13-1, Table 11-3: an atomic sends, for each lane that performs it, its address and data
(of `acas` the compare value and the new value) to the home; the return form makes D Pending; it releases at its scope,
the return form acquires there too. -/
def Obligations.AtomicResult : Prop :=
  ∀ q ∈ table13_1, ∀ (s : State) (g k : Nat) (G : Gang) (sp : Split) (sm : Bool) (d a : Reg) (c : Scope) (t : EType),
    let i := q.1 sm d a c
    let vec : Bool := d.isV || (d.isZ && a.isV)
    let L := G.runs sp.slices vec
    let size := if vec then 4 else 8
    let value (r : Reg) (l : Nat) : Dword := if vec then (G.opnd32 r l).setWidth 64 else G.opnd64 r
    G.etype = some t → (q.2.1 = .fadd → t = if vec then .fp32 else .fp64) → s.Issuing i g k G sp →
    (if q.2.2 then d.isVDst || d.isSDst || d.isZ else d.isV || d.isS || d.isZ) = true →
    (q.2.1 = .cas → d.aligned 2 = true ∧ d ≠ .zr) → (if vec then a.vecSrc else a.isS || a.isZ) = true →
    G.Free (G.active sp.slices) ((if q.2.1 = .cas then d.span 2 else [d]) ++ [a]) →
    s.clampTest G true (L.map fun l => (G.base a l, size)) = none → s.MemRoom G sp (L.map fun l => G.base a l) →
    (L = [] → s.Issues i g k G (sp.goesOn (sp.pc + 4) sm) G.WritesNothing) ∧
    (L ≠ [] → s.Requests i g k G sp (sp.goesOn (sp.pc + 4) sm) (.atomic q.2.1 (!t.unsigned) q.2.2) d (some c)
      (if q.2.2 then some c else none) (if q.2.2 then [d] else []) L fun accs =>
        accs.map Prod.fst = L.map (· * 2) ∧
        ∀ l ∈ L, ∃ A, KV.find accs (l * 2) = some A ∧
          s.Asks G sp.slices A l (G.base a l) size
            ((if q.2.1 = .cas then value (d.plus 1) l else value d l).setWidth 128) 2 size ∧
          (q.2.1 = .cas → A.cmp = value d l))

/-! ## Futures, rings, remote writes (13 R219 to R233) -/

/-- R203, R220, R221, R225 to R227, R233, Table 11-3: each of these sends one request to the home of its address, on a cell or
counter of 8 bytes or a control block of 64. `fwr` and `rretire` make `stat` Pending, `rcommit` nothing; the reads, `rclaim`,
`rawait` and `rwait` wait for their answer. That ALIGN comes
before WINDOW is the model's choice (log 37). -/
def Obligations.RequestResult : Prop :=
  ∀ (s : State) (g k : Nat) (G : Gang) (sp : Split) (sm : Bool) (d a : Reg) (e : BitVec 16),
    let va := G.opnd64 a
    let asks (i : Instr) (kind : OpKind) (ok : Bool) (rs : List Reg) (dst : Reg) (va data : Dword) (n : Nat) (clamped : Bool)
        (rel acq : Option Scope) (pend : List Reg) (waits : Bool) : Prop :=
      s.Issuing i g k G sp → ok = true → G.Free 0 rs → s.clampTest G clamped [(va, n)] = none → s.MemRoom G sp [va] →
      s.Requests i g k G sp
        (if waits then sp.waitsIn .evwait (.op G.nextOp) sm else sp.goesOn (sp.pc + 4) sm) kind dst rel acq pend [0]
        fun accs => ∃ A, accs = [(64, A)] ∧ s.Asks G sp.slices A 32 va n (data.setWidth 128) 4 n
    let src : Bool := (d.isS || d.isZ) && (a.isS || a.isZ)
    let dst : Bool := (d.isSDst || d.isZ) && (a.isS || a.isZ)
    let far : Option Scope := some (targetScope s.node va)
    asks (.fwr sm d a) .fwr src [d, a, .stat] .stat va (G.opnd64 d) 8 true far none [.stat] false ∧
    asks (.frd sm d a) (.frd false) dst [d, a, .stat] d va 0 8 false none far [d, .stat] true ∧
    asks (.frdC sm d a) (.frd true) dst [d, a, .stat] d va 0 8 true none far [d, .stat] true ∧
    asks (.rclaim sm d a) .rclaim dst [d, a, .stat] d va (G.opnd64 d) 64 true none none [d, .stat] true ∧
    asks (.rcommit sm d a) .rcommit src [d, a] .zr va (G.opnd64 d) 64 true far none [] false ∧
    asks (.rawait sm d a) .rawait dst [d, a, .stat] d va (G.opnd64 d) 64 true none far [d, .stat] true ∧
    asks (.rretire sm d a) .rretire src [d, a, .stat] .stat va (G.opnd64 d) 64 true none none [.stat] false ∧
    asks (.rwait sm d e) .rwait (d.isS || d.isZ) [d, .stat] .stat (G.opnd64 d) (e.setWidth 64) 8 true none
      (some (targetScope s.node (G.opnd64 d))) [] true

/-- R228, R229, R232: `rbind` binds a ring of a fourth at most, leaves a bound one alone and is held by RING as a fifth; `rwr`
sends each active lane's value of a V register to A + 4 x lane, or the value of an S register to A, and one addition of 1
to the counter at B; where the data of any lane lies on another module than the counter, every part is held by NODE. That an
`rwr` which is bad in two ways reports NODE first is the model's choice (log 37). -/
def Obligations.BindAndRemoteWrite : Prop :=
  ∀ (s : State) (g k : Nat) (G : Gang) (sp : Split) (sm : Bool) (d a b : Reg),
    (s.Issuing (.rbind sm a) g k G sp → (a.isS || a.isZ) = true → G.Free 0 [a] →
      s.clampTest G true [(G.opnd64 a, 64)] = none → s.MemRoom G sp [G.opnd64 a] →
      let va := G.opnd64 a
      let A := s.ringAcc g G sp a 0
      let bad : Bool := A.st.isFault || decide (4 ≤ G.binds.length)
      s.Asks G sp.slices A 32 va 64 0 4 64 ∧
      (A.st.isFault = false → (∃ x ∈ G.binds, x.1 = va) →
        s.Issues (.rbind sm a) g k G (sp.goesOn (sp.pc + 4) sm) G.WritesNothing) ∧
      ((A.st.isFault = true ∨ ∀ x ∈ G.binds, x.1 ≠ va) →
        ∃ (u : State) (H : Gang), exec (.rbind sm a) s = .next (u.wake g) ∧ u.gang g = some H ∧ s.NearGang u g G.core ∧
          G.OnlySplit H k (sp.goesOn (sp.pc + 4) sm) ∧
          KV.find H.ops G.nextOp = some
            { kind := .rbind, instr := .rbind sm a, pc := sp.pc, slices := sp.slices, mode := G.mode, dest := .zr,
              rel := none, acq := none,
              accs := [(64, if A.st.isFault = false ∧ 4 ≤ G.binds.length then { A with st := .fault causeRing } else A)],
              held := false, mat := none } ∧
          (∀ o, o ≠ G.nextOp → KV.find H.ops o = KV.find G.ops o) ∧
          H.binds = (if bad then G.binds else G.binds ++ [(va, none)]) ∧
          { H with binds := G.binds, ops := G.ops, nextOp := G.nextOp, splits := G.splits, wd := G.wd } = G)) ∧
    (s.Issuing (.rwr sm d a b) g k G sp → (d.isV || d.isS || d.isZ) = true → (a.isS || a.isZ) = true →
      (b.isS || b.isZ) = true → G.Free (G.active sp.slices) [d, a, b] →
      let L := if d.isV then lanesOf (G.active sp.slices) else [32]
      let n := if d.isV then 4 else 8
      let at_ (l : Nat) : Dword := if d.isV then G.opnd64 a + BitVec.ofNat 64 (4 * l) else G.opnd64 a
      s.clampTest G true ((G.opnd64 b, 8) :: L.map fun l => (at_ l, n)) = none → s.MemRoom G sp (G.opnd64 b :: L.map at_) →
      s.Requests (.rwr sm d a b) g k G sp (sp.goesOn (sp.pc + 4) sm) .rwr .zr (some (targetScope s.node (G.opnd64 b))) none
        [] [] fun accs =>
          accs.map Prod.fst = L.map (· * 2) ++ [counterKey] ∧
          ((∃ l ∈ L, nodeOf s.node (at_ l) ≠ nodeOf s.node (G.opnd64 b)) → ∀ p ∈ accs, p.2.st = .fault causeNode) ∧
          ((∀ l ∈ L, nodeOf s.node (at_ l) = nodeOf s.node (G.opnd64 b)) →
            (∃ C, KV.find accs counterKey = some C ∧ s.Asks G sp.slices C 32 (G.opnd64 b) 8 1 4 8) ∧
            ∀ l ∈ L, ∃ A, KV.find accs (l * 2) = some A ∧
              s.Asks G sp.slices A l (at_ l) n
                ((if d.isV then (G.opnd32 d l).setWidth 64 else G.opnd64 d).setWidth 128) 2 n))

/-! ## Order, barriers, pool (13 R216, R217, R230 to R235) -/

/-- R217, R191, R192, R197, Table 13-3: `acq`, `fence`, `fsc` and `xfence` wait as a segment marker does, `rel` for its release.
Where nothing is outstanding they end within their step, an acquire at bent, chip or system scope with an empty L1; `fsc`
then waits for its strike edge. 01 R41: after a step the waits that can end are ended: that is nothing at all where no wait of
the gang can end; and where no access is held by a fault and no cancellation is bound, the end of waits other than those of
barriers, `give`, pushes, `qbind` and `exit` writes no V, S or M register but `stat`, no `mode` and no byte of memory. -/
def Obligations.OrderResult : Prop :=
  (∀ (s : State) (g : Nat),
    let stays (G : Gang) (x : Split) : Prop :=
      x.st = .ready ∨ x.st ≠ .faultpark ∧
        match x.wait with
        | .none | .bar _ | .regang | .claim _ | .fscEdge _ _ | .quad => True
        | .marker | .acq _ | .fenceAcq _ | .fscAcq _ => G.reportReady x.slices = false
        | .rel c => G.released x.slices c G.nextOp = false
        | .exit => G.mayFault x.slices = true
        | .op o => ∃ op, KV.find G.ops o = some op ∧ op.goodAccs ≠ []
        | .give n => G.givenPending n = true
        | .barRel _ _ _ _ => G.released x.slices G.scope G.nextOp = false
        | .yield h _ => G.copiesDone h = false ∨ G.resultsIn x.slices = false
        | .reqRead q w => ∃ r ∈ (G.queue q.val).reqs, r.st = .reading ∧ r.tag = w
        | .sysc _ sent => sent = true ∨ G.released x.slices .sys G.nextOp = false
        | .spawn _ todo _ _ => todo ≠ 0 ∨ G.released x.slices .chip G.nextOp = false
        | .bleave => G.released x.slices .bent G.nextOp = false
        | .acqQuiet _ => G.resultsIn x.slices = false
        | .fence _ | .fsc _ | .cwait _ | .nwait _ | .push _ _ _ | .qbind _ _ _ | .tcfg _ => False
    ((∀ G, s.gang g = some G → G.st = .resident ∨ G.st = .trap → ∀ p ∈ G.splits, stays G p.2) → s.wake g = s) ∧
    ∀ G, s.gang g = some G → (∀ p ∈ G.ops, p.2.badAccs = []) → s.binding G = none →
      (∀ p ∈ G.splits, match p.2.wait with
        | .barRel _ _ _ _ | .give _ | .push _ _ _ | .qbind _ _ _ | .exit => False
        | _ => True) →
      ∃ H, (s.wake g).gang g = some H ∧ (∀ h, h ≠ g → (s.wake g).gang h = s.gang h) ∧
        { H with stat := G.stat, tile := G.tile, member := G.member, pend := G.pend, ops := G.ops, splits := G.splits } = G ∧
        { s.wake g with gangs := s.gangs, cores := s.cores, out := s.out } = s ∧
        ∀ c, { (s.wake g).core c with l1 := (s.core c).l1 } = s.core c) ∧
  ∀ (s : State) (g k : Nat) (G : Gang) (sp : Split) (sm : Bool) (c : Scope) (sys : Bool),
    let far : Bool := c == .bent || c == .chip || c == .sys
    let waits (i : Instr) (st : SplitState) (w : Wait) : Prop :=
      s.Issuing i g k G sp → s.Issues i g k G (sp.waitsIn st w sm) G.WritesNothing
    let alone (i : Instr) (clears : Bool) (wait : Wait) : Prop :=
      s.Issuing i g k G sp → G.Alone k sp →
      s.EndsAlone i g k sp fun t H x => G.WritesNothing H ∧ s.NearGang t g G.core ∧
        (clears = true → (t.core G.core).l1 = []) ∧ (clears = false → (t.core G.core).l1 = (s.core G.core).l1) ∧
        x.wait = wait ∧ (x.st = .ready ↔ wait = .none)
    waits (.acq sm c) .segwait (.acq c) ∧ waits (.rel sm c) .evwait (.rel c) ∧ waits (.fence sm c) .segwait (.fence c) ∧
    waits (.fsc sm sys) .segwait (.fsc sys) ∧ waits (.xfence sm) .segwait .marker ∧
    alone (.acq false c) far .none ∧ alone (.rel false c) false .none ∧ alone (.fence false c) far .none ∧
    alone (.xfence false) false .none ∧ alone (.fsc false sys) false (.fscEdge sys false)

/-- R231, R49, R47, R48, Table 3-2: `bar` and `barar` arrive with mask D and count A, after a release at the gang scope's
level; in an abandoned group they write ABANDONED to `stat` and go on. `barw` goes on with OK where no arrival of its slices
stands, waits while the phase of one is not complete, and takes BARTIMEOUT for a discarded one. The last
arrival completes the phase: every gang that waits has OK in `stat`, acquires and goes on, and the next phase begins empty. That
a `barw` that completes at once acquires too is the model's reading (log 24). -/
def Obligations.BarrierResult : Prop :=
  ∀ (s : State) (g k : Nat) (G : Gang) (sp : Split) (sm : Bool) (d a : Reg) (n : BitVec 6),
    let m : Word := (G.opnd64 d).setWidth 32
    let statIs (c : Nat) (H : Gang) : Prop :=
      H.stat = BitVec.ofNat 64 c ∧ { H with stat := G.stat, splits := G.splits, wd := G.wd } = G
    n.toNat < s.barriersOf G →
    (∀ q ∈ [((.bar : Bool → Reg → Reg → BitVec 6 → Instr), SplitState.barwait, true), (.barar, .evwait, false)],
      s.Issuing (q.1 sm d a n) g k G sp → (d.isM || d.isS) = true → a.isS = true → G.Free 0 [d, a, .stat] →
      (s.isAbandoned G = true → s.Issues (q.1 sm d a n) g k G (sp.goesOn (sp.pc + 4) sm) (statIs 6)) ∧
      (s.isAbandoned G = false → G.mismatch g (s.barrierOf G n.toNat) sp.slices m (G.opnd64 a).toNat = false →
        s.Issues (q.1 sm d a n) g k G (sp.waitsIn q.2.1 (.barRel n.toNat m (G.opnd64 a).toNat q.2.2) sm)
          G.WritesNothing) ∧
      (s.isAbandoned G = false → G.mismatch g (s.barrierOf G n.toNat) sp.slices m (G.opnd64 a).toNat = true →
        s.Traps (q.1 sm d a n) g k (.maskmismatch n.toNat) sp.pc)) ∧
    (s.Issuing (.barar false d a n) g k G sp → (d.isM || d.isS) = true → a.isS = true → G.Free 0 [d, a, .stat] →
      G.Alone k sp → s.isAbandoned G = false →
      G.mismatch g (s.barrierOf G n.toNat) sp.slices m (G.opnd64 a).toNat = false →
      ∀ gr, s.group G.group = some gr → gr.gangs = [g] →
        popcount (m &&& G.liveOf sp.slices) + (gr.barrier n.toNat).count < (G.opnd64 a).toNat * popcount m →
        KV.find (gr.barrier n.toNat).arrived g = none →
        s.EndsAlone (.barar false d a n) g k sp fun t H x => x.st = .ready ∧ H.stat = 0 ∧
          (∀ j, sp.slices.getLsbD j = true → ∃ r, KV.find H.arrs (arrKey j n.toNat) = some r ∧ r.discarded = false ∧
            r.phase = (gr.barrier n.toNat).phase) ∧
          ∃ gr', t.group G.group = some gr' ∧
            KV.find (gr'.barrier n.toNat).arrived g = some (m &&& G.liveOf sp.slices) ∧
            (gr'.barrier n.toNat).phase = (gr.barrier n.toNat).phase) ∧
    (∀ q ∈ [(.bar : Bool → Reg → Reg → BitVec 6 → Instr), .barar], s.Issuing (q false d a n) g k G sp →
      (d.isM || d.isS) = true → a.isS = true → G.Free 0 [d, a, .stat] → G.Alone k sp → s.isAbandoned G = false →
      G.mismatch g (s.barrierOf G n.toNat) sp.slices m (G.opnd64 a).toNat = false →
      ∀ gr, s.group G.group = some gr → g ∈ gr.gangs → KV.find (gr.barrier n.toNat).arrived g = none →
        (G.opnd64 a).toNat * popcount m ≤ popcount (m &&& G.liveOf sp.slices) + (gr.barrier n.toNat).count →
        let waiter (h j : Nat) (W : Gang) (x : Split) : Prop :=
          s.gang h = some W ∧ W.splits = [(j, x)] ∧ x.st = .barwait ∧ x.wait = .bar n.toNat ∧ x.seg = false ∧
            W.st = .resident ∧ W.ops = []
        (∀ h ∈ gr.gangs, h ≠ g → ∃ j W x, waiter h j W x) →
        s.EndsAlone (q false d a n) g k sp fun t H y => y.st = .ready ∧ H.stat = 0 ∧
          (∃ gr', t.group G.group = some gr' ∧ (∀ b, b ≠ n.toNat → gr'.barrier b = gr.barrier b) ∧
            gr'.barrier n.toNat =
              { phase := (gr.barrier n.toNat).phase + 1, m := 0, n := 0, arrived := [], strikes := 0 }) ∧
          ∀ h ∈ gr.gangs, h ≠ g → ∀ j W x, waiter h j W x → ∃ W' y', t.gang h = some W' ∧ W'.stat = 0 ∧
            W'.splits = [(j, y')] ∧ y'.st = .ready ∧ y'.pc = x.pc ∧
            { W' with stat := W.stat, splits := W.splits } = W ∧
            ((W.scope = .bent ∨ W.scope = .chip ∨ W.scope = .sys) → (t.core W.core).l1 = [])) ∧
    (s.Issuing (.barw sm n) g k G sp → G.Free 0 [.stat] →
      let arr := G.arrivals sp.slices n.toNat
      (s.isAbandoned G = true → s.Issues (.barw sm n) g k G (sp.goesOn (sp.pc + 4) sm) (statIs 6)) ∧
      (s.isAbandoned G = false → arr = [] → s.Issues (.barw sm n) g k G (sp.goesOn (sp.pc + 4) sm) (statIs 0)) ∧
      (s.isAbandoned G = false → (∀ r ∈ arr, r.discarded = false) →
        (∃ r ∈ arr, r.phase = (s.barrierOf G n.toNat).phase) →
        s.Issues (.barw sm n) g k G (sp.waitsIn .barwait (.bar n.toNat) sm) G.WritesNothing) ∧
      (s.isAbandoned G = false → arr ≠ [] → (∀ r ∈ arr, r.discarded = false) →
        (∀ r ∈ arr, r.phase ≠ (s.barrierOf G n.toNat).phase) →
        s.Issues (.barw sm n) g k G (sp.waitsIn .evwait (.acqQuiet G.scope) sm) (statIs 0)) ∧
      (s.isAbandoned G = false → (∃ r ∈ arr, r.discarded = true) → G.st ≠ .trap → G.binds = [] →
        ∃ t H r, exec (.barw sm n) s = .next t ∧ t.gang g = some H ∧ H.st = .trap ∧ H.trap = some r ∧ r.cause = 12 ∧
          r.tpc = sp.pc))

/-- R36 to R38, R234: `claim` appends a run of granules, with OK, where one can serve it, and completes with NOPOOL where no
gang of its group can go on; `give` returns the top granules, whose registers are lost, and lowers the bound. Past its
limits each raises REGBOUND. R235, R178: `bjoin` makes the gang a member of its sharing group and acquires at bent scope;
`bleave` ends its membership after a release at bent scope; both are within their step where nothing is outstanding. Which
of several runs a claim takes is the model's choice (log 14). -/
def Obligations.PoolAndMembership : Prop :=
  (∀ (s : State) (g k : Nat) (G : Gang) (sp : Split) (e : BitVec 16) (gr : Group), G.Alone k sp →
    s.group G.group = some gr → gr.claims = [] →
    (s.Issuing (.claim false e) g k G sp → G.Free 0 [.stat] →
      (4 ≤ G.segs.length ∨ 24 < G.granules + e.toNat → s.Traps (.claim false e) g k (.regbound G.regBound) sp.pc) ∧
      (G.segs.length < 4 → G.granules + e.toNat ≤ 24 →
        (∀ a, s.claimRun gr e.toNat = some a →
          s.EndsAlone (.claim false e) g k sp fun t H x => x.st = .ready ∧ H.segs = G.segs ++ [(a, e.toNat)] ∧ H.stat = 0 ∧
            { H with segs := G.segs, stat := G.stat, splits := G.splits, wd := G.wd } = G ∧ t.mem = s.mem ∧
            ∃ gr', t.group G.group = some gr' ∧ gr'.claims = [] ∧
              ∀ y, y ∈ gr'.pool ↔ y ∈ gr.pool ∧ (y < a ∨ a + e.toNat ≤ y)) ∧
        (s.claimRun gr e.toNat = none → gr.gangs = [g] →
          s.EndsAlone (.claim false e) g k sp fun t H x => x.st = .ready ∧ H.stat = 7 ∧
            { H with stat := G.stat, splits := G.splits, wd := G.wd } = G ∧ t.mem = s.mem))) ∧
    (s.Issuing (.give false e) g k G sp →
      (G.topGranules < e.toNat → s.Traps (.give false e) g k (.regbound G.regBound) sp.pc) ∧
      (∀ front a n, G.segs = front ++ [(a, n)] → e.toNat ≤ n → G.pend = [] →
        s.EndsAlone (.give false e) g k sp fun t H x => x.st = .ready ∧ H.granules + e.toNat = G.granules ∧
          (∀ m i, i < 32 → H.vreg m i = if m < H.regBound then G.vreg m i else 0) ∧
          { H with segs := G.segs, v := G.v, splits := G.splits, wd := G.wd } = G ∧ t.mem = s.mem ∧
          ∃ gr', t.group G.group = some gr' ∧
            ∀ y, y ∈ gr'.pool ↔ y ∈ gr.pool ∨ a + n - e.toNat ≤ y ∧ y < a + n))) ∧
  (∀ (s : State) (g k : Nat) (G : Gang) (sp : Split) (sm : Bool),
    (s.Issuing (.bjoin sm) g k G sp →
      s.Issues (.bjoin sm) g k G (sp.waitsIn .evwait (.acqQuiet .bent) sm) fun H =>
        H.member = (G.member || s.hasShare G) ∧ { H with member := G.member, splits := G.splits, wd := G.wd } = G) ∧
    (s.Issuing (.bleave sm) g k G sp → s.Issues (.bleave sm) g k G (sp.waitsIn .evwait .bleave sm) G.WritesNothing) ∧
    (s.Issuing (.bjoin false) g k G sp → G.Alone k sp →
      s.EndsAlone (.bjoin false) g k sp fun t H x => x.st = .ready ∧ H.member = (G.member || s.hasShare G) ∧
        (t.core G.core).l1 = [] ∧ s.NearGang t g G.core) ∧
    (s.Issuing (.bleave false) g k G sp → G.Alone k sp →
      s.EndsAlone (.bleave false) g k sp fun t H x => x.st = .ready ∧ H.member = false ∧ s.OnlyGang t g ∧
        { H with member := G.member, splits := G.splits, wd := G.wd } = G))
/-! ## Matrix instructions (15 R238 to R251) -/

/-- R238, R239: `tcfg` refuses a descriptor with a reserved bit, M outside 1 to 32, N outside 4 to 64 or no multiple of 4, K 0 or
no multiple of the k-step of TYPE; it waits as `xfence` does, and then M, N and K are the tile configuration. -/
def Obligations.TileConfiguration : Prop :=
  ∀ (s : State) (g k : Nat) (G : Gang) (sp : Split) (sm : Bool) (a : Reg) (t : EType), G.etype = some t → t.int = none →
    s.Issuing (.tcfg sm a) g k G sp → G.prot = false → a.isS = true → G.Free 0 [a] →
    let x := G.opnd64 a
    let m := (x.extractLsb' 0 8).toNat
    let n := (x.extractLsb' 8 8).toNat
    let kk := (x.extractLsb' 16 16).toNat
    let good : Prop := x.extractLsb' 32 32 = 0 ∧ 1 ≤ m ∧ m ≤ 32 ∧ 4 ≤ n ∧ n ≤ 64 ∧ n % 4 = 0 ∧ 1 ≤ kk ∧ kk % t.kStep = 0
    (good → s.Issues (.tcfg sm a) g k G (sp.waitsIn .segwait (.tcfg x) sm) G.WritesNothing) ∧
    (¬good → s.Traps (.tcfg sm a) g k (.illop 4) sp.pc) ∧
    (good → sm = false → G.Alone k sp →
      s.EndsAlone (.tcfg sm a) g k sp fun t' H x' => x'.st = .ready ∧ H.tile = some { m := m, n := n, k := kk } ∧
        { H with tile := G.tile, splits := G.splits, wd := G.wd } = G ∧ s.OnlyGang t' g)

/-- R240 to R248, R250: with a readable, well-formed format block and tiles that pass the tests of R246, `mma`, `mmc`,
`mzero` and `mfin` capture their operands, A in the active rows and B in every lane, and make the accumulator and lo tiles
Pending in the rows, with zr as the accumulator of `mzero` and `mfin` none; a quad instruction waits for its partners. A malformed block raises ILLOP, reason 4. What the model
takes for the side tables of a quad is said in logs 21 and 36. -/
def Obligations.MatrixIssues : Prop :=
  ∀ (s : State) (g k : Nat) (G : Gang) (sp : Split) (sm : Bool) (d a b : Reg) (vC vA : Nat) (t : Tile)
    (l : List Byte), ∀ q ∈ table15_5 sm d a b, s.Issuing q.1 g k G sp → G.prot = false →
    ((∃ n : Fin 192, d = .v n ∧ vC = n.val) ∨ (q.2.2.1 = false ∧ d = .zr ∧ vC = noBase)) →
    (if q.2.2.1 then b.isS = true ∧ ∃ n : Fin 192, a = .v n ∧ vA = n.val else (a.isS || a.isZ) = true ∧ vA = a.vNum.getD 0) →
    G.boundTest (if q.2.2.1 then [d, a] else [d]) = [] → G.accHazard (G.active sp.slices) d = [] →
    G.hazardTest (G.active sp.slices) (if q.2.2.1 then [a, b] else [a]) = [] →
    let va := G.opnd64 q.2.2.2
    s.clampTest G false [(va, 32)] = none → G.opHold sp.slices = false → G.storePending va 32 = false →
    s.Holds g G sp.slices va 32 l → G.tile = some t →
    (Fb.ofBytes l = none → s.Traps q.1 g k (.illop 4) sp.pc) ∧
    ∀ f, Fb.ofBytes l = some f →
      let rows := if d = .zr then 0 else maskOf fun i => G.activeLane sp.slices i && decide (i < t.m)
      let x : MatArgs :=
        { kind := q.2.1, vC := vC, vA := vA, tile := t, fb := f, fbVa := va, comp := G.comp, rows := rows }
      let quad : Bool := q.2.2.1 && f.quad
      let captured (sides : KV Byte) (m : Mat) : Prop :=
        m.kind = q.2.1 ∧ m.m = t.m ∧ m.n = t.n ∧ m.k = t.k ∧ m.comp = G.comp ∧ m.fb = l ∧ m.rows = rows ∧ m.vC = vC ∧
          m.sides = sides ∧ m.quad = quad ∧ m.done = false ∧ m.waited = (if quad then some 0 else none) ∧
          (q.2.2.1 = true →
            (∀ j i, j < f.lenA t.k → i < 32 → rows.getLsbD i = true →
              KV.get m.tileA (j * 32 + i) 0 = G.vreg (vA + j) i) ∧
            ∀ j i, j < f.lenB t.n t.k → i < 32 → KV.get m.tileB (j * 32 + i) 0 = G.vreg (f.vB + j) i)
      let issues (sides : KV Byte) (sp' : Split) : Prop :=
        ∃ (u : State) (H : Gang) (m : Mat), exec q.1 s = .next (u.wake g) ∧ u.gang g = some H ∧ s.OnlyGang u g ∧
          G.OnlySplit H k sp' ∧ captured sides m ∧
          KV.find H.ops G.nextOp = some
            { kind := .matrix, instr := q.1, pc := sp.pc, slices := sp.slices, mode := G.mode, dest := d, rel := none,
              acq := none, accs := [], held := false, mat := some m } ∧
          (∀ o, o ≠ G.nextOp → KV.find H.ops o = KV.find G.ops o) ∧
          (∀ j i, j < f.lenC t.n G.comp → i < 32 → rows.getLsbD i = true →
            KV.find H.pend ((vC + j) * 32 + i) = some G.nextOp) ∧
          { H with pend := G.pend, ops := G.ops, nextOp := G.nextOp, splits := G.splits, wd := G.wd } = G
      ∀ bytes : Dword → Nat → List Byte, x.tests s G = [] →
        (∀ r ∈ x.sideList G.idx, s.Holds g G sp.slices r.va r.len (bytes r.va r.len) ∧ G.storePending r.va r.len = false) →
        let sides := (x.sideList G.idx).foldr (fun r m => putBytes m r.key (bytes r.va r.len)) []
        (quad = false → issues sides (sp.goesOn (sp.pc + 4) sm)) ∧
        (quad = true → (s.quadGangs G).length = 4 →
          (∀ h ∈ s.quadGangs G, ∃ H, s.gang h = some H ∧ H.st = .resident) →
          (∃ h ∈ s.quadGangs G, h ≠ g ∧ ∃ H, s.gang h = some H ∧ H.quadOp = none) →
          issues sides (sp.waitsIn .evwait .quad sm))

/-! ## Search (19 R295 to R317) -/

/-- R311, R295, Table 19-3: a trailed store writes, in each active lane, a trail entry with the old value at the trail top and
then the low bytes of D at its offset of the program area; a misaligned lane is held by ALIGN and one past the program area
by WINDOW, and they write nothing. Every other byte of memory reads as before. -/
def Obligations.TrailedStore : Prop :=
  ∀ (s : State) (g k : Nat) (G : Gang) (sp : Split) (sm : Bool) (d a : Reg) (o : BitVec 5),
    ∀ q ∈ [((.sttb : Bool → Reg → Reg → BitVec 5 → Instr), 0), (.stth, 1), (.stt, 2)],
    s.Issuing (q.1 sm d a o) g k G sp → G.prot = false → d.vecSrc = true → a.vecSrc = true →
    G.Free (G.active sp.slices) [d, a] → s.MemRoom G sp [] →
    let L := lanesOf (G.active sp.slices)
    let n := 2 ^ q.2
    let at_ (i : Nat) : Nat := (G.base a i + o.signExtend 64 * BitVec.ofNat 64 n).toNat
    let good (i : Nat) : Bool := at_ i % n == 0 && decide (at_ i + n ≤ 16 * (G.privBytes / 32))
    let key (i off : Nat) : Nat := ((g * 32 + i) * 8 + 4) * 2 ^ 52 + off
    ((∃ i ∈ L, G.btOf i < G.ttOf i + 16) →
      s.Traps (q.1 sm d a o) g k (.searchovf (maskOf fun i => L.contains i && decide (G.btOf i < G.ttOf i + 16))) sp.pc) ∧
    ((∀ i ∈ L, G.ttOf i + 16 ≤ G.btOf i) →
      ∃ (u : State) (H : Gang), exec (q.1 sm d a o) s = .next (u.wake g) ∧ u.gang g = some H ∧
        s.GangAndMem u g ∧ G.OnlySplit H k (sp.goesOn (sp.pc + 4) sm) ∧
        { H with tt := G.tt, ops := G.ops, nextOp := G.nextOp, splits := G.splits, wd := G.wd } = G ∧
        (∀ i, H.ttOf i = if L.contains i && good i then G.ttOf i + 16 else G.ttOf i) ∧
        ((∀ i ∈ L, good i = true) → H.ops = G.ops) ∧
        (∀ i ∈ L, good i = false → ∃ op A, KV.find H.ops G.nextOp = some op ∧ op.kind = .store ∧
          KV.find op.accs (i * 2) = some A ∧ A.lane = i ∧ A.size = n ∧
          A.st = .fault (if at_ i % n ≠ 0 then causeAlign else causeWindow)) ∧
        (∀ y, (∀ i ∈ L, good i = true → (y < key i (G.ttOf i) ∨ key i (G.ttOf i) + 16 ≤ y) ∧
          (y < key i (at_ i) ∨ key i (at_ i) + n ≤ y)) → u.mem.byte y = s.mem.byte y) ∧
        ((∀ i ∈ L, G.btOf i ≤ 2 ^ 52 ∧ 16 * (G.privBytes / 32) ≤ G.ttOf i) → ∀ i ∈ L, good i = true →
          u.mem.read (key i (at_ i)) n = (G.opnd32 d i).toNat % 2 ^ (8 * n) ∧
          u.mem.read (key i (G.ttOf i)) 8 = 2 ^ 63 + at_ i ∧
          u.mem.read (key i (G.ttOf i + 8)) 4 = s.mem.read (key i (at_ i)) n ∧
          u.mem.read (key i (G.ttOf i + 12)) 4 = q.2))

/-- R310, R312, Table 19-2: `try` with 1 alternative sets the lane running with `alt` 0; with n of 2 or more it pushes a
brace of n - 1 remaining alternatives with the trail top, `bnd` and the registers of its mask; with 0 in a lane without a
brace the lane fails and is IDLE. A lane without room for a brace raises SEARCHOVF. R312, R313: `fail` makes an active lane
without a brace IDLE and clears its bit of m0; a lane whose top brace has alternatives left is PEND: its trail is undone to
the mark, the brace's registers and `bnd` come back, `alt` is the next alternative, the brace has one alternative fewer and
is popped with its last. -/
def Obligations.TryAndFail : Prop :=
  (∀ (s : State) (g k : Nat) (G : Gang) (sp : Split) (sm : Bool) (d : Reg) (e : BitVec 16),
    s.Issuing (.tryBrace sm d e) g k G sp → G.prot = false → d.vecSrc = true →
    G.Free (G.active sp.slices) (d :: braceRegs e ++ [.bnd, .alt]) →
    let L := lanesOf (G.active sp.slices)
    let n (i : Nat) : Nat := (G.opnd32 d i).toNat
    let key (i off : Nat) : Nat := ((g * 32 + i) * 8 + 4) * 2 ^ 52 + off
    (∀ i ∈ L, n i = 0 → G.btOf i = G.privBytes) →
    ((∃ i ∈ L, 2 ≤ n i ∧ G.btOf i < G.ttOf i + 96) →
      s.Traps (.tryBrace sm d e) g k
        (.searchovf (maskOf fun i => L.contains i && (decide (2 ≤ n i) && decide (G.btOf i < G.ttOf i + 96)))) sp.pc) ∧
    ((∀ i ∈ L, 2 ≤ n i → G.ttOf i + 96 ≤ G.btOf i) →
      ∃ (u : State) (H : Gang), exec (.tryBrace sm d e) s = .next (u.wake g) ∧ u.gang g = some H ∧
        s.GangAndMem u g ∧ G.OnlySplit H k (sp.goesOn (sp.pc + 4) sm) ∧
        { H with search := G.search, alt := G.alt, tt := G.tt, bt := G.bt, m := G.m, splits := G.splits, wd := G.wd } = G ∧
        (∀ i, H.searchOf i = if L.contains i then (if n i = 0 then .idle else .run) else G.searchOf i) ∧
        (∀ i, KV.get H.alt i 0 = if L.contains i && decide (1 ≤ n i) then 0 else KV.get G.alt i 0) ∧
        (∀ i, H.btOf i = if L.contains i && decide (2 ≤ n i) then G.btOf i - 96 else G.btOf i) ∧
        (∀ i, H.ttOf i = if L.contains i && n i == 0 then G.tb else G.ttOf i) ∧
        (∀ i, i < 32 → (H.mreg 0).getLsbD i = ((G.mreg 0).getLsbD i && !(L.contains i && n i == 0))) ∧
        (∀ j, j ≠ 0 → H.mreg j = G.mreg j) ∧
        (∀ y, (∀ i ∈ L, 2 ≤ n i → y < key i (G.btOf i - 96) ∨ key i (G.btOf i) ≤ y) → u.mem.byte y = s.mem.byte y) ∧
        ((∀ i ∈ L, G.btOf i ≤ 2 ^ 52) → ∀ i ∈ L, 2 ≤ n i →
          u.mem.read (key i (G.btOf i - 96)) 4 = n i - 1 ∧ u.mem.read (key i (G.btOf i - 92)) 4 = 1 ∧
          u.mem.read (key i (G.btOf i - 88)) 4 = G.ttOf i % 2 ^ 32 ∧
          u.mem.read (key i (G.btOf i - 84)) 4 = (G.bound i).toNat ∧
          u.mem.read (key i (G.btOf i - 80)) 2 = e.toNat ∧ u.mem.read (key i (G.btOf i - 78)) 14 = 0 ∧
          ∀ j, j < 16 → u.mem.read (key i (G.btOf i - 64 + 4 * j)) 4 =
            if e.getLsbD j then (G.vreg j i).toNat else 0))) ∧
  (∀ (s : State) (g k : Nat) (G : Gang) (sp : Split) (sm : Bool), s.Issuing (.fail sm) g k G sp → G.prot = false →
    G.ops = [] → G.pend = [] → s.binding G = none →
    let L := lanesOf (G.active sp.slices)
    let key (i off : Nat) : Nat := ((g * 32 + i) * 8 + 4) * 2 ^ 52 + off
    ((∀ i ∈ L, G.btOf i = G.privBytes) →
      s.Issues (.fail sm) g k G (sp.goesOn (sp.pc + 4) sm) fun H =>
        (∀ i, H.searchOf i = if L.contains i then .idle else G.searchOf i) ∧
        (∀ i, H.ttOf i = if L.contains i then G.tb else G.ttOf i) ∧
        (∀ i, i < 32 → (H.mreg 0).getLsbD i = ((G.mreg 0).getLsbD i && !L.contains i)) ∧
        (∀ j, j ≠ 0 → H.mreg j = G.mreg j) ∧
        { H with search := G.search, tt := G.tt, m := G.m, splits := G.splits, wd := G.wd } = G) ∧
    (∀ i x old code, L = [i] → G.btOf i + 96 ≤ G.privBytes → G.ttOf i ≤ G.btOf i → G.tb + 16 ≤ G.ttOf i →
      let bt := G.btOf i
      let b := s.brace g i bt
      let top := key i (G.ttOf i - 16)
      b.malformed G.tb bt = false → 0 < b.remaining → b.mark + 16 = G.ttOf i →
      s.mem.read top 8 = 2 ^ 63 + x → s.mem.read (top + 8) 4 = old → s.mem.read (top + 12) 4 = code → code < 3 →
      x + 2 ^ code ≤ G.tb → x % 2 ^ code = 0 →
      ∃ (u : State) (H : Gang), exec (.fail sm) s = .next (u.wake g) ∧ u.gang g = some H ∧
        s.GangAndMem u g ∧ G.OnlySplit H k (sp.goesOn (sp.pc + 4) sm) ∧
        { H with search := G.search, bnd := G.bnd, alt := G.alt, tt := G.tt, bt := G.bt, v := G.v, m := G.m,
                 splits := G.splits, wd := G.wd } = G ∧
        (∀ j, j ≠ i → H.searchOf j = G.searchOf j ∧ H.bound j = G.bound j ∧ KV.get H.alt j 0 = KV.get G.alt j 0 ∧
          H.ttOf j = G.ttOf j ∧ H.btOf j = G.btOf j) ∧
        (∀ j, j ≠ 0 → H.mreg j = G.mreg j) ∧ (∀ j, j < 32 → j ≠ i → (H.mreg 0).getLsbD j = (G.mreg 0).getLsbD j) ∧
        H.searchOf i = .pend ∧ H.bound i = b.bound ∧
        KV.get H.alt i 0 = BitVec.ofNat 32 b.next ∧ H.ttOf i = b.mark ∧
        H.btOf i = (if b.remaining = 1 then bt + 96 else bt) ∧ (H.mreg 0).getLsbD i = false ∧
        (∀ m j, j < 32 → H.vreg m j =
          if j = i ∧ m < 16 ∧ b.mask.getLsbD m = true ∧ m < G.regBound then b.reg.getD m 0 else G.vreg m j) ∧
        u.mem.read (key i x) (2 ^ code) = old % 2 ^ (8 * 2 ^ code) ∧
        u.mem.read (key i bt) 4 = b.remaining - 1 ∧ u.mem.read (key i (bt + 4)) 4 = (b.next + 1) % 2 ^ 32 ∧
        ∀ y, (y < key i x ∨ key i x + 2 ^ code ≤ y) → (y < key i bt ∨ key i bt + 8 ≤ y) →
          u.mem.byte y = s.mem.byte y))

/-- R313 to R315, R306, R307, R309: `resume` sets the PEND lanes of the split running, adds them to m0 and writes them to D; `cut` writes each
active lane's brace depth to D and drops the braces above the mark in A, with the trail once no brace is left; `bset` writes
`bnd`. Settling a split's cancellation does nothing where no lane is cancelled; a cancelled lane without a brace becomes IDLE with
an empty trail, leaves m0, has nothing Pending and no request but writes that have left the core, whose responses are discarded,
and the removal of its tag is sent; nothing of another lane changes. Which writes on their way have left is free (log 27). -/
def Obligations.ResumeCutBound : Prop :=
  ∀ (s : State) (g k : Nat) (G : Gang) (sp : Split) (sm : Bool) (d a : Reg),
    let w := maskOf fun i => (G.liveOf sp.slices).getLsbD i && G.searchOf i == .pend
    (s.Issuing (.resume sm d) g k G sp → G.prot = false → (d.isMDst || d.isZ) = true →
      s.Issues (.resume sm d) g k G (sp.goesOn (sp.pc + 4) sm) fun H =>
        (∀ i, H.searchOf i = if w.getLsbD i then .run else G.searchOf i) ∧
        (∀ n : Fin 8, H.mreg n.val =
          let x := if n.val = 0 then G.mreg 0 ||| w else G.mreg n.val
          if d = .m n then (x &&& ~~~G.sliceMask sp.slices) ||| (w &&& G.sliceMask sp.slices) else x) ∧
        { H with search := G.search, m := G.m, splits := G.splits, wd := G.wd } = G) ∧
    (s.Issuing (.cut sm d a) g k G sp → G.prot = false → (d.isVDst || d.isZ) = true → a.vecSrc = true →
      G.Free (G.active sp.slices) [d, a] →
      s.Issues (.cut sm d a) g k G (sp.goesOn (sp.pc + 4) sm) fun H =>
        let depth (i : Nat) : Nat := (G.privBytes - G.btOf i) / 96
        let m (i : Nat) : Nat := (G.opnd32 a i).toNat
        (∀ i, H.btOf i = if G.activeLane sp.slices i && decide (i < 32) && decide (m i < depth i)
          then G.privBytes - 96 * m i else G.btOf i) ∧
        (∀ i, H.ttOf i = if G.activeLane sp.slices i && decide (i < 32) && H.btOf i == G.privBytes
          then G.tb else G.ttOf i) ∧
        Gang.Writes G { H with bt := G.bt, tt := G.tt } sp.slices d (G.activeLane sp.slices)
          (fun i => BitVec.ofNat 32 (depth i)) 0 0) ∧
    (s.Issuing (.bset sm a) g k G sp → a.vecSrc = true → G.Free (G.active sp.slices) [a, .bnd] →
      s.Issues (.bset sm a) g k G (sp.goesOn (sp.pc + 4) sm) fun H =>
        (∀ i, i < 32 → H.bound i = if G.activeLane sp.slices i then G.opnd32 a i else G.bound i) ∧
        { H with bnd := G.bnd, splits := G.splits, wd := G.wd } = G) ∧
    (s.gang g = some G → KV.find G.splits k = some sp →
      (s.unsettled G sp.slices = 0 → s.settle g k = s) ∧
      ∀ i, i < 32 → s.cancels G sp.slices i = true → (∀ j, j < 32 → j ≠ i → s.cancels G sp.slices j = false) →
        G.btOf i = G.privBytes → (∀ p ∈ G.ops, p.2.mat = none) →
        ∃ H, (s.settle g k).gang g = some H ∧ (∀ h, h ≠ g → (s.settle g k).gang h = s.gang h) ∧
          { s.settle g k with gangs := s.gangs, cores := s.cores, removals := s.removals, fresh := s.fresh } = s ∧
          (∀ c, { (s.settle g k).core c with l1 := (s.core c).l1 } = s.core c) ∧
          (s.settle g k).removals = s.removals ++ [{ ctx := G.ctx, tag := G.laneTag i }] ∧
          { H with search := G.search, tt := G.tt, m := G.m, pend := G.pend, ops := G.ops } = G ∧
          (∀ j, H.searchOf j = if j = i then .idle else G.searchOf j) ∧
          (∀ j, H.ttOf j = if j = i then G.tb else G.ttOf j) ∧
          (∀ j, j < 32 → (H.mreg 0).getLsbD j = ((G.mreg 0).getLsbD j && j != i)) ∧
          (∀ n, n ≠ 0 → H.mreg n = G.mreg n) ∧
          (∀ n : Fin 192, H.isPending (.v n) i = false) ∧
          (∀ (r : Reg) j, j < 32 → r.isV = false ∨ j ≠ i →
            KV.find H.pend (pendKey r j) = KV.find G.pend (pendKey r j)) ∧
          (∀ o op, KV.find H.ops o = some op → op.kind ≠ .rwr → ∀ q ∈ op.accs, q.2.lane = i →
            q.2.orphan = true ∧ op.kind.writes = true) ∧
          (∀ o op, KV.find G.ops o = some op → ∀ q ∈ op.accs, q.2.lane ≠ i →
            ∃ op', KV.find H.ops o = some op' ∧ q ∈ op'.accs) ∧
          ∀ o op, KV.find G.ops o = some op → op.kind.writes = true → op.kind ≠ .rwr → ∀ q ∈ op.accs, q.2.lane = i →
            q.2.st = .performed → ∃ op', KV.find H.ops o = some op' ∧ (q.1, { q.2 with orphan := true }) ∈ op'.accs)

/-- R316, R317: `steal` with no work to take makes `stat` and its thieves' registers Pending until it delivers DONE or NOWORK
and changes nothing else; from one lane with a brace it takes the next alternative of the oldest brace for one thief, which is
PEND with an empty trail. `spawn` waits until every active lane's record has an answer; with zr its records are all zeros
(`noBase`; log 11). -/
def Obligations.StealSpawn : Prop :=
  ∀ (s : State) (g k : Nat) (G : Gang) (sp : Split) (sm : Bool) (d : Reg),
    let live := lanesOf (G.liveOf sp.slices)
    let T := live.filter fun i => G.searchOf i == .idle
    let idle := maskOf fun i => T.contains i
    let key (i off : Nat) : Nat := ((g * 32 + i) * 8 + 4) * 2 ^ 52 + off
    let steals (post : State → Gang → KV Acc → Prop) : Prop :=
      ∃ (u : State) (H : Gang) (accs : KV Acc), exec (.steal sm) s = .next (u.wake g) ∧ u.gang g = some H ∧
        s.GangAndMem u g ∧ G.OnlySplit H k (sp.goesOn (sp.pc + 4) sm) ∧
        KV.find H.pend (pendKey .stat 0) = some G.nextOp ∧
        (∀ r ∈ stealRegs, ∀ t ∈ T, KV.find H.pend (pendKey r t) = some G.nextOp) ∧
        KV.find H.ops G.nextOp = some
          { kind := .steal, instr := .steal sm, pc := sp.pc, slices := sp.slices, mode := G.mode, dest := .stat, rel := none,
            acq := none, accs := accs, held := false, mat := none } ∧
        { H with pend := G.pend, ops := G.ops, nextOp := G.nextOp, search := G.search, tt := G.tt, bt := G.bt,
                 splits := G.splits, wd := G.wd } = G ∧ post u H accs
    let stat (accs : KV Acc) (c : Nat) : Prop :=
      ∃ A, KV.find accs (stealKey 32 0) = some A ∧ A.ans = BitVec.ofNat 128 c ∧ A.st = .performed
    (s.Issuing (.steal sm) g k G sp → G.prot = false → G.hazardTest idle stealRegs = [] → G.Free 0 [.stat] →
      ((∀ i ∈ live, G.btOf i = G.privBytes) →
        steals fun u H accs => u.mem = s.mem ∧ (∀ i, H.searchOf i = G.searchOf i ∧ H.btOf i = G.btOf i ∧ H.ttOf i = G.ttOf i) ∧
          stat accs (if live.all fun i => G.searchOf i == .idle then 1 else 2)) ∧
      (∀ t w, T = [t] → w ∈ live → w ≠ t → (∀ i ∈ live, i ≠ w → G.btOf i = G.privBytes) →
        96 ≤ G.privBytes → G.btOf w + 96 = G.privBytes → G.ttOf w ≤ G.btOf w →
        let b := s.brace g w (G.btOf w)
        b.malformed G.tb (G.btOf w) = false → 0 < b.remaining → b.mark = G.ttOf w →
        steals fun u H accs => stat accs 0 ∧
          (∀ i, H.searchOf i = if i = t then .pend else G.searchOf i) ∧
          (∀ i, H.btOf i = if i = t then G.privBytes else G.btOf i) ∧
          (∀ i, H.ttOf i = if i = t then G.tb else G.ttOf i) ∧
          (∀ j, j < 16 → b.mask.getLsbD j = true → j < G.regBound →
            ∃ A, KV.find accs (stealKey t j) = some A ∧ A.code = 0 ∧ A.ans = (b.reg.getD j 0).setWidth 128) ∧
          (∃ A, KV.find accs (stealKey t 17) = some A ∧ A.ans = BitVec.ofNat 128 b.next) ∧
          u.mem.read (key w (G.btOf w)) 4 = b.remaining - 1 ∧
          u.mem.read (key w (G.btOf w + 4)) 4 = (b.next + 1) % 2 ^ 32 ∧
          ∀ y, (y < key w (G.btOf w) ∨ key w (G.btOf w) + 8 ≤ y) → u.mem.byte y = s.mem.byte y)) ∧
    (∀ base, ((∃ n : Fin 192, d = .v n ∧ n.val % 16 = 0 ∧ base = n.val) ∨ d = .zr ∧ base = noBase) →
      s.Issuing (.spawn sm d) g k G sp → G.prot = false → G.Free (G.active sp.slices) (d.span 16 ++ [.stat]) →
      s.Issues (.spawn sm d) g k G (sp.waitsIn .evwait (.spawn base (G.active sp.slices) 0 0) sm) G.WritesNothing ∧
      (sm = false → G.Alone k sp → G.active sp.slices = 0 →
        s.EndsAlone (.spawn sm d) g k sp fun t H x => x.st = .ready ∧ H.stat = 0 ∧ s.OnlyGang t g ∧
          { H with stat := G.stat, splits := G.splits, wd := G.wd } = G))

/-- R301, R304, R305, Table 19-4: `rmin` and `rmax` offer the best value of their active lanes, or the value of an S register,
to a ridge register that is enabled with their sense: the core's copy takes the better value and the offer leaves for the ridge
unit; otherwise they do nothing. `rrd` makes D Pending until it delivers the core's copy. -/
def Obligations.RidgeResult : Prop :=
  ∀ (s : State) (g k : Nat) (G : Gang) (sp : Split) (sm : Bool) (d a : Reg),
    (∀ q ∈ [((.rmin : Bool → Reg → Reg → Instr), false), (.rmax, true)], ∀ r : Fin 16, (G.opnd64 d).toNat % 16 = r.val →
      s.Issuing (q.1 sm d a) g k G sp → (d.isS || d.isZ) = true → a.vecSrc = true →
      G.Free (G.active sp.slices) [d, a] →
      let cfg := ((s.ctx G.ctx).ridge r.val).cfg
      let on : Bool := cfg.enable && cfg.isMax == q.2
      let L := lanesOf (G.active sp.slices)
      (on = false ∨ (a.isV = true ∧ L = []) →
        s.Issues (q.1 sm d a) g k G (sp.goesOn (sp.pc + 4) sm) G.WritesNothing) ∧
      (on = true → (a.isV = true → L ≠ []) →
        ∃ (u : State) (H : Gang) (v : Word), exec (q.1 sm d a) s = .next (u.wake g) ∧ u.gang g = some H ∧
          G.OnlySplit H k (sp.goesOn (sp.pc + 4) sm) ∧ G.WritesNothing H ∧
          { u with gangs := s.gangs, cores := s.cores, bents := s.bents, ridgeMsgs := s.ridgeMsgs } = s ∧
          (a.isV = false → v = (G.opnd64 a).setWidth 32) ∧
          (a.isV = true → (∃ i ∈ L, v = G.opnd32 a i) ∧
            ∀ i ∈ L, if q.2 then (G.opnd32 a i).toInt ≤ v.toInt else v.toInt ≤ (G.opnd32 a i).toInt) ∧
          u.ridgeMsgs = s.ridgeMsgs ++ [{ ctx := G.ctx, k := r, val := v, dest := .offer }] ∧
          u.ridgeCopy G.core G.ctx r.val =
            (let c := s.ridgeCopy G.core G.ctx r.val
             if q.2 then (if c.toInt < v.toInt then v else c) else (if v.toInt < c.toInt then v else c)))) ∧
    (s.Issuing (.rrd sm d a) g k G sp → (d.isVDst || d.isSDst || d.isZ) = true → (a.isS || a.isZ) = true →
      G.Free (G.active sp.slices) [d, a] →
      let L := G.runs sp.slices d.isV
      s.Issues (.rrd sm d a) g k G (sp.goesOn (sp.pc + 4) sm) fun H =>
        (L = [] → G.WritesNothing H) ∧
        (L ≠ [] → ∃ accs : KV Acc, accs.map Prod.fst = L ∧
          G.Starts H [d] L
            { kind := .rrd ((G.opnd64 a).toNat % 16), instr := .rrd sm d a, pc := sp.pc, slices := sp.slices, mode := G.mode,
              dest := d, rel := none, acq := none, accs := accs, held := false, mat := none }))

/-! ## Engines (17 R252 to R262) -/

/-- R252 to R254, R201, Table 11-5: `cpy` writes the next handle to D; a refused copy is held by its fault and moves nothing,
one of length 0 is complete at once when its release has nothing to wait for, every other is outstanding, with its two
clamp entries where it has bytes. A lane of `live` that is not
active raises PARTIAL. `cwait` waits for the copies its handle names. That a copy of length 0 is complete once its release
is, is the model's choice (log 35). -/
def Obligations.CopyResult : Prop :=
  ∀ (s : State) (g k : Nat) (G : Gang) (sp : Split) (sm : Bool) (d a b : Reg),
    (s.Issuing (.cpy sm d a b) g k G sp → (d.isSDst || d.isZ) = true → (∃ n, a.sNum = some n ∧ n % 2 = 0) →
      (b.isS || b.isZ) = true → G.Free 0 [d, a, a.plus 1, b] →
      let off := G.live &&& ~~~G.active sp.slices
      let dst := G.opnd64 a
      let src := G.opnd64 (a.plus 1)
      let len := G.opnd64 b
      let i := Instr.cpy sm d a b
      let h := G.seq
      (off ≠ 0 → s.Traps i g k (.partialLanes off) sp.pc) ∧
      (off = 0 → G.copies.length < 16 → (len = 0 ∨ s.copyRefused g G dst src len ≠ none ∨ 2 ≤ s.clampRoom G.core) →
        ∃ (u : State) (H : Gang), exec i s = .next (u.wake g) ∧ u.gang g = some H ∧
          G.OnlySplit H k (sp.goesOn (sp.pc + 4) sm) ∧
          H.seq = (if h = 0xFFFFFFFF#32 then 1 else h + 1) ∧
          { u with gangs := s.gangs, cores := s.cores, bents := s.bents } = s ∧ (∀ j, j ≠ g → u.gang j = s.gang j) ∧
          Gang.Writes G { H with seq := G.seq, ops := G.ops, nextOp := G.nextOp, copies := G.copies } sp.slices d
            (fun _ => false) (fun _ => 0) (h.setWidth 64) 0 ∧
          (∀ c, s.copyRefused g G dst src len = some c → H.copies = G.copies ∧ (u.core G.core).clamps = (s.core G.core).clamps ∧
            ∃ op, KV.find H.ops G.nextOp = some op ∧ op.kind = .engine (h.setWidth 64) ∧ op.slices = sp.slices ∧
              op.pc = sp.pc ∧ op.accs.map (fun p => (p.2.st, p.2.va)) = [(AccSt.fault c, dst)]) ∧
          (s.copyRefused g G dst src len = none → len = 0 → G.released sp.slices .chip G.nextOp = true →
            H.copies = G.copies ∧ H.ops = G.ops ∧ (u.core G.core).clamps = (s.core G.core).clamps) ∧
          (s.copyRefused g G dst src len = none → (len ≠ 0 ∨ G.released sp.slices .chip G.nextOp = false) → H.ops = G.ops ∧
            KV.find H.copies h.toNat = some
              { dst := dst, src := src, len := len.toNat, pc := sp.pc, word := (encode i).getD 0, slices := sp.slices,
                before := G.nextOp, moved := [], stopped := [], declined := [] } ∧
            (u.core G.core).clamps = (s.core G.core).clamps ++ if len = 0 then [] else
              [{ ctx := G.ctx, gang := g, own := h.toNat, isDst := true, lo := dst.toNat, len := len.toNat },
               { ctx := G.ctx, gang := g, own := h.toNat, isDst := false, lo := src.toNat, len := len.toNat }]))) ∧
    (s.Issuing (.cwait sm a) g k G sp → (a.isS || a.isZ) = true → G.Free 0 [a] →
      s.Issues (.cwait sm a) g k G (sp.waitsIn .evwait (.cwait (G.copiesNamed (G.opnd64 a).toNat)) sm) G.WritesNothing ∧
      (sm = false → G.Alone k sp → G.copies = [] →
        s.EndsAlone (.cwait sm a) g k sp fun t H x => x.st = .ready ∧ G.WritesNothing H ∧ s.NearGang t g G.core ∧
          (t.core G.core).l1 = []))

/-- R257, R258, R261, 23 R354, R355: `qbind` waits until its queue register is drained and then binds it; a push waits for
its release and for room, and a word of an unfinished network request is framed; a pop makes D and `stat` Pending, and
delivers 0 at once where no request is left; `nwait` waits for its counter. How a push counts unfinished requests is the
model's reading (log 23). -/
def Obligations.QueueResult : Prop :=
  ∀ (s : State) (g k : Nat) (G : Gang) (sp : Split) (sm : Bool) (q : Fin 8) (d a : Reg),
    let Q := G.queue q.val
    (s.Issuing (.qbind sm (.q q) a) g k G sp → ((∃ n, a.sNum = some n ∧ n % 2 = 0) ∨ a = .zr) →
      G.Free 0 [a, Reg.second a] →
      let w := G.opnd64 a
      let base := G.opnd64 (Reg.second a)
      (s.bindBad g G w base = true → s.Traps (.qbind sm (.q q) a) g k (.illop 4) sp.pc) ∧
      (s.bindBad g G w base = false →
        s.Issues (.qbind sm (.q q) a) g k G (sp.waitsIn .evwait (.qbind q w base) sm) G.WritesNothing ∧
        (sm = false → G.Alone k sp → (∀ r ∈ Q.reqs, r.st = .done ∧ r.pops = false ∧ (Q.engine = 2 → r.fault = none)) →
          s.EndsAlone (.qbind sm (.q q) a) g k sp fun t H x => x.st = .ready ∧ s.OnlyGang t g ∧
            H.queue q.val = { engine := (w.extractLsb' 0 2).toNat, base := base, frame := [], reqs := [] } ∧
            (∀ j, j ≠ q.val → H.queue j = G.queue j) ∧
            { H with queues := G.queues, splits := G.splits, wd := G.wd } = G))) ∧
    (s.Issuing (.queuePush sm (.q q) a) g k G sp → (a.isS || a.isZ) = true → Q.engine ≠ 0 → G.Free 0 [a] →
      let w := G.opnd64 a
      s.Issues (.queuePush sm (.q q) a) g k G (sp.waitsIn .evwait (.push q w (.queuePush sm (.q q) a)) sm) G.WritesNothing ∧
      (sm = false → G.Alone k sp → Q.engine = 2 → Q.queued < 16 → (∀ r ∈ Q.reqs, r.st ≠ .reading) →
        (Q.frame ++ [w]).length < 1 + netFollow ((Q.frame ++ [w]).getD 0 0) →
        s.EndsAlone (.queuePush sm (.q q) a) g k sp fun t H x => x.st = .ready ∧ s.OnlyGang t g ∧
          H.queue q.val = { Q with frame := Q.frame ++ [w] } ∧ (∀ j, j ≠ q.val → H.queue j = G.queue j) ∧
          { H with queues := G.queues, splits := G.splits, wd := G.wd } = G)) ∧
    (s.Issuing (.queuePop sm d (.q q)) g k G sp → (d.isSDst || d.isZ) = true → Q.engine ≠ 0 → G.Free 0 [d, .stat] →
      s.Issues (.queuePop sm d (.q q)) g k G (sp.goesOn (sp.pc + 4) sm) fun H => ∃ A : Acc,
        G.Starts H [d, .stat] [0]
          { kind := .pop q.val, instr := .queuePop sm d (.q q), pc := sp.pc, slices := sp.slices, mode := G.mode, dest := d,
            rel := none, acq := none, accs := [(64, A)], held := false, mat := none } ∧
        (Q.reqs = [] → A.st = .performed ∧ A.ans = 0 ∧ A.code = 0) ∧
        (∀ r rest, Q.reqs = r :: rest → r.pops = true → G.ops = [] →
          A.st = .waiting ∧ A.data = BitVec.ofNat 128 (r.id + 1))) ∧
    (s.Issuing (.nwait sm d a) g k G sp → (d.isS || d.isZ) = true → (a.isS || a.isZ) = true → G.Free 0 [d, a] →
      s.MemRoom G sp [G.opnd64 d] →
      s.Issues (.nwait sm d a) g k G (sp.waitsIn .evwait (.nwait G.nextOp) sm) fun H => ∃ A : Acc,
        KV.find H.ops G.nextOp = some
          { kind := .nwait, instr := .nwait sm d a, pc := sp.pc, slices := sp.slices, mode := G.mode, dest := .zr, rel := none,
            acq := none, accs := [(64, A)], held := false, mat := none } ∧
        A.va = G.opnd64 d ∧ A.data = (G.opnd64 a).setWidth 128 ∧
        ((G.opnd64 d).toNat % 8 ≠ 0 → A.st = .fault causeAlign) ∧
        (∀ o, o ≠ G.nextOp → KV.find H.ops o = KV.find G.ops o) ∧
        { H with ops := G.ops, nextOp := G.nextOp, splits := G.splits, wd := G.wd } = G)

/-! ## Homes, results and acknowledgements (11 R184 to R186, 13 R213, R214, 01 R32) -/

/-- R184, R186, R213, R182, Table 13-1, 17 R290, R291: at its home a load answers with the bytes there, and the copy its core
keeps of them is memory's; a store replaces exactly its bytes, and no copy of its core changes but by invalidation; an atomic leaves what Table 13-1 says and answers with the old
value, or does nothing on a marked block. Bytes with a mark answer with code 256. What the core's copy keeps of overlapping
stores is the model's choice (log 35). -/
def Obligations.HomeAccess : Prop :=
  ∀ (s : State) (g o k : Nat) (G : Gang) (op : Op) (a : Acc) (key : Nat),
    s.Arrives g o k G op a key → (∀ d ∈ s.deferred, d.ext = none) →
    let old := s.mem.read key a.size
    let code := if s.mem.poisoned key a.size then 256 else 0
    (op.kind = .load → G.ownBefore o a = false →
      ∃ u : State, exec (.homeLoad g o k) s = .next (u.wake g) ∧
        u.gang g = some (G.setAcc o k (a.answered (BitVec.ofNat 128 old) code)) ∧ (∀ h, h ≠ g → u.gang h = s.gang h) ∧
        { u with gangs := s.gangs, cores := s.cores, fresh := s.fresh } = s ∧
        (∀ c, { u.core c with l1 := (s.core c).l1 } = s.core c) ∧ (∀ c, c ≠ G.core → (u.core c).l1 = (s.core c).l1) ∧
        ∀ pa, a.place = some (.hbm pa) →
          (u.sector G.core pa = none ∨
            u.sector G.core pa = some (BitVec.ofNat 256 (s.mem.read (pa / 32 * 32) 32))) ∧
          ((s.core G.core).l1.length < 2048 → ∀ x, x ≠ pa / 32 → (x < pa / 32 ∨ pa + a.size ≤ 32 * x) →
            KV.find (u.core G.core).l1 x = KV.find (s.core G.core).l1 x)) ∧
    (op.kind = .store →
      ∃ (u : State) (c : List (Nat × Nat)), exec (.homeStore g o k) s = .next (u.wake g) ∧
        s.AtHome { u with cores := s.cores } g
          (({ G with ops := KV.mod G.ops o fun x => { x with cover := c } } : Gang).setAcc o k (a.answered 0 0)) ∧
        (∀ b, { u.core b with l1 := (s.core b).l1 } = s.core b) ∧ (∀ b, b ≠ G.core → (u.core b).l1 = (s.core b).l1) ∧
        (∀ x, KV.find (u.core G.core).l1 x = KV.find (s.core G.core).l1 x ∨ KV.find (u.core G.core).l1 x = none) ∧
        (s.mem.poisoned key a.size = false → c = op.cover) ∧ u.rings = s.rings ∧ u.mem.read key a.size = a.data.toNat % 2 ^ (8 * a.size) ∧ s.Stores u key a.size ∧
        u.mem.full = s.mem.full) ∧
    (∀ x sg ret, op.kind = .atomic x sg ret → (a.size = 4 ∨ a.size = 8) →
      ∃ u : State, exec (.homeAtomic g o k) s = .next (u.wake g) ∧
        s.AtHome u g (G.setAcc o k (a.answered (BitVec.ofNat 128 old) code)) ∧ u.rings = s.rings ∧
        (s.mem.poisoned key a.size = true → u.mem = s.mem) ∧
        (s.mem.poisoned key a.size = false →
          BitVec.ofNat (8 * a.size) (u.mem.read key a.size) =
            table13_1r (8 * a.size) (!sg) (BitVec.ofNat _ old) (BitVec.ofNat _ a.data.toNat) (BitVec.ofNat _ a.cmp.toNat) x) ∧
        s.Stores u key a.size ∧ u.mem.full = s.mem.full)

/-- R32, R185, R192, R212, R220, R221, R227, R233: an answer reaches the registers of its instruction, which are no longer
Pending, and the access is gone; the answer to an acquire empties the L1 at bent, chip and system scope; that of `rwait` and
`rawait` leaves the split to wait for its earlier results before it acquires, or, where it stands at a report point, to acquire
there. An answer of a
cancelled lane is discarded, an acknowledgement only ends its access. -/
def Obligations.ResultDelivery : Prop :=
  ∀ (s : State) (g o k : Nat) (G : Gang) (op : Op) (a : Acc),
    s.gang g = some G → KV.find G.ops o = some op → KV.find op.accs k = some a → a.st = .performed →
    let delivers (post : State → Gang → Prop) : Prop :=
      ∃ (u : State) (H : Gang), exec (.resultDelivery g o k) s = .next (u.wake g) ∧ u.gang g = some H ∧
        s.NearGang u g G.core ∧ G.Loses H o k ∧
        { H with ops := G.ops, pend := G.pend, v := G.v, s := G.s, stat := G.stat } = G ∧ post u H
    let waits (post : Gang → Prop) : Prop :=
      ∃ (u : State) (H : Gang), exec (.resultDelivery g o k) s = .next (u.wake g) ∧ u.gang g = some H ∧
        { u with gangs := s.gangs } = s ∧ (∀ h, h ≠ g → u.gang h = s.gang h) ∧ G.Loses H o k ∧
        { H with ops := G.ops, pend := G.pend, v := G.v, s := G.s, stat := G.stat, splits := G.splits } = G ∧
        (∀ c, op.acq = some c → ∀ j x, KV.find G.splits j = some x →
          KV.find H.splits j = some (if op.ofSplit x.slices = false then x
            else if x.wait = .op o then { x with wait := .acqQuiet c } else { x with acqAfter := some c })) ∧ post H
    let plain (H : Gang) : Prop := H.s = G.s ∧ H.v = G.v
    let owned (r : Reg) (l : Nat) : Prop := KV.find G.pend (pendKey r l) = some o
    let acquired (u : State) : Prop :=
      (op.acq = some .bent ∨ op.acq = some .chip ∨ op.acq = some .sys) → (u.core G.core).l1 = []
    (op.kind.varLat = true → a.orphan = true → delivers fun u H => u.cores = s.cores ∧ plain H ∧ H.stat = G.stat ∧ H.pend = G.pend) ∧
    (op.kind.writes = true → op.kind.varLat = false → (a.code < 256 ∨ a.orphan = true) →
      ∃ (u : State) (H : Gang), exec (.storeAcknowledge g o k) s = .next (u.wake g) ∧ u.gang g = some H ∧
        { u with gangs := s.gangs } = s ∧ (∀ h, h ≠ g → u.gang h = s.gang h) ∧ G.Loses H o k ∧ { H with ops := G.ops } = G) ∧
    (a.orphan = false → a.code < 256 →
      (∀ n, op.kind = .load → op.dest = .v n → a.lane < 32 → a.size ≤ 4 → k % 2 = 0 →
        (∀ sm d x y, op.instr ≠ .ldq sm d x y) → (∀ sm d x y, op.instr ≠ .ldqImm sm d x y) →
        delivers fun _ H => H.stat = G.stat ∧ H.s = G.s ∧
          (∀ m i, i < 32 → H.vreg m i = if m = n.val ∧ i = a.lane then a.ans.setWidth 32 else G.vreg m i) ∧
          (owned (.v n) a.lane → H.isPending (.v n) a.lane = false)) ∧
      (∀ n, op.kind = .load → op.dest = .s n → a.lane = 32 → k % 2 = 0 →
        delivers fun _ H => H.stat = G.stat ∧ H.v = G.v ∧ H.sreg n.val = a.ans.setWidth 64 ∧
          (∀ m, m ≠ n.val → H.sreg m = G.sreg m) ∧ (owned (.s n) 0 → H.isPending (.s n) 0 = false)) ∧
      (∀ x sg n, op.kind = .atomic x sg true → op.dest = .v n → a.lane < 32 →
        delivers fun u H => acquired u ∧ H.stat = G.stat ∧ H.s = G.s ∧
          (∀ m i, i < 32 → H.vreg m i = if m = n.val ∧ i = a.lane then a.ans.setWidth 32 else G.vreg m i) ∧
          (owned (.v n) a.lane → H.isPending (.v n) a.lane = false)) ∧
      ((op.kind = .fwr ∨ op.kind = .rretire) →
        delivers fun u H => u.cores = s.cores ∧ plain H ∧ H.stat = BitVec.ofNat 64 a.code ∧
          (owned .stat 0 → H.isPending .stat 0 = false)) ∧
      (op.kind = .rwait → waits fun H => plain H ∧ H.stat = 0) ∧
      (∀ n, op.kind = .rawait → a.code = 0 → op.dest = .s n → owned (.s n) 0 → owned .stat 0 →
        waits fun H => H.v = G.v ∧ H.stat = 0 ∧ H.sreg n.val = a.ans.setWidth 64 ∧
          (∀ m, m ≠ n.val → H.sreg m = G.sreg m) ∧ H.isPending (.s n) 0 = false ∧ H.isPending .stat 0 = false) ∧
      (∀ n, ((∃ c, op.kind = .frd c) ∨ (op.kind = .rawait ∧ a.code ≠ 0)) → op.dest = .s n → owned (.s n) 0 → owned .stat 0 →
        delivers fun u H => H.v = G.v ∧ H.stat = BitVec.ofNat 64 a.code ∧ (a.code = 0 → acquired u) ∧
          H.sreg n.val = (if a.code = 0 then a.ans.setWidth 64 else G.sreg n.val) ∧
          (∀ m, m ≠ n.val → H.sreg m = G.sreg m) ∧ H.isPending (.s n) 0 = false ∧ H.isPending .stat 0 = false))

/-! ## Futures, rings and counters at their homes (11 R203, R204, 13 R220 to R233) -/

/-- R204, R220, R221: a write fills an EMPTY cell and answers OK, or answers code 4 on a FULL one and changes nothing; a read
of a FULL cell answers with it, and leaves it EMPTY when it consumes; of an EMPTY one it waits at the home, or, with no entry
of the slice's deferral buffer free, answers code 3. -/
def Obligations.FutureAtHome : Prop :=
  ∀ (s : State) (g o k : Nat) (G : Gang) (op : Op) (a : Acc) (key : Nat),
    s.Arrives g o k G op a key → (∀ d ∈ s.deferred, d.ext = none) →
    (op.kind = .fwr → (∀ d ∈ s.deferred, d.key ≠ key) →
      ∃ u : State, exec (.homeFutureWrite g o k) s = .next (u.wake g) ∧ u.rings = s.rings ∧
        (s.mem.isFull key = true → s.AtHome u g (G.setAcc o k (a.answered 0 4)) ∧ u.mem = s.mem) ∧
        (s.mem.isFull key = false → s.AtHome u g (G.setAcc o k (a.answered 0 0)) ∧
          u.mem.read key 8 = a.data.toNat % 2 ^ 64 ∧ s.Stores u key 8 ∧
          ∀ y, u.mem.isFull y = (s.mem.isFull y || y / 8 == key / 8))) ∧
    (∀ c, op.kind = .frd c → G.st ≠ .killed → risingNat s.mem.full = true →
      (s.mem.isFull key = true →
        ∃ u : State, exec (.homeFutureRead g o k) s = .next (u.wake g) ∧ u.rings = s.rings ∧
          s.AtHome u g (G.setAcc o k (a.answered (BitVec.ofNat 128 (s.mem.read key 8))
            (if s.mem.poisoned key 8 then 256 else 0))) ∧ u.mem.bytes = s.mem.bytes ∧
          ∀ y, u.mem.isFull y = (s.mem.isFull y && !(c && y / 8 == key / 8))) ∧
      (s.mem.isFull key = false →
        ∃ u : State, exec (.homeFutureRead g o k) s = .next (u.wake g) ∧ u.mem = s.mem ∧ u.rings = s.rings ∧
          (s.bufferRoom key = true → u.gang g = some (G.setAcc o k { a with st := .waiting }) ∧
            { u with gangs := s.gangs, deferred := s.deferred } = s ∧
            u.deferred = s.deferred ++
              [{ g := g, o := o, k := k, key := key, slice := s.sliceOf key, kind := op.kind, n := a.data.toNat % 2 ^ 64,
                 ext := none }]) ∧
          (s.bufferRoom key = false → s.AtHome u g (G.setAcc o k (a.answered 0 3)))))

/-- R223, R225 to R227, R229, Table 13-8: on a ring that is not broken, a claim (an await) of 1 to Z granules, with none waiting
before it, takes the ticket PC (CC) once PC + n is at most CR + Z (CC + n at most PM) and waits otherwise; a commit (a retire) of
the oldest one moves PM (CR) past it, and past none that is not marked. On a broken ring a claim answers all ones, a commit
nothing, an await and a retire code 5, and nothing changes. A request refused for a full buffer is sent again. R232, R233, 17 R261: an `rwr`
stores its data, then adds 1 to its counter; an `rwait` takes its threshold from a counter that has reached it, and waits
for one that has not; an `nwait` ends once its counter has reached its value. Poison on a counter, and what a claim leaves
in `stat`, are the model's readings (log 29). -/
def Obligations.RingAndCounterAtHome : Prop :=
  (∀ (s : State) (g o k : Nat) (G : Gang) (op : Op) (a : Acc) (key : Nat),
    (s.gang g = some G → KV.find G.ops o = some op → KV.find op.accs k = some a → a.st = .refused → s.saving g = false →
      exec (.ringRequestResend g o k) s = .next (s.setGang g (G.setAcc o k { a with st := .ready }))) ∧
    (s.Arrives g o k G op a key → G.st ≠ .killed → (∀ d ∈ s.deferred, d.ext = none ∧ d.key ≠ key) → s.mem.poisoned key 64 = false →
      s.ringBad key = false →
      let R := s.ringHome key
      let n := a.data.toNat % 2 ^ 64
      let word (off : Nat) : Nat := s.mem.read (key + off) 8
      let z := s.mem.read (key + 8) 4
      let claims (kind : OpKind) (off : Nat) (fits : Prop) (l : List RingClaim) (put : List RingClaim → RingHome) : Prop :=
        op.kind = kind → n ≠ 0 → n ≤ z →
        ∃ u : State, exec (.homeRingClaim g o k) s = .next (u.wake g) ∧
          (fits → l.length < 32 →
            s.AtHome u g (G.setAcc o k (a.answered (BitVec.ofNat 128 (word off)) 0)) ∧
            u.ringHome key = put (l ++ [{ t := word off, n := n, mark := false, gang := g, sender := none }]) ∧
            (∀ x, x ≠ key → u.ringHome x = s.ringHome x) ∧
            u.mem.read (key + off) 8 = (word off + n) % 2 ^ 64 ∧ s.Stores u (key + off) 8 ∧ u.mem.full = s.mem.full) ∧
          ((¬fits ∨ 32 ≤ l.length) → s.bufferRoom key = true →
            u.gang g = some (G.setAcc o k { a with st := .waiting }) ∧
            { u with gangs := s.gangs, deferred := s.deferred } = s ∧
            u.deferred = s.deferred ++
              [{ g := g, o := o, k := k, key := key, slice := s.sliceOf key, kind := kind, n := n, ext := none }]) ∧
          ((¬fits ∨ 32 ≤ l.length) → s.bufferRoom key = false →
            s.AtHome u g (G.setAcc o k { a with st := .refused }) ∧ u.mem = s.mem ∧ u.rings = s.rings)
      let commits (kind : OpKind) (off : Nat) (l : List RingClaim) (put : List RingClaim → RingHome) : Prop :=
        ∀ c rest, op.kind = kind → l = c :: rest → c.t = n → c.mark = false →
        (∀ x ∈ rest, x.t ≠ n) → (∀ x, rest.head? = some x → x.mark = false) →
        ∃ u : State, exec (.homeRingCommit g o k) s = .next (u.wake g) ∧ s.AtHome u g (G.setAcc o k (a.answered 0 0)) ∧
          u.ringHome key = put rest ∧ (∀ x, x ≠ key → u.ringHome x = s.ringHome x) ∧
          u.mem.read (key + off) 8 = (c.t + c.n) % 2 ^ 64 ∧ s.Stores u (key + off) 8 ∧ u.mem.full = s.mem.full
      let gone (i : Instr) (kind : OpKind) (ans : BitVec 128) (code : Nat) : Prop :=
        op.kind = kind → ∃ u : State, exec i s = .next (u.wake g) ∧ s.AtHome u g (G.setAcc o k (a.answered ans code)) ∧
          u.mem = s.mem ∧ u.rings = s.rings
      (s.ringBroken key = false →
        claims .rclaim 0x10 (word 0x10 + n ≤ word 0x28 + z) R.prod (fun l => { R with prod := l }) ∧
        claims .rawait 0x20 (word 0x20 + n ≤ word 0x18) R.cons (fun l => { R with cons := l }) ∧
        commits .rcommit 0x18 R.prod (fun l => { R with prod := l }) ∧
        commits .rretire 0x28 R.cons (fun l => { R with cons := l })) ∧
      (s.ringBroken key = true →
        gone (.homeRingClaim g o k) .rclaim 0xFFFFFFFFFFFFFFFF#128 0 ∧ gone (.homeRingClaim g o k) .rawait 0 5 ∧
        gone (.homeRingCommit g o k) .rcommit 0 0 ∧ gone (.homeRingCommit g o k) .rretire 0 5))) ∧
  (∀ (s : State) (g o k : Nat) (G : Gang) (op : Op) (a c : Acc) (key ctr : Nat), (∀ d ∈ s.deferred, d.ext = none) →
    (s.gang g = some G → G.ops = [(o, op)] → op.kind = .rwr → op.accs = [(k, a), (counterKey, c)] → k ≠ counterKey →
      a.st = .ready → c.st = .ready → a.place.bind Place.key = some key → c.place.bind Place.key = some ctr →
      (key + a.size ≤ ctr ∨ ctr + 8 ≤ key) → s.mem.poisoned ctr 8 = false →
      ∃ u : State, exec (.homeRemoteWrite g o) s = .next (u.wake g) ∧
        s.AtHome u g ((G.setAcc o k (a.answered 0 0)).setAcc o counterKey (c.answered 0 0)) ∧ u.rings = s.rings ∧
        u.mem.read key a.size = a.data.toNat % 2 ^ (8 * a.size) ∧ u.mem.read ctr 8 = (s.mem.read ctr 8 + 1) % 2 ^ 64 ∧
        (∀ y, (y < key ∨ key + a.size ≤ y) → (y < ctr ∨ ctr + 8 ≤ y) → u.mem.byte y = s.mem.byte y) ∧
        u.mem.full = s.mem.full) ∧
    (s.Arrives g o k G op a key → op.kind = .rwait → G.st ≠ .saved → G.st ≠ .killed → s.mem.poisoned key 8 = false →
      let v := s.mem.read key 8
      let n := a.data.toNat % 2 ^ 16
      (n ≤ v → ∃ u : State, exec (.homeCounterWait g o k) s = .next (u.wake g) ∧
        s.AtHome u g (G.setAcc o k (a.answered 0 0)) ∧ u.rings = s.rings ∧ u.mem.read key 8 = v - n ∧ s.Stores u key 8 ∧
        u.mem.full = s.mem.full) ∧
      (v < n → s.bufferRoom key = true → exec (.homeCounterWait g o k) s = .next
        { s.setGang g (G.setAcc o k { a with st := .waiting }) with
          deferred := s.deferred ++
            [{ g := g, o := o, k := k, key := key, slice := s.sliceOf key, kind := .rwait, n := a.data.toNat % 2 ^ 64,
               ext := none }] })) ∧
    (s.Arrives g o k G op a key → op.kind = .nwait → G.st ≠ .saved → G.queues = [] → (∀ p ∈ G.ops, p.2.held = false) →
      a.data.toNat % 2 ^ 64 ≤ s.mem.read key 8 →
      exec (.homeCounterWait g o k) s = .next ((s.setGang g (G.dropAcc o k)).wake g)))
/-! ## Translation, held faults, timed events (17 R265, R273 to R289, 01 R38, R48, R50, 11 R197) -/

/-- R287 to R289, R272: a completed walk gives its page's entry to the TLBs and its translation, or its fault, to the access
that waits for it, and a fault to the later accesses of the split on the page that have not been performed; an invalidate leaves a
context no entry and others theirs, and R203: memory that no context's table mapped and one maps now holds EMPTY cells. When a
walk completes is the agenda's (log 1). -/
def Obligations.TranslationEvents : Prop :=
  ∀ (s : State) (c core vpn : Nat),
    (∀ l, s.walk c (pageAddr vpn) = .leaf l → s.tlbHit core c vpn = none → (s.core core).tlb.length < 64 →
      (s.bent (bentOf core)).tlb.length < 2048 →
      (s.waitersOf core c vpn = [] →
        ∃ u : State, exec (.tableWalkComplete c core vpn) s = .next u ∧ u.tlbHit core c vpn = some l ∧
          { u with cores := s.cores, bents := s.bents, fresh := s.fresh } = s ∧
          (∀ x, { u.core x with tlb := (s.core x).tlb } = s.core x) ∧ (∀ x, { u.bent x with tlb := (s.bent x).tlb } = s.bent x) ∧
          ∀ x key, key ≠ tlbKey c vpn → KV.find (u.core x).tlb key = KV.find (s.core x).tlb key ∧
            KV.find (u.bent x).tlb key = KV.find (s.bent x).tlb key) ∧
      ∀ g o k G op a, s.waitersOf core c vpn = [(g, o, k)] → s.gang g = some G → G.acc o k = some (op, a) → op.kind = .load →
        G.pageFault op.slices o a.va = none →
        ∃ (u : State) (A : Acc), exec (.tableWalkComplete c core vpn) s = .next (u.wake g) ∧ u.tlbHit core c vpn = some l ∧
          (l.r = false → A = { a with st := .fault causePerm, page := l.bits } ∧
            u.gang g = some ((G.setAcc o k A).spreadFault op.slices o A)) ∧
          (l.r = true → u.gang g = some (G.setAcc o k A) ∧ A.place = some (.hbm (l.base + (a.va.extractLsb' 0 12).toNat)) ∧
            (A.st = .ready ∨ A.st = .performed))) ∧
    (∀ f g o k G op a, s.walk c (pageAddr vpn) = .fault f → s.waitersOf core c vpn = [(g, o, k)] → s.gang g = some G →
      G.acc o k = some (op, a) →
      ∃ (u : State) (H : Gang), exec (.tableWalkComplete c core vpn) s = .next (u.wake g) ∧ u.gang g = some H ∧
        { u with gangs := s.gangs, cores := s.cores, fresh := s.fresh } = s ∧ (∀ h, h ≠ g → u.gang h = s.gang h) ∧
        (∀ x, { u.core x with l1 := (s.core x).l1 } = s.core x) ∧ { H with ops := G.ops } = G ∧
        (H.acc o k).map Prod.snd = some { a with st := .fault f } ∧
        ∀ p q x b, p ≠ o → G.acc p q = some (x, b) → (H.acc p q).map Prod.snd = some
          (if o < p ∧ x.ofSplit op.slices = true ∧ x.mat = none ∧ x.kind.isEngine = none ∧ b.st.atCore = true ∧
              G.owns op.slices b = true ∧ (f = causeTrans ∨ f = causePerm) ∧ localWindow a.va = none ∧ localWindow b.va = none ∧
              a.va.toNat / 2 ^ a.page = b.va.toNat / 2 ^ a.page
            then { b with st := .fault f, page := a.page } else b)) ∧
    (∀ at_ (v : Dword) (lvl : Fin 4), at_ % 8 = 0 → at_ < 2 ^ 52 →
      ∃ u : State, exec (.tlbInvalidate c [{ addr := at_, val := v, level := lvl }]) s = .next u ∧
        (∀ x n, n < 2 ^ 36 → u.tlbHit x c n = none) ∧
        (∀ x d n, d ≠ c → n < 2 ^ 36 → u.tlbHit x d n = s.tlbHit x d n) ∧
        { u with mem := s.mem, cores := s.cores, bents := s.bents, launches := s.launches } = s ∧
        (∀ x, { u.core x with tlb := (s.core x).tlb } = s.core x) ∧ (∀ x, { u.bent x with tlb := (s.bent x).tlb } = s.bent x) ∧
        (∀ l, (KV.find u.launches l).map (fun L => { L with events := [] }) =
          (KV.find s.launches l).map fun L => { L with events := [] }) ∧
        u.mem.read at_ 8 = v.toNat ∧ s.Stores u at_ 8 ∧
        let maps (t : State) (y : Nat) : Bool :=
          t.mappedRanges.any fun r => decide (r.1 ≤ 8 * (y / 8)) && decide (8 * (y / 8) < r.1 + r.2)
        ∀ y, u.mem.isFull y = (s.mem.isFull y && (maps s y || !maps u y)))

/-- R272, R275 to R278: a fetch that faults is held and its split waits as at a marker; delivered, the report of a parked
split is a MEMFAULT trap with its records; replayed, its split waits at the same point again and the access that faulted is
issued again. That a replayed wait stands at its point again is the model's reading (log 26), and so is that an answer to a
split of a gang that is saved or being saved is kept until its restore (log 30). A gang of a DRAINING context is saved first (log 30). -/
def Obligations.FaultService : Prop :=
  ∀ (s : State) (g k : Nat) (G : Gang) (sp : Split), s.gang g = some G → KV.find G.splits k = some sp →
    (∀ c, G.mayIssue k sp = true →
      (s.fetch G sp.pc = .fault c ∨ s.fetch G sp.pc = .miss ∧ s.walk G.ctx sp.pc = .fault c) →
      ∃ (u : State) (H : Gang) (op : Op), exec (.instructionFetchFault g k) s = .next (u.wake g) ∧ u.gang g = some H ∧
        { u with gangs := s.gangs } = s ∧ (∀ h, h ≠ g → u.gang h = s.gang h) ∧
        G.OnlySplit H k { sp with st := .segwait, wait := .marker, seg := false, fetch := true } ∧
        KV.find H.ops G.nextOp = some op ∧ op.kind = .fetch ∧ op.slices = sp.slices ∧ op.pc = sp.pc ∧
        op.accs.map (fun p => (p.2.va, p.2.st)) = [(sp.pc, AccSt.fault c)] ∧
        (∀ o, o ≠ G.nextOp → KV.find H.ops o = KV.find G.ops o) ∧
        { H with ops := G.ops, nextOp := G.nextOp, splits := G.splits } = G) ∧
    (s.saving g = true → sp.st = .faultpark → sp.toOs = true → sp.answer = none →
      exec (.faultDeliver g k) s = .next (s.setGang g (G.setSplit k { sp with answer := some false })) ∧
      exec (.faultReplay g k []) s = .next (s.setGang g (G.setSplit k { sp with answer := some true }))) ∧
    (G.st = .resident → sp.st = .faultpark → sp.toOs = true → (s.ctx G.ctx).st ≠ .draining → s.saving g = false →
      exec (.faultDeliver g k) s =
        .next (s.raise g k (.memfault sp.recs.length) 0 (if sp.wait = .exit then sp.ipc else sp.pc) sp.recs) ∧
      (∀ o j op a, G.ops = [(o, op)] → op.kind = .load → op.mat = none → op.isStt = false → op.held = false → op.slices = sp.slices →
        sp.slices ≠ 0 → op.accs = [(j, a)] → a.st = .fault causeTrans → G.owns sp.slices a = true → G.trap = none →
        sp.wait = .marker → localWindow a.va = none → a.va.extractLsb' 60 3 = 0 → a.va.extractLsb' 48 12 = s.node →
        ∃ (u : State) (H : Gang) (A : Acc), exec (.faultReplay g k []) s = .next (u.wake g) ∧ u.gang g = some H ∧
          { u with gangs := s.gangs } = s ∧ (∀ h, h ≠ g → u.gang h = s.gang h) ∧
          G.OnlySplit H k { sp with st := .segwait, recs := [], toOs := false, fetch := false, answer := none } ∧
          (H.acc o j).map Prod.snd = some A ∧ { H with ops := G.ops, splits := G.splits } = G ∧
          (s.tlbHit G.core G.ctx (vpnOf a.va) = none → A.st = .xlate) ∧
          ∀ l, s.tlbHit G.core G.ctx (vpnOf a.va) = some l → l.r = true →
            A.place = some (.hbm (l.base + (a.va.extractLsb' 0 12).toNat)) ∧ (A.st = .ready ∨ A.st = .performed)))

/-- R38, R48, R50, R197, R265, 21 R324, R327, 15 R249, 00 Table 0-6: a barrier that times out resets its phase and its
waiter traps with BARTIMEOUT; a claim takes its run of granules; an `fsc` acquires at its strike edge; a `sysc` is answered;
an expired watchdog traps; a wait event is satisfied once its counter has reached its threshold; a chip strike counts. When
within two system strikes the chip strikes 62 and 124 fall, and which of several runs a claim takes, are the model's choice
(logs 12, 14). -/
def Obligations.TimedEvents : Prop :=
  ∀ (s : State) (g k : Nat) (G : Gang) (sp : Split), s.gang g = some G → KV.find G.splits k = some sp →
    (∀ gr b Gr L, s.group gr = some Gr → KV.find s.launches Gr.launch = some L → (Gr.barrier b).arrived ≠ [] →
      L.params.timeout < (Gr.barrier b).strikes → Gr.gangs = [g] → G.splits = [(k, sp)] → sp.st = .barwait →
      sp.wait = .bar b → G.st = .resident →
      ∃ (t : State) (H : Gang) (Gr' : Group) (w : Word),
        exec (.barrierTimeout gr b) s = .next (t.raise g k (.bartimeout b) w sp.ipc []) ∧
        (∀ x, s.fetch G sp.ipc = .word x → w = x) ∧ t.gang g = some H ∧ { t with gangs := s.gangs, groups := s.groups } = s ∧
        { H with arrs := G.arrs } = G ∧ (∀ j, sp.slices.getLsbD j = true → KV.find H.arrs (arrKey j b) = none) ∧
        t.group gr = some Gr' ∧ { Gr' with barriers := Gr.barriers } = Gr ∧
        Gr'.barrier b = { phase := (Gr.barrier b).phase + 1, m := 0, n := 0, arrived := [], strikes := 0 } ∧
        ∀ x, x ≠ b → Gr'.barrier x = Gr.barrier x) ∧
    (∀ gr Gr n a, s.group gr = some Gr → Gr.saving = false → Gr.saved = false → Gr.claims = [(g, k)] → sp.wait = .claim n → G.claimOver n = false → s.claimRun Gr n = some a →
      ∃ (u : State) (H : Gang) (Gr' : Group), exec (.claimServe gr) s = .next (u.wakeGroup gr) ∧ u.gang g = some H ∧
        { u with gangs := s.gangs, groups := s.groups, cores := s.cores } = s ∧
        H.segs = G.segs ++ [(a, n)] ∧ H.stat = 0 ∧ G.OnlySplit H k sp.finish ∧
        { H with segs := G.segs, stat := G.stat, splits := G.splits } = G ∧ a % 4 = 0 ∧
        (∀ j, j < n → s.granuleFree Gr (a + j) = true ∧ a + j ∈ (u.core Gr.core).owned) ∧ u.group gr = some Gr' ∧
        Gr'.claims = [] ∧ (∀ x, x ∈ Gr'.pool ↔ x ∈ Gr.pool ∧ ¬(a ≤ x ∧ x < a + n)) ∧
        { Gr' with claims := Gr.claims, pool := Gr.pool } = Gr) ∧
    (∀ sys, sp.wait = .fscEdge sys true →
      ∃ (u : State) (H : Gang), exec (.fscStrikeEdge g k) s = .next (u.wake g) ∧ u.gang g = some H ∧
        { u with gangs := s.gangs } = s ∧ (∀ h, h ≠ g → u.gang h = s.gang h) ∧
        G.OnlySplit H k { sp with st := .segwait, wait := .fscAcq sys } ∧ { H with splits := G.splits } = G) ∧
    (∀ n vals st, sp.wait = .sysc n true →
      ∃ (u : State) (H : Gang), exec (.syscAnswer g k vals st) s = .next (u.wake g) ∧ u.gang g = some H ∧
        { u with gangs := s.gangs } = s ∧ (∀ h, h ≠ g → u.gang h = s.gang h) ∧
        G.OnlySplit H k { sp with wait := .acqQuiet .sys } ∧ H.stat = st.getD G.stat ∧
        ((vals.map Prod.fst).Nodup → ∀ p ∈ vals, H.sreg (32 + p.1.val) = p.2) ∧
        (∀ m, (∀ p ∈ vals, 32 + p.1.val ≠ m) → H.sreg m = G.sreg m) ∧
        { H with s := G.s, stat := G.stat, splits := G.splits } = G) ∧
    (∀ w i, s.cur = some (g, k) → s.fetch G sp.pc = .word w → decode w = .ok i → G.mayIssue k sp = true →
      G.watchdogDue i = true → exec .watchdogExpiry s = .next (s.raise g k (.watchdog G.limit) w sp.pc [])) ∧
    (∀ c q j l L e, s.headUnit c q = some l → KV.find s.launches l = some L → L.events[j]? = some e →
      ∃ (u : State) (L' : Launch), exec (.waitEventTest c q j) s = .next u ∧ { u with launches := s.launches } = s ∧
        KV.find u.launches l = some L' ∧ { L' with events := L.events } = L ∧
        (∀ i, L'.events[i]? =
          if i = j then some { e with sat := e.sat || decide (e.thr ≤ s.mem.read e.key 8) } else L.events[i]?) ∧
        ∀ x, x ≠ l → KV.find u.launches x = KV.find s.launches x) ∧
    (∃ u : State, exec .chipStrike s = .next u ∧ u.strike = s.strike + 1 ∧
      u.sstrike = (if s.phase = 62 ∨ s.phase = 124 then s.sstrike + 1 else s.sstrike) ∧
      { u with strike := s.strike, sstrike := s.sstrike, phase := s.phase, groups := s.groups, gangs := s.gangs,
               ctxs := s.ctxs, agenda := s.agenda } = s ∧
      ∀ gr Gr, s.group gr = some Gr → Gr.retired = false → Gr.saved = false →
        ∃ Gr', u.group gr = some Gr' ∧ Gr'.strikes = Gr.strikes + 1 ∧
          (∀ b, Gr'.barrier b = { Gr.barrier b with
            strikes := (Gr.barrier b).strikes + if (Gr.barrier b).arrived = [] then 0 else 1 }) ∧
          { Gr' with strikes := Gr.strikes, barriers := Gr.barriers } = Gr)

/-! ## Retirement, placement, tasks, ridge registers (01 R21 to R25, R39, R43, R44, R64, 19 R300 to R319) -/

/-- R39, R43, R44, R21, R23, R24, 03 R64: a RETIRING gang with nothing outstanding retires and its granules are its group's;
the group retires with its last gang and its core has back what it held. The next unit of an eligible launch is placed on
the cores it fits, every gang of it READY at the entry with the registers of R64. Which of the cores that fit is taken is
the model's choice (log 14). -/
def Obligations.RetireAndPlace : Prop :=
  (∀ (s : State) (g : Nat) (G : Gang) (gr : Group), s.gang g = some G → s.group G.group = some gr → G.st = .retiring →
    G.unacked = 0 → G.engineIdle = true → gr.saved = false → gr.claims = [] →
    (∀ h H, h ∈ gr.gangs → s.gang h = some H → H.quadOp = none) →
    (∃ h ∈ gr.gangs, h ≠ g ∧ ∃ H, s.gang h = some H ∧ H.st ≠ .retired) →
    ∃ (u : State) (H : Gang) (gr' : Group), exec (.gangRetire g) s = .next u ∧ u.gang g = some H ∧
      { u with gangs := s.gangs, groups := s.groups, launches := s.launches } = s ∧ H.st = .retired ∧ H.segs = [] ∧ H.priv = [] ∧
      u.group G.group = some gr' ∧ { gr' with pool := gr.pool } = gr ∧
      ∀ x, x ∈ gr'.pool ↔ x ∈ gr.pool ∨ x ∈ G.priv ∨ ∃ p ∈ G.segs, p.1 ≤ x ∧ x < p.1 + p.2) ∧
  (∀ (s : State) (g : Nat) (G : Gang) (gr : Group) (L : Launch), s.gang g = some G → s.group G.group = some gr →
    KV.find s.launches gr.launch = some L → G.st = .retiring → G.unacked = 0 → G.engineIdle = true → gr.saved = false →
    gr.claims = [] → gr.gangs = [g] → s.groups = [(G.group, gr)] → L.task = false →
    ∃ (u : State) (H : Gang) (gr' : Group) (L' : Launch), exec (.gangRetire g) s = .next u ∧ u.gang g = some H ∧
      H.st = .retired ∧ u.group G.group = some gr' ∧ gr'.retired = true ∧ KV.find u.launches gr.launch = some L' ∧
      L'.retired = L.retired + 1 ∧ u.mem = s.mem ∧
      (∀ x ∈ gr.pool ++ gr.scratch ++ gr.share ++ G.priv, x ∉ (u.core gr.core).owned) ∧
      (∀ x ∈ gr.bars, x ∉ (u.core gr.core).bars) ∧ (∀ x ∈ gr.quads, x ∉ (u.core gr.core).quads)) ∧
  ∀ (s : State) (c q l : Nat) (C : Ctx) (Q : Queue) (L : Launch) (cores : List (Nat × Alloc)),
    s.mgmt.role = none → s.ctxs = [(c, C)] → C.queues = [(q, Q)] → C.st = .live → s.savedOf c = [] →
    s.eligibleHead c q = some (l, L) → 0 < C.deficit → 0 < Q.deficit → s.unitFit L = some cores → cores ≠ [] →
    L.ctx = c → L.params.queue = q →
    let frame : Bool := L.params.frameGroups.isSome
    let p := L.params
    ∃ u : State, exec (if frame then .placeFrame else .placeGroup) s = .next u ∧ u.mem = s.mem ∧
      (∃ L', KV.find u.launches l = some L' ∧ L'.placed = L.placed + cores.length) ∧
      (L.total ≤ L.placed + cores.length → l ∉ ((u.ctx c).queue q).units) ∧
      ∀ i x, cores[i]? = some x →
        (∃ Gr, u.group (s.nextGroup + i) = some Gr ∧ Gr.launch = l ∧ Gr.ctx = L.ctx ∧ Gr.core = x.1 ∧ Gr.retired = false ∧
          Gr.frame = (if frame then some s.nextGroup else none) ∧ Gr.index = (if frame then i else L.placed) ∧
          Gr.gangs = (List.range p.gangs).map fun j => s.nextGang + i * p.gangs + j) ∧
        ∀ j, j < p.gangs → ∃ H, u.gang (s.nextGang + i * p.gangs + j) = some H ∧ H.st = .resident ∧ H.core = x.1 ∧
          H.idx = j ∧ H.group = s.nextGroup + i ∧ H.live = BitVec.ofNat 32 (2 ^ ((if p.prot then 2 else 4) * p.slices) - 1) ∧
          H.mreg 0 = H.live ∧ (∀ m, m ≠ 0 → H.mreg m = 0) ∧ H.mode = 0 ∧ H.stat = 0 ∧ H.wd = 0 ∧ H.v = [] ∧ H.trap = none ∧
          H.splits.map (fun y => (y.1, y.2.pc, y.2.st)) = [(0, p.entry, SplitState.ready)]

/-- R317 to R319, R300 to R303, Tables 19-4 and 19-6: a task record is rejected as malformed or for its queue, or its task
joins the tail of its queue with what it takes from its record; a removal ends the queued tasks of its tag. The ridge unit
keeps the better value and sends a change to the copies, a copy keeps the better value, and a register is configured while
no group of its context is resident, with system scope only where the host accepted it. What counts as a malformed task record is
the model's reading (log 13), and so is the refusal of system scope (log 17). -/
def Obligations.TaskAndRidgeEvents : Prop :=
  (∀ (s : State) (g k lane base : Nat) (G : Gang) (sp : Split) (todo mal bad : Word) (L : Launch),
    s.gang g = some G → KV.find G.splits k = some sp → sp.wait = .spawn base todo mal bad → todo.getLsbD lane = true →
    lane < 32 → G.released sp.slices .chip G.nextOp = true → G.st ≠ .saved →
    let t := G.taskRec base lane
    let b := BitVec.twoPow 32 lane
    let answers (m x : Word) (post : State → Prop) : Prop :=
      ∃ (u : State) (H : Gang), exec (.taskAccept g k lane) s = .next (u.wake g) ∧ u.gang g = some H ∧
        G.OnlySplit H k { sp with wait := .spawn base (todo &&& ~~~b) m x } ∧ { H with splits := G.splits } = G ∧
        { u with gangs := s.gangs, launches := s.launches, ctxs := s.ctxs, nextLaunch := s.nextLaunch } = s ∧ post u
    (t.malformed = true → answers (mal ||| b) bad fun u => u.launches = s.launches ∧ u.ctxs = s.ctxs) ∧
    (t.malformed = false → ((s.ctx G.ctx).queue t.queue).enable = false →
      answers mal (bad ||| b) fun u => u.launches = s.launches ∧ u.ctxs = s.ctxs) ∧
    (t.malformed = false → ((s.ctx G.ctx).queue t.queue).enable = true → s.queuedTasks G.ctx < 8192 →
      s.newTask g G lane t = some L →
      answers mal bad fun u =>
        ((u.ctx G.ctx).queue t.queue).units = ((s.ctx G.ctx).queue t.queue).units ++ [s.nextLaunch] ∧
        ∃ L', KV.find u.launches s.nextLaunch = some L' ∧ L'.task = true ∧ L'.tag = some (G.laneTag lane) ∧ L'.total = 1 ∧
          L'.root = L.root ∧ L'.params.entry = t.entry ∧ L'.params.args = t.args ∧ L'.params.bound = t.bound ∧
          L'.params.ridge = t.ridge ∧ L'.params.queue = t.queue ∧ L'.params.prot = false)) ∧
  (∀ (s : State) (j : Nat) (r : Removal), s.removals[j]? = some r → KV.sorted s.launches = true →
    ∃ u : State, exec (.taskRemoval j) s = .next u ∧
      { u with removals := s.removals, launches := s.launches, ctxs := s.ctxs, hostif := s.hostif } = s ∧
      u.removals = s.removals.eraseIdx j ∧
      ∀ l L, KV.find s.launches l = some L → L.task = true → ∃ L', KV.find u.launches l = some L' ∧
        L'.completed = (L.completed || (decide (L.ctx = r.ctx) && decide (L.placed = 0) && decide (L.tag = some r.tag)))) ∧
  (∀ (s : State) (j : Nat) (m : RidgeMsg), s.ridgeMsgs[j]? = some m →
    let R := (s.ctx m.ctx).ridge m.k.val
    let wins (old : Word) : Bool :=
      if R.cfg.isMax then decide (old.toInt < m.val.toInt) else decide (m.val.toInt < old.toInt)
    (m.dest = .offer → (R.cfg.enable = false ∨ wins R.val = false) →
      exec (.ridgeOfferAccept j) s = .next { s with ridgeMsgs := s.ridgeMsgs.eraseIdx j }) ∧
    (m.dest = .offer → R.cfg.enable = true → wins R.val = true →
      (R.cfg.system = false ∨ s.hostif.feat.getLsbD 7 = false) →
      ∃ u : State, exec (.ridgeOfferAccept j) s = .next u ∧ { u with ridgeMsgs := s.ridgeMsgs, ctxs := s.ctxs } = s ∧
        (u.ctx m.ctx).ridge m.k.val = { R with val := m.val } ∧
        (∀ x, x ≠ m.k.val → (u.ctx m.ctx).ridge x = (s.ctx m.ctx).ridge x) ∧
        u.ridgeMsgs = s.ridgeMsgs.eraseIdx j ++ (s.ridgeCores m.ctx).map fun c =>
          { ctx := m.ctx, k := m.k, val := m.val, dest := .copy c }) ∧
    (∀ c old, m.dest = .copy c → KV.find (s.core c).ridge (m.ctx * 16 + m.k.val) = some old →
      ∃ u : State, exec (.ridgeCopyUpdate j) s = .next u ∧ { u with ridgeMsgs := s.ridgeMsgs, cores := s.cores } = s ∧
        u.ridgeMsgs = s.ridgeMsgs.eraseIdx j ∧
        KV.find (u.core c).ridge (m.ctx * 16 + m.k.val) = some (if wins old then m.val else old) ∧
        ∀ x, x ≠ c → u.core x = s.core x)) ∧
  ∀ (s : State) (c : Nat) (k : Fin 16) (r : RidgeCfg), (s.ctx c).created = true →
    (∀ gr G, s.group gr = some G → G.ctx = c → G.retired = true ∨ G.saved = true) → KV.sorted s.groups = true →
    (r.system = true → s.hostif.feat.getLsbD 7 = false → exec (.ridgeConfigure c k r) s = .next s) ∧
    ((r.system = false ∨ s.hostif.feat.getLsbD 7 = true) →
      ∃ u : State, exec (.ridgeConfigure c k r) s = .next u ∧ { u with ctxs := s.ctxs } = s ∧
      (u.ctx c).ridge k.val = { cfg := r, val := r.start } ∧ (∀ x, x ≠ k.val → (u.ctx c).ridge x = (s.ctx c).ridge x) ∧
      { u.ctx c with ridges := (s.ctx c).ridges } = s.ctx c ∧ ∀ x, x ≠ c → u.ctx x = s.ctx x)

/-! ## Matrix pipe and engines (15 R244 to R250, 17 R252 to R262) -/

/-- R244, R245, R249, R250, 05 R127 to R129: a matrix instruction delivers to its active rows, and to the registers of its
accumulator and lo tiles, and to no other: zeros for `mzero`, the folded pairs for `mfin`, and for the products the sum in steps of
increasing k, each as R127, or under compensation R128, gives it; CF32 elements take four steps for each k. The tile stays Pending. A
quad instruction whose partners are late ends with a QUAD fault. That its record holds the address of the format block is the model's
choice (log 36). -/
def Obligations.MatrixEvents : Prop :=
  ∀ (s : State) (g o : Nat) (G : Gang) (op : Op) (m : Mat),
    s.gang g = some G → G.ops = [(o, op)] → op.mat = some m → m.done = false → m.reread = false →
    (∀ f, op.accs = [] → m.waited = none → Fb.ofBytes m.fb = some f → (m.kind = .mfin → f.hasLo m.comp = true) →
      ∃ (u : State) (H : Gang), exec (.matrixComplete g o) s = .next (u.wake g) ∧ u.gang g = some H ∧
        { u with gangs := s.gangs } = s ∧ (∀ h, h ≠ g → u.gang h = s.gang h) ∧ { H with v := G.v, ops := G.ops } = G ∧
        H.ops = [(o, { op with mat := some { m with done := true } })] ∧
        (∀ r v, r < 32 → m.rows.getLsbD r = false → H.vreg v r = G.vreg v r) ∧
        (∀ r v, r < 32 → v < m.vC ∨ m.vC + f.lenC m.n m.comp ≤ v → H.vreg v r = G.vreg v r) ∧
        (m.kind = .mzero → ∀ r v, r < 32 → m.rows.getLsbD r = true →
          H.vreg v r = if m.vC ≤ v ∧ v < m.vC + f.lenC m.n m.comp then 0 else G.vreg v r) ∧
        (m.kind = .mfin → ∀ r j, r < 32 → m.rows.getLsbD r = true → j < m.n * f.wC →
          H.vreg (m.vC + j) r = BitVec.ofNat 32 (fp32.rn (FV.add .rne (fp32.value (G.vreg (m.vC + j) r).toNat)
            (fp32.value (G.vreg (m.vC + m.n * f.wC + j) r).toNat))) ∧
          H.vreg (m.vC + m.n * f.wC + j) r = 0) ∧
        ((m.kind = .mma ∨ m.kind = .mmc) → ∀ r n, r < 32 → m.rows.getLsbD r = true → n < m.n →
          let comp := f.hasLo m.comp
          let step (x : Fmt) (c : Nat × Nat) (p : FV) : Nat × Nat :=
            if comp then
              let ph := x.value (x.rn p)
              let pl := if ph.special then FV.fin false 0 0 else FV.add .rne p ph.neg
              let t := FV.add .rne (x.value c.1) ph
              let e := if (x.value (x.rn t)).special then FV.fin false 0 0 else FV.add .rne t (x.value (x.rn t)).neg
              (x.rn t, x.rn (FV.add .rne (x.value c.2) (x.value (x.rn (FV.add .rne e pl)))))
            else (x.rn (FV.add .rne (x.value c.1) p), c.2)
          let hi (z : Nat) : Nat := m.vC + n * f.wC + z
          let lo (z : Nat) : Nat := hi z + m.n * f.wC
          let sum (x : Fmt) (c : Nat) (z : Nat) (ps : List FV) : Nat × Nat :=
            ps.foldl (step x) (if m.kind = .mmc then (0, 0) else (c, if comp then (G.vreg (lo z) r).toNat else 0))
          let ra := tileReg m.tileA r
          let rb := m.readB f (m.columnB f n).1 n
          let ks := List.range m.k
          let prods := ks.map fun k =>
            (elemValue f.a m.sides 0 r m.k ra k).mul (elemValue f.b (m.columnB f n).2 sideB n m.k rb k)
          let part (rd : Nat → Word) (k z : Nat) : FV := fp32.value (rd (2 * k + z)).toNat
          let gives (z : Nat) (ps : List FV) : Prop :=
            let c := sum fp32 (G.vreg (hi z) r).toNat z ps
            H.vreg (hi z) r = BitVec.ofNat 32 c.1 ∧ (comp = true → H.vreg (lo z) r = BitVec.ofNat 32 c.2)
          (f.a.t ≠ .cf32 → f.a.t ≠ .fp64 → gives 0 prods) ∧
          (f.a.t = .fp64 →
            let c := (sum fp64 ((G.vreg (hi 0) r).toNat + 2 ^ 32 * (G.vreg (hi 1) r).toNat) 0 prods).1
            H.vreg (hi 0) r = BitVec.ofNat 32 c ∧ H.vreg (hi 1) r = BitVec.ofNat 32 (c / 2 ^ 32)) ∧
          (f.a.t = .cf32 →
            gives 0 (ks.flatMap fun k =>
              [(part ra k 0).mul (part rb k 0), ((part ra k 1).mul (part rb k 1)).neg]) ∧
            gives 1 (ks.flatMap fun k => [(part ra k 0).mul (part rb k 1), (part ra k 1).mul (part rb k 0)])))) ∧
    (∀ k sp p n, op.accs = [] → G.splits = [(k, sp)] → sp.wait = .quad → sp.st = .evwait → op.ofSplit sp.slices = true →
      s.params G = some p → m.waited = some n → p.timeout < n →
      ∃ (u : State) (H : Gang) (op' : Op), exec (.quadTimeout g k) s = .next (u.wake g) ∧ u.gang g = some H ∧
        { u with gangs := s.gangs } = s ∧ (∀ h, h ≠ g → u.gang h = s.gang h) ∧ H.splits = [(k, sp.finish)] ∧
        H.ops = [(o, op')] ∧ op'.accs.map (fun x => (x.2.va, x.2.st)) = [(m.fbVa, AccSt.fault causeQuad)] ∧
        { H with ops := G.ops, splits := G.splits } = G)

/-- R255, R262, R259, R260, R201, R202: an engine moves bytes that are translated and carry no mark to their destinations,
and no other byte changes; a complete operation loses its clamp entries; elements stopped by a fault are tried again once
mapped, and stay unperformed once declined. In which pieces an engine moves its bytes, and at which point its faults are
held, are the model's choice (log 23). -/
def Obligations.EngineEvents : Prop :=
  ∀ (s : State) (g : Nat) (G : Gang), s.gang g = some G → G.st ≠ .saved → (∀ d ∈ s.deferred, d.ext = none) →
    let finds (n : Nat) (src dst : Dword) (ks kd : Nat → Nat) : Prop :=
      (∀ i, i < n → s.engineByte g G (src + BitVec.ofNat 64 i) false = (.inl (ks i), s) ∧
        s.engineByte g G (dst + BitVec.ofNat 64 i) true = (.inl (kd i), s) ∧ s.mem.poisoned (ks i) 1 = false) ∧
      (∀ i k, i < n → k < n → kd i ≠ ks k) ∧ ∀ i k, i < n → k < n → kd i = kd k → i = k
    let moves (i : Instr) (n : Nat) (ks kd : Nat → Nat) (post : Gang → Prop) : Prop :=
      ∃ (u : State) (H : Gang), exec i s = .next u ∧ u.gang g = some H ∧ (∀ h, h ≠ g → u.gang h = s.gang h) ∧
        { u with mem := s.mem, gangs := s.gangs, cores := s.cores, launches := s.launches } = s ∧
        (∀ l, (KV.find u.launches l).map (fun L => { L with events := [] }) =
          (KV.find s.launches l).map fun L => { L with events := [] }) ∧
        (∀ c, { u.core c with l1 := (s.core c).l1 } = s.core c) ∧ (∀ c, c ≠ G.core → (u.core c).l1 = (s.core c).l1) ∧
        (∀ i, i < n → u.mem.byte (kd i) = s.mem.byte (ks i)) ∧
        (∀ y, (∀ i, i < n → y ≠ kd i) → u.mem.byte y = s.mem.byte y) ∧ u.mem.full = s.mem.full ∧ post H
    let ends (i : Instr) (own : Nat) (post : Gang → Prop) : Prop :=
      ∃ (t : State) (H : Gang), exec i s = .next (t.wakeCore G.core) ∧ t.gang g = some H ∧ (∀ h, h ≠ g → t.gang h = s.gang h) ∧
        { t with gangs := s.gangs, cores := s.cores } = s ∧
        (t.core G.core).clamps = (s.core G.core).clamps.filter (fun e => !(e.gang == g && e.own == own)) ∧
        (∀ c, { t.core c with clamps := (s.core c).clamps } = s.core c) ∧ post H
    (∀ h c, KV.find G.copies h = some c →
      (∀ j n ks kd, j + n ≤ c.len → c.dst.toNat + c.len ≤ 2 ^ 64 → G.released c.slices .chip c.before = true →
        finds n (c.src + BitVec.ofNat 64 j) (c.dst + BitVec.ofNat 64 j) ks kd →
        (∀ i, j ≤ i → i < j + n → ivlMem c.moved i = false ∧ ivlMem c.stopped i = false ∧ ivlMem c.declined i = false) →
        moves (.copyEngineRun g h j n) n ks kd fun H => ∃ c', KV.find H.copies h = some c' ∧ { c' with moved := c.moved } = c ∧
          (∀ i, ivlMem c'.moved i = (ivlMem c.moved i || (decide (j ≤ i) && decide (i < j + n)))) ∧
          { H with copies := G.copies } = G) ∧
      (c.moved = [(0, c.len)] → c.declined = [] → G.released c.slices .chip c.before = true →
        ends (.copyComplete g h) h fun H => KV.find H.copies h = none ∧
          (∀ x, x ≠ h → KV.find H.copies x = KV.find G.copies x) ∧ { H with copies := G.copies } = G) ∧
      (c.moved = [] → c.declined = [(0, c.len)] → G.released c.slices .chip c.before = true →
        ends (.copyComplete g h) h fun H => KV.find H.copies h = none ∧ ∃ op, KV.find H.ops G.nextOp = some op ∧
          op.kind = .engine (BitVec.ofNat 64 h) ∧ op.held = true ∧ op.pc = c.pc ∧
          op.accs.map (fun x => x.2.st) = [AccSt.fault causeEngine]) ∧
      (c.stopped ≠ [] →
        exec (.engineFaultMap g h []) s =
          .next (s.setGang g { G with copies := KV.set G.copies h { c with stopped := [], met := none } }) ∧
        ∃ (u : State) (H : Gang) (c' : Copy), exec (.engineFaultDecline g h) s = .next u ∧ u.gang g = some H ∧
          { u with gangs := s.gangs } = s ∧ KV.find H.copies h = some c' ∧ c'.stopped = [] ∧
          { c' with stopped := c.stopped, declined := c.declined, at_ := c.at_, met := c.met } = c ∧
          (∀ i, ivlMem c'.declined i = (ivlMem c.declined i || ivlMem c.stopped i)) ∧ { H with copies := G.copies } = G)) ∧
    (∀ q j r l ks kd, (G.queue q).engine = 1 → (G.queue q).running[j / 65536]? = some r →
      let Q := G.queue q
      let t := gatherOf r.tag r.words
      let e := j % 65536
      e < t.count → ivlMem r.moved e = false → ivlMem r.stopped e = false → ivlMem r.declined e = false →
      G.released r.slices .chip r.before = true → s.engineRead g G (t.index + BitVec.ofNat 64 (4 * e)) 4 = (.inl l, s) →
      finds t.size (Q.base + BitVec.ofNat 64 (t.size * leNat l)) (t.dst + BitVec.ofNat 64 (t.size * e)) ks kd →
      moves (.gatherRun g q j) t.size ks kd fun H =>
        H.queue q = { Q with reqs := Q.reqs.map fun x =>
          if x.id = r.id then { x with moved := ivlAdd x.moved e (e + 1) } else x } ∧
        (∀ x, x ≠ q → H.queue x = G.queue x) ∧ { H with queues := G.queues } = G) ∧
    ∀ q r, (G.queue q).engine = 1 → (G.queue q).reqs = [r] → r.st = .queued → r.declined = [] →
      r.moved = [(0, (gatherOf r.tag r.words).count)] →
      ends (.gatherComplete g q) (2 ^ 32 + r.id) fun H =>
        H.queue q = { G.queue q with reqs := [{ r with st := .done, fault := none }] } ∧
        (∀ x, x ≠ q → H.queue x = G.queue x) ∧ { H with queues := G.queues } = G

/-! ## Contexts (17 R279 to R286, 21 R322, 11 R180) -/

/-- R279 to R285, R322, 11 R180, R207, R208, 23 R349, Table 17-11: the transitions of a context, what a kill and a reclaim
leave, the two steps of saving a group (the first withdraws what waits, at other modules by a packet of its own, 13 R222; the second
writes the group to the save area, where that has room for it, and frees its core), and what the device OS sets while nothing of the context stands in the way; R203:
cells newly carved out are EMPTY. That a
group is saved in two steps, where its state is laid in the save area, and what a create or a configure refuses, are the model's
choice (logs 30, 32). -/
def Obligations.ContextEvents : Prop :=
  ∀ (s : State) (c : Nat),
    let C := s.ctx c
    let sets (i : Instr) (C' : Ctx) : Prop :=
      ∃ u : State, exec i s = .next u ∧ u.ctx c = C' ∧ (∀ d, d ≠ c → u.ctx d = s.ctx d) ∧ { u with ctxs := s.ctxs } = s
    let idle : Prop := ∀ p ∈ s.groups, p.2.ctx = c → p.2.retired = true ∨ p.2.saved = true
    let killed (t : State) : Prop := KV.sorted s.gangs = true → (∀ p ∈ s.gangs, p.2.ctx = c) →
      (t.ctx c).st = .killing ∧ (∀ q, ((t.ctx c).queue q).units = []) ∧
      (∀ g H, t.gang g = some H → H.st = .killed) ∧ (∀ k, ∀ e ∈ (t.core k).clamps, e.ctx ≠ c) ∧
      ∀ d, d ≠ c → t.ctx d = s.ctx d
    (∀ p, c < 64 → p.root % 4096 = 0 → 1 ≤ p.threshold → p.threshold ≤ 64 → p.deadline < 2 ^ 32 →
      1024 ≤ p.quantum → p.quantum < 2 ^ 32 →
      sets (.contextCreate c p)
        { C with created := true, root := if C.st = .free then p.root else C.root,
                 threshold := if C.created then p.threshold else 32, deadline := p.deadline,
                 saveAddr := p.saveAddr, saveSize := p.saveSize, quantum := p.quantum }) ∧
    (C.created = true → C.st = .free → sets (.contextStart c) { C with st := .live }) ∧
    (C.st = .live → sets (.contextPreempt c) { C with st := .draining, drainAt := s.strike.toNat }) ∧
    (C.st = .draining → idle → sets (.drainComplete c) { C with st := .out }) ∧
    (C.st = .draining → C.deadline ≠ 0 → C.drainAt + C.deadline ≤ s.strike.toNat →
      exec (.drainDeadline c) s = .next (s.killContext c) ∧ killed (s.killContext c)) ∧
    (C.st ≠ .free → C.st ≠ .killing →
      exec (.contextKill c) s = .next (s.killContext c) ∧ killed (s.killContext c)) ∧
    (C.st = .out → s.mgmt.role = none → s.savedOf c = [] → sets (.contextSwitchIn c) { C with st := .live }) ∧
    (C.st = .killing → (∀ p ∈ s.gangs, p.2.ctx = c → p.2.ops = []) → s.deferred = [] → s.fabric.packets = [] →
      s.fabric.held = [] → s.ridgeMsgs = [] → s.removals = [] →
      ∃ u : State, exec (.reclaimComplete c) s = .next u ∧ (u.ctx c).st = .free ∧ (u.ctx c).inc = C.inc + 1 ∧
        u.mem = s.mem ∧ (∀ d, d ≠ c → u.ctx d = s.ctx d) ∧ (∀ gr Gr, u.group gr = some Gr → Gr.ctx ≠ c) ∧
        ∀ l L, KV.find u.launches l = some L → L.ctx ≠ c) ∧
    (∀ gr Gr g G, s.group gr = some Gr → Gr.ctx = c → C.st = .draining → Gr.retired = false → Gr.saved = false →
      Gr.frame = none → Gr.gangs = [g] → s.gang g = some G →
      (Gr.saving = false → (∃ p ∈ G.splits, p.2.st = .faultpark) →
        (∀ d ∈ s.deferred, d.ext = none → d.g = g → d.ringWaiter = none) →
        ∃ (u : State) (H : Gang), exec (.groupSave gr) s = .next u ∧ u.group gr = some { Gr with saving := true } ∧
          (∀ d ∈ u.deferred, d.ext = none → d.g ≠ g) ∧ u.gang g = some H ∧ { H with ops := G.ops } = G ∧
          (G.sentWaits = [] → { u with gangs := s.gangs, groups := s.groups, deferred := s.deferred } = s) ∧
          ∀ o k id p op a, G.sentWaits = [(o, k, id)] → G.ctx = c → KV.find s.fabric.packets id = some p →
            (∀ q ∈ s.fabric.packets, q.2.withdraws id = false) → G.acc o k = some (op, a) → a.st = .sent id →
            a.orphan = false →
            (p.left = false → KV.find u.fabric.packets id = none ∧ (H.acc o k).map Prod.snd = some { a with st := .refused }) ∧
            (p.left = true → ∀ job, C.job = some job → (H.acc o k).map Prod.snd = some a ∧
              KV.find u.fabric.packets s.fabric.nextId = some
                { job := job, dest := p.dest, stamp := s.sstrike.toNat, what := .withdraw g o k id,
                  op := .withdraw id p.stamp, again := 0, cls0 := p.cls0, left := s.fabric.aligned })) ∧
      (Gr.saving = true → s.saveRoom c [(gr, Gr)] = false → G.ops = [] → (∀ d ∈ s.deferred, d.ext = none → d.g ≠ g) →
        ∃ u : State, exec (.groupSave gr) s = .next u ∧ u.mem = s.mem ∧ u.gang g = some G ∧ u.group gr = some Gr) ∧
      (Gr.saving = true → G.ops = [] → G.copies = [] → G.queues = [] → (G.st = .resident ∨ G.st = .trap) →
        (∀ d ∈ s.deferred, d.ext = none → d.g ≠ g) →
        let used := s.saveUsed c
        let need := 1024 * (s.holdings Gr).length + 4096 + 8192
        C.saveAddr + C.saveSize ≤ 2 ^ 52 → used + need ≤ C.saveSize →
        ∃ u : State, exec (.groupSave gr) s = .next u ∧ u.gang g = some { G with st := .saved } ∧
          u.mem.full = s.mem.full ∧
          (∀ y, (y < C.saveAddr + used ∨ C.saveAddr + used + need ≤ y) → u.mem.byte y = s.mem.byte y) ∧
          u.group gr = some { Gr with saved := true, saving := false, saveAt := (used, need) } ∧
          (∀ x ∈ Gr.pool ++ Gr.scratch ++ Gr.share ++ G.holdings, x ∉ (u.core Gr.core).owned) ∧
          (∀ x ∈ Gr.bars, x ∉ (u.core Gr.core).bars) ∧ ∀ x ∈ Gr.quads, x ∉ (u.core Gr.core).quads)) ∧
    (∀ (q : Fin 32) en cls quantum, C.created = true → (C.queue q.val).units = [] → idle → 1024 ≤ quantum → quantum < 2 ^ 32 →
      sets (.launchQueueConfigure c q en cls quantum)
        { C with queues :=
            KV.set C.queues q.val { enable := en, cls := cls, quantum := quantum, deficit := 0, units := [] } }) ∧
    (∀ mib, C.created = true → idle → mib ≤ 256 →
      (s.ctxs.map fun p => if p.1 = c then 0 else p.2.carve).sum + mib + 512 ≤
        (match s.profile with | .c2m2 => 960 | .c3m1 => 864 | .c1m3 => 1056) →
      ∃ u : State, exec (.carveOutGrant c mib) s = .next u ∧ u.ctx c = { C with carve := mib } ∧
        (∀ d, d ≠ c → u.ctx d = s.ctx d) ∧ { u with ctxs := s.ctxs, mem := s.mem } = s ∧
        { u.mem with full := s.mem.full } = s.mem ∧
        ∀ o k, C.carve * 2 ^ 20 ≤ o → o < mib * 2 ^ 20 → (Place.carve c o).key = some k → u.mem.isFull k = false) ∧
    ∀ job, C.created = true → sets (.fabricJobJoin c job) { C with job := job }

/-! ## The host link (23 R339 to R348) -/

/-- R339 to R345, R347, R348: attach succeeds exactly when the accepted vector lies within the offered one and holds bit 2,
and begins every queue and ring anew, and what was offered stays as it was at the attach; detach is ignored while a context is LIVE; registers take what is written while their
queue or ring is empty; a tail that steps back or out of range stops its queue; a record is taken, copied, completed; a read before READY
gives STATUS and 0 elsewhere, and a detached queue reads stopped with reason 3. That a host
copy takes one step, and the order of refusals, are the model's choice (log 17). -/
def Obligations.HostEvents : Prop :=
  ∀ (s : State),
    let h := s.hostif
    let offered : BitVec 256 := if s.fabric.ports = 0 then 0x4F#256 else 0xFF#256
    (∀ off, off < 4 → (s.bar0Read off).getLsbD 0 = h.ready ∧ (s.bar0Read off).getLsbD 1 = h.attached ∧
      (s.bar0Read off).getLsbD 2 = h.refusedAttach ∧ (s.bar0Read off).getLsbD 3 = h.slotB ∧
      ∀ j, 4 ≤ j → (s.bar0Read off).getLsbD j = false) ∧
    (h.ready = false → ∀ off, 4 ≤ off → s.bar0Read off = 0) ∧
    (h.ready = true → h.attached = false → ∀ c q, c < 64 → q < 32 → s.bar0Read (0x10000 + 0x1000 * c + 0x20 * q + 0xC) = 0x31) ∧
    (∃ u : State, exec .functionLevelReset s = .next u ∧ u.hostif.attached = false ∧ u.hostif.feat = 0 ∧
      (s.gangs = [] → ∀ p ∈ s.ctxs, (u.ctx p.1).st = .free ∨ (u.ctx p.1).st = .killing)) ∧
    (∀ r w, r ∈ [32, 64, 128] → w ∈ [1, 2, 4, 8, 16] →
      exec (.linkRetrain r w) s = .next { s with hostif := { h with rate := r, width := w } }) ∧
    (h.ready = true → h.attached = false → h.accept &&& ~~~offered = 0 → h.accept.getLsbD 2 = true →
      ∃ u : State, exec .attachRequest s = .next u ∧ { u with hostif := s.hostif } = s ∧ u.hostif.attached = true ∧
        u.hostif.attach = true ∧ u.hostif.refusedAttach = false ∧ u.hostif.feat = h.accept ∧
        u.hostif.offer = offered ∧ u.offered = offered ∧
        { u.hostif with attached := h.attached, attach := h.attach, refusedAttach := h.refusedAttach, feat := h.feat, queues := h.queues,
                        rings := h.rings, offer := h.offer } = h ∧
        (∀ c q, u.hostQueue c q =
          { s.hostQueue c q with head := 0, tail := 0, stopped := false, reason := 0, copy := none }) ∧
        ∀ c, u.compRing c = { s.compRing c with tail := 0, head := 0, waiting := [] }) ∧
    (h.ready = true → h.attached = false → (h.accept &&& ~~~offered ≠ 0 ∨ h.accept.getLsbD 2 = false) →
      exec .attachRequest s = .next { s with hostif := { h with attach := true, refusedAttach := true } }) ∧
    (s.offered = if h.attached then h.offer else offered) ∧
    (h.ready = true → (∀ p ∈ s.ctxs, p.2.st ≠ .live ∧ p.2.st ≠ .draining ∧ p.2.st ≠ .out) →
      (h.attached = true →
        exec .detachRequest s = .next { s with hostif := { h with attached := false, attach := false, feat := 0 } }) ∧
      (h.attached = false → exec .detachRequest s = .next { s with hostif := { h with attach := false } })) ∧
    ((∃ p ∈ s.ctxs, p.2.st = .live ∨ p.2.st = .draining ∨ p.2.st = .out) → exec .detachRequest s = .next s) ∧
    (∀ v, h.ready = true →
      exec (.acceptWrite v) s = .next (if h.attached then s else { s with hostif := { h with accept := v } })) ∧
    (∀ c, c < 64 → h.ready = true →
      let R := s.compRing c
      (∀ v, R.tail = R.head →
        exec (.completionConfigWrite c (.base v)) s = .next (s.setCompRing c { R with base := v }) ∧
        ∀ z, exec (.completionConfigWrite c (.size z)) s = .next (s.setCompRing c { R with size := z })) ∧
      (∀ w, R.tail ≠ R.head → exec (.completionConfigWrite c w) s = .next s) ∧
      (∀ v, exec (.cheadWrite c v) s = .next (s.setCompRing c { R with head := v }) ∧
        exec (.bar0RegisterWrite (0x10000 + 0x1000 * c + 0x414) v) s =
          .next (s.setCompRing c { R with vec := v.extractLsb' 0 6 })) ∧
      (∀ x rest, R.waiting = x :: rest → h.attached = true → R.tail - R.head < R.size →
        let at_ := R.base.toNat + 32 * (R.tail.toNat % R.size.toNat)
        ∃ u : State, exec (.completionRecordWrite c) s = .next u ∧
          { u with host := s.host, hostif := s.hostif, out := s.out } = s ∧
          u.compRing c = { R with tail := R.tail + 1, waiting := rest } ∧ (∀ d, d ≠ c → u.compRing d = s.compRing d) ∧
          { u.hostif with rings := h.rings } = h ∧ u.out = s.out ++ [.msix R.vec] ∧
          u.host.read at_ 4 = x.head.toNat ∧ u.host.read (at_ + 4) 1 = x.queue % 32 ∧
          u.host.read (at_ + 5) 1 = x.status % 256 ∧ u.host.read (at_ + 6) 2 = x.inc.toNat ∧
          u.host.read (at_ + 8) 8 = x.strike % 2 ^ 64 ∧
          ∀ y, (y < at_ ∨ at_ + 32 ≤ y) → u.host.byte y = s.host.byte y) ∧
      ∀ (q : Fin 32),
        let Q := s.hostQueue c q.val
        let records (u : State) (status : Nat) : Prop :=
          (u.compRing c).waiting = R.waiting ++
            [{ head := Q.head, queue := q.val, status := status, inc := (s.ctx c).inc, strike := s.strike.toNat }]
        (∀ v, exec (.qtailDoorbell c q v) s = .next (s.setHostQueue c q.val
          (if h.attached = true ∧ (Q.size < v - Q.head ∨ v - Q.head < Q.tail - Q.head)
           then { Q with tail := v, stopped := true, reason := 1 } else { Q with tail := v }))) ∧
        (∀ v, Q.head = Q.tail → exec (.queueConfigWrite c q (.base v)) s = .next (s.setHostQueue c q.val { Q with base := v }) ∧
          ∀ z, exec (.queueConfigWrite c q (.size z)) s = .next (s.setHostQueue c q.val { Q with size := z })) ∧
        (∀ w, Q.head ≠ Q.tail → exec (.queueConfigWrite c q w) s = .next s) ∧
        (h.attached = true → Q.stopped = false → Q.head ≠ Q.tail → Q.copy = none → (s.ctx c).st ≠ .free →
          (s.ctx c).st ≠ .killing →
          let slot := Q.base.toNat + 256 * (Q.head.toNat % Q.size.toNat)
          exec (.hostRecordTake c q true) s =
            .next (s.setHostQueue c q.val { Q with stopped := true, reason := 2 }) ∧
          (s.host.read slot 2 = 0 → ∃ u : State, exec (.hostRecordTake c q false) s = .next u ∧
            { u with hostif := s.hostif, fresh := s.fresh } = s ∧ u.hostQueue c q.val = { Q with head := Q.head + 1 } ∧ records u 2) ∧
          (∀ L, s.tick.judgeRecord c q.val Q.head { num := s.host.read slot 256 } = .launch L → L.ctx = c →
            L.params.queue = q.val →
            ∃ u : State, exec (.hostRecordTake c q false) s = .next u ∧ u.mem = s.mem ∧
              u.hostQueue c q.val = { Q with head := Q.head + 1 } ∧
              ((u.ctx c).queue q.val).units = ((s.ctx c).queue q.val).units ++ [s.nextLaunch] ∧
              ∃ L', KV.find u.launches s.nextLaunch = some L' ∧ { L' with events := L.events } = L)) ∧
        ∀ bytes l, Q.copy = some (bytes, Q.head) →
          (∀ p ∈ s.launches, p.2.ctx = c → p.2.completed = true) → (∀ d ∈ s.deferred, d.ext = none) →
          let va : Dword := BitVec.ofNat 64 (field bytes 0x10 8)
          let io := field bytes 8 8
          let n := field bytes 0x18 8
          let pa := l.base + (va.extractLsb' 0 12).toNat
          1 ≤ n → n ≤ 32 - (va.extractLsb' 0 5).toNat → s.tick.walk c va = .leaf l →
          (field bytes 2 2 % 2 = 0 → l.w = true →
            ∃ u : State, exec (.hostCopy c q) s = .next u ∧ u.hostQueue c q.val = { Q with copy := none } ∧ records u 0 ∧
              u.host = s.host ∧ (∀ j, j < n → u.mem.byte (pa + j) = s.host.byte (io + j)) ∧ s.Stores u pa n ∧
              u.mem.full = s.mem.full) ∧
          (field bytes 2 2 % 2 = 1 → l.r = true → s.mem.poisoned pa n = false →
            ∃ u : State, exec (.hostCopy c q) s = .next u ∧ u.hostQueue c q.val = { Q with copy := none } ∧ records u 0 ∧
              u.mem = s.mem ∧ (∀ j, j < n → u.host.byte (io + j) = s.mem.byte (pa + j)) ∧
              ∀ y, (y < io ∨ io + n ≤ y) → u.host.byte y = s.host.byte y))

/-! ## The network (23 R349 to R360) -/

/-- R354 to R360: a work request to the own module moves its bytes, adds 1 to its local counter and is complete. An exchange
offers its own credit as it issues; a partner's credit with other parameters, which no exchange of the context meets, ends it in a RANGE
fault with nothing written; with equal ones an element that arrives fills its slot and the element that was there
leaves for the partner's slot of the same number; it is complete
once every outgoing element is acknowledged. When the performing happens, and the form of an exchange's offer, are the model's
choice (log 28). -/
def Obligations.NetworkRequests : Prop :=
  ∀ (s : State) (g q : Nat) (G : Gang) (r : Req) (ck : Nat),
    s.gang g = some G → G.st ≠ .saved → (∀ d ∈ s.deferred, d.ext = none) → (G.queue q).engine = 2 →
    (G.queue q).reqs = [r] → r.refused = false → r.pops = false → r.fault = none → r.stopped = [] → r.declined = [] →
    s.flying g q r.id = [] → G.released r.slices .sys r.before = true →
    let w (j : Nat) : Dword := r.words.getD j 0
    let op := ((w 0).extractLsb' 0 8).toNat
    let len := ((w 0).extractLsb' 32 32).toNat
    let ctr := (G.queue q).base + BitVec.ofNat 64 (8 * ((w 0).extractLsb' 16 8).toNat)
    (w 0).getLsbD 24 = false → s.engineByte g G ctr true = (.inl ck, s) → s.mem.poisoned ck 8 = false →
    let finds (n : Nat) (dst : Dword) (kd : Nat → Nat) : Prop :=
      (∀ i, i < n → s.engineByte g G (dst + BitVec.ofNat 64 i) true = (.inl (kd i), s)) ∧
      (∀ i, i < n → kd i < ck ∨ ck + 8 ≤ kd i) ∧ ∀ i k, i < n → k < n → kd i = kd k → i = k
    let others (t : State) (H : Gang) : Prop :=
      t.gang g = some H ∧ (∀ x, x ≠ g → t.gang x = s.gang x) ∧ (∀ x, x ≠ q → H.queue x = G.queue x) ∧
        { H with queues := G.queues } = G
    let counted (t : State) (n : Nat) (kd : Nat → Nat) : Prop :=
      t.mem.read ck 8 = (s.mem.read ck 8 + 1) % 2 ^ 64 ∧
        (∀ y, (∀ j, j < n → y ≠ kd j) → (y < ck ∨ ck + 8 ≤ y) → t.mem.byte y = s.mem.byte y) ∧ t.mem.full = s.mem.full ∧
        ∀ e ∈ (t.core G.core).clamps, ¬(e.gang = g ∧ e.own = 2 ^ 32 + r.id)
    let ends (i : Instr) (n : Nat) (kd : Nat → Nat) (value : Nat → Byte) : Prop :=
      ∃ (t : State) (H : Gang), exec i s = .next (t.wakeCore G.core) ∧ others t H ∧
        { t with mem := s.mem, gangs := s.gangs, cores := s.cores, launches := s.launches } = s ∧
        (∀ j, j < n → t.mem.byte (kd j) = value j) ∧ counted t n kd ∧ H.queue q = { G.queue q with reqs := [] }
    let reads (n : Nat) (src : Dword) (ks kd : Nat → Nat) : Prop :=
      (∀ i, i < n → s.engineByte g G (src + BitVec.ofNat 64 i) false = (.inl (ks i), s) ∧ s.mem.poisoned (ks i) 1 = false) ∧
      ∀ i k, i < n → k < n → kd i ≠ ks k
    (r.st = .queued → r.moved = [] → (w 1).extractLsb' 48 12 = s.node →
      (∀ kd, op = 0 → r.words = [w 0, w 1, w 2] → finds 8 (w 1) kd → (∀ i, i < 8 → kd i = kd 0 + i) →
        ends (.netPuti g q) 8 kd fun j => BitVec.ofNat 8 ((w 2).toNat / 2 ^ (8 * j))) ∧
      (∀ ks kd, op = 1 → 1 ≤ len → (w 1).toNat + len ≤ 2 ^ 64 → finds len (w 1) kd → reads len (w 2) ks kd →
        ends (.netPutm g q) len kd fun j => s.mem.byte (ks j)) ∧
      ∀ ks kd, op = 2 → 1 ≤ len → (w 2).toNat + len ≤ 2 ^ 64 → finds len (w 2) kd → reads len (w 1) ks kd →
        ends (.netGet g q []) len kd fun j => s.mem.byte (ks j)) ∧
    ∀ job p, op = 3 → (s.ctx G.ctx).job = some job →
      let z := 2 ^ ((w 2).extractLsb' 32 2).toNat
      let place := s.node.toNat - ((w 2).extractLsb' 20 12).toNat
      let gbit := ((w 2).extractLsb' 12 4).toNat
      let other := ((w 2).extractLsb' 20 12).toNat + (place ^^^ 2 ^ gbit)
      let near := onNode s.node (w 1)
      let i := if Nat.testBit place gbit then 0 else 1
      (w 2).extractLsb' 0 6 = 1#6 → (w 2).extractLsb' 6 6 = 0#6 →
      (r.st = .queued → r.moved = [] → s.reachable other = true →
        ∃ (t : State) (H : Gang), exec (.netExch g q p) s = .next t ∧ others t H ∧
          { t with gangs := s.gangs, out := s.out } = s ∧ t.out = s.out ++ [.exchange other job (w 1) (w 2)] ∧
          H.queue q = { G.queue q with reqs := [{ r with st := .sent }] }) ∧
      (r.st = .sent → r.moved = [] → s.reachable other = true → p.job = job → p.sender.toNat = other →
        (p.target ≠ w 1 ∨ p.param ≠ w 2) → s.exchMeets G.ctx other p.target p.param = none →
        ∃ (t : State) (H : Gang) (r' : Req), exec (.netExch g q p) s = .next (t.wakeCore G.core) ∧ others t H ∧
          counted t 0 id ∧ H.queue q = { G.queue q with reqs := [r'] } ∧ r'.id = r.id ∧ r'.st = .done ∧ r'.refused = true ∧
          r'.fault = some (causeRange, w 1)) ∧
      (∀ kd sd v, r.st = .sent → r.moved = [] → s.reachable other = true → BitVec.toNat sd = other →
        p = ⟨sd, job, w 1, w 2, [some v]⟩ →
        finds z (near + BitVec.ofNat 64 (z * i)) kd →
        (∀ j, j < z → s.engineByte g G (near + BitVec.ofNat 64 (z * i) + BitVec.ofNat 64 j) false = (.inl (kd j), s) ∧
          s.mem.poisoned (kd j) 1 = false) →
        ∃ (t : State) (H : Gang) (P : PacketOut), exec (.netExch g q p) s = .next t ∧ others t H ∧
          { t with mem := s.mem, gangs := s.gangs, cores := s.cores, launches := s.launches, fabric := s.fabric } = s ∧
          (∀ j, j < z → t.mem.byte (kd j) = BitVec.ofNat 8 (v.toNat / 2 ^ (8 * j))) ∧
          (∀ y, (∀ j, j < z → y ≠ kd j) → t.mem.byte y = s.mem.byte y) ∧ t.mem.full = s.mem.full ∧
          H.queue q = { G.queue q with reqs := [{ r with st := .sent, moved := [(0, 1)] }] } ∧
          KV.find t.fabric.packets s.fabric.nextId = some P ∧ P.job = job ∧ P.dest = other ∧
          P.op = .exchange (w 1) (w 2) 0 ((List.range z).map fun j => some (s.mem.byte (kd j)))) ∧
      (r.st = .sent → r.moved = [(0, 1), (2 ^ 48, 2 ^ 48 + 1)] → ends (.netExch g q p) 0 id fun _ => 0)

/-- R349 to R353, R383: a packet within its lifetime whose job names a context acts there and is answered; one sent again is
answered as before and acts no more; an acknowledgement answers the access its packet carried, a refusal or an expiry makes it
fault; a packet within its lifetime is sent again until its receipt is acknowledged. A request that its gang withdraws (13 R222)
leaves the home that holds it, and is to be sent again unless the home had answered it. A packet formed while the module takes
no part in the fabric leaves once it does. That a sender is present once it is heard, and the form of an answer and of a
withdrawal, are the model's choice (log 28). -/
def Obligations.NetworkPackets : Prop :=
  ∀ (s : State),
    (∀ (p : Packet) (c : Nat) (l : Leaf) (va : Dword) (n : Nat), s.fabric.aligned = true → s.fabric.ports ≠ 0 →
      p.sender ≠ s.node → s.mgmt.role = none → s.sstrike.toNat ≤ p.stamp + 500 → s.jobCtx p.job = some c →
      (s.ctx c).st ≠ .killing →
      (s.hasSeen p = false → s.tick.walk c va = .leaf l →
        let key := l.base + (va.extractLsb' 0 12).toNat
        let heard (u : State) : Prop :=
          { u.fabric with present := s.fabric.present, seen := s.fabric.seen } = s.fabric ∧
            p.sender.toNat ∈ u.fabric.present ∧ (p.sender.toNat, p.seq, p.stamp) ∈ u.fabric.seen
        (p.op = .load va n → l.r = true → n ≤ 8 → s.mem.poisoned key n = false →
          ∃ u : State, exec (.netPacketReceive p) s = .next u ∧
            { u with out := s.out, fabric := s.fabric, fresh := s.fresh } = s ∧ heard u ∧
            u.out = s.out ++ [.answer p.sender p.seq true (BitVec.ofNat 128 (s.mem.read key n))]) ∧
        (∀ d, p.op = .store va n d → l.w = true → (∀ x ∈ s.deferred, x.ext = none) →
          ∃ u : State, exec (.netPacketReceive p) s = .next u ∧
            { u with out := s.out, fabric := s.fabric, mem := s.mem, launches := s.launches, fresh := s.fresh } = s ∧ heard u ∧
            u.out = s.out ++ [.answer p.sender p.seq true 0] ∧ u.mem.read key n = d.toNat % 2 ^ (8 * n) ∧ s.Stores u key n ∧
            u.mem.full = s.mem.full)) ∧
      (∀ x, s.hasSeen p = true → s.out.reverse.find? (fun y => y.answers p) = some x →
        ∃ u : State, exec (.netPacketReceive p) s = .next u ∧ { u with out := s.out, fabric := s.fabric } = s ∧
          u.out = s.out ++ [x] ∧ { u.fabric with present := s.fabric.present } = s.fabric)) ∧
    (∀ (p : Packet) (seq stamp : Nat) (c : Nat), s.fabric.aligned = true → s.fabric.ports ≠ 0 → p.sender ≠ s.node →
      s.mgmt.role = none → s.sstrike.toNat ≤ p.stamp + 500 → s.jobCtx p.job = some c → (s.ctx c).st ≠ .killing →
      s.hasSeen p = false → p.op = .withdraw seq stamp →
      let answered (u : State) (v : BitVec 128) : Prop := u.out = s.out ++ [.answer p.sender p.seq true v]
      let seen : Prop := ∃ x ∈ s.fabric.seen, x.1 = p.sender.toNat ∧ x.2.1 = seq ∧ s.sstrike.toNat ≤ x.2.2 + 500
      ((∀ d ∈ s.deferred, d.isPacket p.sender seq = false) → p.seq ≠ seq →
        ∃ u : State, exec (.netPacketReceive p) s = .next u ∧
          { u with out := s.out, fabric := s.fabric, fresh := s.fresh } = s ∧
          (seen → answered u 0) ∧
          (¬seen → answered u 1 ∧ (p.sender.toNat, seq, stamp) ∈ u.fabric.seen)) ∧
      ∀ d, s.deferred = [d] → d.isPacket p.sender seq = true → d.ringWaiter = none →
        ∃ u : State, exec (.netPacketReceive p) s = .next u ∧ u.deferred = [] ∧ answered u 1 ∧ u.mem = s.mem) ∧
    (∀ id p g o k G op a, KV.find s.fabric.packets id = some p → p.what = .acc g o k → p.left = true → s.gang g = some G →
      (∀ q ∈ s.fabric.packets, q.2.withdraws id = false) → KV.find G.ops o = some op → op.accs = [(k, a)] → a.st = .sent id → a.orphan = false →
      let becomes (i : Instr) (a' : Acc) (post : State → State → Prop) : Prop :=
        ∃ (u v : State) (H : Gang), exec i s = .next v ∧ post u v ∧ u.gang g = some H ∧
          KV.find H.ops o = some { op with accs := [(k, a')] } ∧ (∀ x, x ≠ o → KV.find H.ops x = KV.find G.ops x) ∧
          { H with ops := G.ops } = G ∧ (∀ x, x ≠ g → u.gang x = s.gang x) ∧ KV.find u.fabric.packets id = none ∧
          (∀ x, x ≠ id → KV.find u.fabric.packets x = KV.find s.fabric.packets x) ∧
          { u.fabric with packets := s.fabric.packets } = s.fabric ∧ { u with gangs := s.gangs, fabric := s.fabric } = s
      (s.fabric.aligned = true →
        (∀ v c, op.kind ≠ .rbind → v < 2 ^ 64 → c < 512 →
          becomes (.netAckReceive id (some (BitVec.ofNat 128 (v + c * 2 ^ 64)))) (a.answered (BitVec.ofNat 128 v) c)
            fun u v => v = u.wake g) ∧
        becomes (.netRefusalReceive id .refused) { a with st := .fault causeNode } (fun u v => v = u.wake g) ∧
        becomes (.netRefusalReceive id .trans) { a with st := .fault causeTrans } (fun u v => v = u.wake g) ∧
        becomes (.netRefusalReceive id .perm) { a with st := .fault causePerm } (fun u v => v = u.wake g) ∧
        becomes (.netRefusalReceive id .ring) { a with st := .fault causeRing } (fun u v => v = u.wake g) ∧
        exec (.netAckReceive id none) s = .next
          { s with fabric := { s.fabric with packets := KV.mod s.fabric.packets id fun p => { p with received := true } } } ∧
        (p.received = true → exec (.netRetransmitTimeout id) s = .next s) ∧
        (s.sstrike.toNat ≤ p.stamp + 500 → p.received = false → exec (.netRetransmitTimeout id) s = .next
          { s with fabric := { s.fabric with packets := KV.set s.fabric.packets id { p with again := p.again + 1 } } })) ∧
      (p.received = true → exec (.netPacketExpiry id) s = .next s) ∧
      (p.stamp + 500 < s.sstrike.toNat → p.received = false →
        ((s.ctx G.ctx).st ≠ .killing → becomes (.netPacketExpiry id) { a with st := .fault causeNode }
          fun u v => v = (u.wake g).logErr 0 6 0 0 none 0) ∧
        ((s.ctx G.ctx).st = .killing → becomes (.netPacketExpiry id) { a with st := .fault causeNode }
          fun u v => v = u.wake g))) ∧
    (∀ w W g o k id G op a v, s.fabric.aligned = true → KV.find s.fabric.packets w = some W → W.left = true →
      W.what = .withdraw g o k id → s.gang g = some G → KV.find G.ops o = some op → op.accs = [(k, a)] → a.st = .sent id →
      a.orphan = false →
      (v ≠ 0 → ∃ (u : State) (H : Gang), exec (.netAckReceive w (some v)) s = .next u ∧ u.gang g = some H ∧
        KV.find H.ops o = some { op with accs := [(k, { a with st := .refused })] } ∧
        (∀ x, x ≠ o → KV.find H.ops x = KV.find G.ops x) ∧ { H with ops := G.ops } = G ∧
        (∀ x, x ≠ g → u.gang x = s.gang x) ∧ (∀ q ∈ u.fabric.packets, q.1 ≠ id ∧ q.2.withdraws id = false) ∧
        (∀ q ∈ s.fabric.packets, q.1 ≠ id → q.2.withdraws id = false → q ∈ u.fabric.packets) ∧
        { u.fabric with packets := s.fabric.packets } = s.fabric ∧ { u with gangs := s.gangs, fabric := s.fabric } = s) ∧
      (v = 0 → exec (.netAckReceive w (some v)) s = .next
        { s with fabric :=
          { s.fabric with packets := KV.mod s.fabric.packets id fun p => { p with received := true } } })) ∧
    (∀ (p : Fin 8) up, ∃ u : State, exec (.fabricPortLinkChange p up) s = .next u ∧ { u with fabric := s.fabric } = s ∧
      (∀ j, j < 8 → u.fabric.ports.getLsbD j = if j = p.val then up else s.fabric.ports.getLsbD j) ∧
      { u.fabric with ports := s.fabric.ports } = s.fabric) ∧
    ∀ sync al, exec (.ptpSyncChange sync al) s = .next { s with fabric :=
      { s.fabric with
        synced := sync, aligned := al
        packets := s.fabric.packets.map fun x =>
          (x.1, if al = true ∧ x.2.left = false then { x.2 with left := true, stamp := s.sstrike.toNat } else x.2) } }

/-! ## Power, cooling, roles, errors, boot (21 R333 to R337, 23 R361 to R365, 25 R366 to R383) -/

/-- R333, R335 to R337, R366, R367: a sample counts, votes out a sensor outside 0 to 150 degrees and steps every compute
bent down while the module draws more than its limit; a sensor is taken back after its second; the draw window of 64 cycles begins
again at 0, with a budget of at least 16,384; the cooling class follows the coolant. The count of supply steps below nominal, the lowest step as an uninterpreted
number, and that a sensor starts again at none in band, are the model's choice (logs 15, 31). -/
def Obligations.PowerEvents : Prop :=
  ∀ (s : State),
    (∀ watts rd, ∃ u : State, exec (.powerSample watts rd) s = .next u ∧
      { u with mgmt := s.mgmt, bents := s.bents, agenda := s.agenda, out := s.out } = s ∧ u.mgmt.watts = watts ∧
      u.mgmt.samples = s.mgmt.samples + 1 ∧
      ((match s.mgmt.cls, s.profile with
        | .degraded, _ => 1000
        | _, .c3m1 => 2400
        | _, _ => 1800) < watts →
        ∀ b, (u.bent b).steps =
          if b < (match s.profile with | .c2m2 => 16 | .c3m1 => 24 | .c1m3 => 8) ∧ (s.bent b).steps < Config.lowestSteps
          then (s.bent b).steps + 1 else (s.bent b).steps) ∧
      ∀ i x, rd = [(i, x)] → i < 64 → (s.sensor i).voted = false → (x.reading < 0 ∨ 600 < x.reading) →
        (u.sensor i).voted = true ∧ (u.sensor i).reading = x.reading ∧ ∀ j, j ≠ i → u.sensor j = s.sensor j) ∧
    (∀ i, (s.sensor i).voted = true → 50000 ≤ (s.sensor i).inBand →
      ∃ u : State, exec (.sensorTakeBack i) s = .next u ∧ { u with mgmt := s.mgmt, out := s.out } = s ∧
        u.sensor i = { s.sensor i with voted := false, inBand := 0 } ∧ ∀ j, j ≠ i → u.sensor j = s.sensor j) ∧
    (∀ b, b < 32 → 64 ≤ (s.bent b).cycle → ∃ u : State, exec (.drawWindowClose b) s = .next u ∧
      { u with bents := s.bents, cores := s.cores, fresh := s.fresh } = s ∧ 16384 ≤ (u.bent b).budget ∧
      { u.bent b with budget := (s.bent b).budget } = { s.bent b with last := (s.bent b).sum, sum := 0, cycle := 0 } ∧
      (∀ x, x ≠ b → u.bent x = s.bent x) ∧
      ∀ c, u.core c = if c / 8 = b then { s.core c with wsum := [] } else s.core c) ∧
    (∀ inlet flow fru, ∃ u : State, exec (.coolantCheck { inlet := inlet, fru := fru } flow) s = .next u ∧
      { u with mgmt := s.mgmt, agenda := s.agenda } = s ∧ u.mgmt.inlet = inlet ∧ u.mgmt.flow = flow ∧ u.mgmt.fruClass = fru ∧
      (u.mgmt.trip = true ↔ s.mgmt.trip = true ∨ (s.mgmt.dead = false ∧ flow < 5)) ∧
      (u.mgmt.nextClass ≠ none → .due .coolingClassChange ∈ u.agenda) ∧
      (u.mgmt.outB = if inlet ≤ 32 ∧ 25 ≤ flow then 0 else s.mgmt.outB + 1) ∧
      (u.mgmt.outA = if inlet ≤ 40 ∧ 15 ≤ flow then 0 else s.mgmt.outA + 1)) ∧
    (s.mgmt.cls = .b → s.mgmt.fruClass = .b → 10 ≤ s.mgmt.outB →
      ∃ u : State, exec .coolingClassChange s = .next u ∧ { u with mgmt := s.mgmt, agenda := s.agenda, out := s.out } = s ∧
        u.mgmt.cls = (if 10 ≤ s.mgmt.outA then .degraded else .a))

/-- R3, R367 to R375: a request for another profile that the class allows, whose layers may compute and whose L2 suffices,
drains every LIVE context, and so does the change that a fallen class calls for; a refused one leaves its record of level 1. With
no group resident the change reconfigures to its target, or back when a layer fails its self-test, with empty TLBs and the
requests held at their new slices; abandoned while a group is resident, it gives the contexts back. The codes of the records are
the model's choice (log 32). -/
def Obligations.RoleChanges : Prop :=
  ∀ (s : State),
    let m := s.mgmt
    let code (p : Profile) : Nat := match p with | .c2m2 => 1 | .c3m1 => 2 | .c1m3 => 3
    let l2 (p : Profile) : Nat := match p with | .c2m2 => 960 | .c3m1 => 864 | .c1m3 => 1056
    let carved : Nat := (s.ctxs.map fun c => c.2.carve).sum
    let bad (p : Profile) : Prop := ∃ k ∈ newLayers s.profile p, s.layerBad k = true
    let back (u : State) : Prop := ∀ c, (u.ctx c).st =
      if (s.ctx c).wasLive = true ∧ ((s.ctx c).st = .draining ∨ (s.ctx c).st = .out) then .live else (s.ctx c).st
    let begins (i : Instr) (p : Profile) : Prop := KV.sorted s.ctxs = true →
      ∃ u : State, exec i s = .next u ∧ { u with mgmt := s.mgmt, ctxs := s.ctxs, out := s.out } = s ∧
        u.mgmt.role = some { target := p, old := s.profile } ∧
        ∀ c, (u.ctx c).st = (if (s.ctx c).st = .live then .draining else (s.ctx c).st) ∧
          (u.ctx c).wasLive = decide ((s.ctx c).st = .live)
    ((s.hostif.ready = false ∨ m.dead = true) → ∀ p called, exec (.roleChange p called) s = .next s) ∧
    (s.hostif.ready = true → m.dead = false →
    (∀ p, p ≠ s.profile → allowed p m.cls = true → ¬bad p → carved + 512 ≤ l2 p → m.role = none → m.resetPending = false →
      begins (.roleChange (some p) false) p) ∧
    (allowed s.profile m.cls = false → m.role = none →
      begins (.roleChange (some (match m.cls with | .degraded => .c1m3 | .a | .b => .c2m2)) true)
        (match m.cls with | .degraded => .c1m3 | .a | .b => .c2m2)) ∧
    (∀ p, (p = s.profile ∨ allowed p m.cls = false ∨ bad p ∨ l2 p < carved + 512 ∨ m.role ≠ none ∨ m.resetPending = true) →
      exec (.roleChange (some p) false) s = .next (s.logCorrected 9 0 0 (code s.profile + 256 * code p))) ∧
    (∀ called, exec (.roleChange none called) s = .next (s.logCorrected 9 0 0 (code s.profile)))) ∧
    (∀ r tests bad, m.role = some r → (∀ p ∈ s.groups, p.2.retired = true ∧ p.2.saved = false) → s.fabric.held = [] →
      ∃ u : State, exec (.roleChangeReconfigure { pass := tests, bad := bad }) s = .next u ∧
        u.profile = (if ∀ k ∈ newLayers r.old r.target, tests.getLsbD (markBit k) = true then r.target else r.old) ∧
        u.mgmt.role = none ∧ u.mem = bad.foldl (fun q b => q.mark (32 * b)) s.mem ∧ u.gangs = s.gangs ∧ (∀ x c n, u.tlbHit x c n = none) ∧ back u ∧
        u.deferred = s.deferred.map fun d => { d with slice := u.sliceOf d.key }) ∧
    (∀ r, m.role = some r → (∃ p ∈ s.groups, p.2.retired = false ∧ p.2.saved = false) →
      ∃ u : State, exec .roleChangeAbandon s = .next u ∧ u.profile = s.profile ∧ u.mgmt.role = none ∧ u.mem = s.mem ∧
        u.gangs = s.gangs ∧ back u)

/-- R376 to R380: an uncorrectable error marks its block, or drops an entry of a cache or TLB, or halts the gang, kills the
contexts or resets the module that it strikes; a scrub marks the blocks that it cannot correct. A first corrected error of a
place is recorded and sent as it is detected, and those of the next second are only counted. Copies of a protected gang that
differ halt it at a scalar-wise instruction (R294). A trip or a reset ends every context and attach; Dyrok's silence brings a reset. Which events a reset waits behind, the codes in error records, that a
second of corrected errors is counted in system strikes, and that copies differ only at the next comparing instruction, are
the model's choice (logs 3, 6, 32, 39). -/
def Obligations.ErrorsAndResets : Prop :=
  ∀ (s : State),
    let m := s.mgmt
    let marks (i : Instr) (hit : Nat → Bool) : Prop :=
      ∃ u : State, exec i s = .next u ∧ { u with mem := s.mem, mgmt := s.mgmt, out := s.out } = s ∧
        { u.mem with poison := s.mem.poison } = s.mem ∧ ∀ y, u.mem.poisoned y 1 = (s.mem.poisoned y 1 || hit (y / 32))
    let resets (i : Instr) : Prop :=
      ∃ u : State, exec i s = .next u ∧ { u with mgmt := s.mgmt, agenda := s.agenda, out := s.out } = s ∧
        u.mgmt.resetPending = true ∧ u.agenda = .due .moduleReset :: s.agenda
    let ended (u : State) : Prop :=
      u.mgmt.trip = false ∧ u.mgmt.role = none ∧ u.gangs = [] ∧ u.groups = [] ∧ u.launches = [] ∧ u.ctxs = [] ∧
        u.hostif.ready = false ∧ u.hostif.attached = false ∧ u.host = s.host ∧ u.node = s.node
    (∀ n loc pa,
      let e : Instr := .uncorrectableError (.corrected n loc pa)
      let c := KV.find m.corrected (loc * 16 + n)
      (c = none → ∃ (u : State) (r : ErrRec), exec e s = .next u ∧ { u with mgmt := s.mgmt, out := s.out } = s ∧
        r.level = 1 ∧ r.source = n ∧ r.loc = loc ∧ r.pa = pa ∧ r.ctx = none ∧ r.count = 1 ∧ r.logged = false ∧
        r.synced = s.fabric.synced ∧ r.strike = s.strike.toNat ∧ r.detail = 0 ∧
        u.out = s.out ++ [.pldmEvent r.bytes, .dyrokRecord r] ∧ r.bytes.length = 64 ∧
        u.mgmt.records = (m.records ++ [r]).drop (m.records.length + 1 - 256) ∧ u.mgmt.flash = m.flash) ∧
      ∀ t k, c = some (t, k) → t ≤ s.sstrike.toNat → s.sstrike.toNat < t + 500000 →
        ∃ u : State, exec e s = .next u ∧ { u with mgmt := s.mgmt } = s ∧ { u.mgmt with corrected := m.corrected } = m ∧
          KV.find u.mgmt.corrected (loc * 16 + n) = some (t, k + 1)) ∧
    (∀ b, marks (.uncorrectableError (.hbmBlock b)) (· == b) ∧ marks (.uncorrectableError (.l2Line b)) (· == b)) ∧
    (∀ gr b, (∀ shared, b < 2 ^ 47 → marks (.uncorrectableError (.storeBlock gr shared b))
        (· == (gr * 8 + if shared then 3 else 2) * 2 ^ 47 + b)) ∧
      (b < 2 ^ 47 → marks (.uncorrectableError (.l2Block gr b)) (· == (gr * 8 + 1) * 2 ^ 47 + b))) ∧
    (∀ (j : Nat) (d : Deferred), s.deferred[j]? = some d → marks (.uncorrectableError (.deferral j)) (· == d.key / 32)) ∧
    (∀ c, (∃ u : State, exec (.uncorrectableError (.l1 c)) s = .next u ∧
        { u with cores := s.cores, mgmt := s.mgmt, fresh := s.fresh, out := s.out } = s ∧
        (∀ x, { u.core x with l1 := (s.core x).l1 } = s.core x) ∧
        (u.core c).l1.length = (s.core c).l1.length - 1 ∧ ∀ e ∈ (u.core c).l1, e ∈ (s.core c).l1) ∧
      (∃ u : State, exec (.uncorrectableError (.tlb c)) s = .next u ∧
        { u with cores := s.cores, mgmt := s.mgmt, fresh := s.fresh, out := s.out } = s ∧
        (∀ x, { u.core x with tlb := (s.core x).tlb } = s.core x) ∧
        (u.core c).tlb.length = (s.core c).tlb.length - 1 ∧ ∀ e ∈ (u.core c).tlb, e ∈ (s.core c).tlb) ∧
      ∃ u : State, exec (.uncorrectableError (.bentTlb c)) s = .next u ∧
        { u with bents := s.bents, mgmt := s.mgmt, fresh := s.fresh, out := s.out } = s ∧
        (∀ x, { u.bent x with tlb := (s.bent x).tlb } = s.bent x) ∧
        (u.bent c).tlb.length = (s.bent c).tlb.length - 1 ∧ ∀ e ∈ (u.bent c).tlb, e ∈ (s.bent c).tlb) ∧
    (∀ g G, s.gang g = some G → (G.st = .resident ∨ G.st = .trap) →
      (exec (.uncorrectableError (.gangRegs g)) s = .next (s.haltGang g 1 0)) ∧
      (G.prot = true → exec (.uncorrectableError (.mismatch g)) s =
        .next (s.modGang g fun H => { H with differs := true }))) ∧
    (∀ (g k : Nat) (G : Gang) (sp : Split) (sm : Bool) (d a b : Reg), ∀ p ∈ table7_4,
      s.cur = some (g, k) → s.gang g = some G → KV.find G.splits k = some sp → s.unsettled G sp.slices = 0 →
      s.gateClosed G.core = false → G.watchdogDue (p.1 sm d a b) = false → G.differs = true → d.isSDst = true →
      a.scaSrc = true → b.scaSrc = true → G.Free (G.active sp.slices) [d, a, b] →
      exec (p.1 sm d a b) s = .next (s.haltGang g 11 0)) ∧
    (∀ core, ∀ e ∈ [ErrSite.clampTable core, .splitTable core],
      (s.contextsOn core = [] → exec (.uncorrectableError e) s = .next (s.logErr 4 2 (locOf core) 0 none 0)) ∧
      ∀ c, s.contextsOn core = [c] →
        exec (.uncorrectableError e) s = .next ((s.logErr 4 2 (locOf core) 0 (some c) 0).killContext c)) ∧
    (∀ c, (∀ e ∈ [ErrSite.pageTable c, .ringBlock c, .savedState c],
        exec (.uncorrectableError e) s = .next ((s.logErr 4 5 0 0 (some c) 0).killContext c)) ∧
      ∀ e ∈ [ErrSite.ridgeReg c, .ctxState c],
        exec (.uncorrectableError e) s = .next ((s.logErr 4 13 0 0 (some c) 0).killContext c)) ∧
    (∀ e ∈ [ErrSite.distributor, .ridgeUnit, .taskStore, .benchCore], resets (.uncorrectableError e)) ∧
    (∀ bad, marks (.hbmScrub bad) (bad.contains ·) ∧ marks (.l2Scrub bad) (bad.contains ·)) ∧
    (m.trip = true → m.dead = false →
      ∃ u : State, exec .thermalTrip s = .next u ∧ u.mgmt.dead = true ∧ u.mgmt.resetPending = true ∧ ended u) ∧
    ((m.dead = true → ∀ p ∈ m.sensors, p.2.reading < 240) →
      ∃ u : State, exec .moduleReset s = .next u ∧ u.mgmt.dead = false ∧ u.mgmt.resetPending = false ∧
        u.mgmt.flash = m.flash ∧ ended u) ∧
    (m.dead = false → resets .dyrokWatchdog)

/-- R361 to R365, R375, R381: a boot derives the identity key, chooses the slot of higher version that verifies, measures its
image, marks the layers that fail their self-test and sets the first profile that can be set, with memory empty and READY; with
no slot or no profile READY stays clear. A boot that times out excludes its slot once and resets. The flash takes what is
written, but for the slot that runs and, before READY, the floor while a slot can boot. SPDM and PLDM requests are answered. The
codes of the answers, and a boot timeout with no slot chosen, are the model's choice (logs 6, 33). -/
def Obligations.BootAndRequests : Prop :=
  ∀ (s : State),
    let m := s.mgmt
    let answers (i : Instr) (x : Output) : Prop := exec i s = .next { s with out := s.out ++ [x] }
    let writes (w : FlashWrite) (f : Flash) : Prop :=
      exec (.firmwareUpdate w) s = .next { s with mgmt := { m with flash := f } }
    (s.hostif.ready = false → m.dead = false →
      (∀ tests, m.chosen = none → ∃ u : State, exec (.boot tests) s = .next u ∧ { u with mgmt := s.mgmt, out := s.out } = s ∧
        u.mgmt.exclude = none ∧ u.mgmt.idKey = Config.identityKey m.flash.helper ∧ u.mgmt.booted = m.booted ∧
        u.mgmt.role = none ∧ u.mgmt.tried = true) ∧
      (∀ slot image, m.chosen = some (slot, image) → m.flash.marks = 0 →
        ∃ u : State, exec (.boot 0xFF#8) s = .next u ∧ u.hostif.ready = true ∧ u.hostif.slotB = slot ∧
          u.profile = (if m.cls = .degraded then .c1m3 else .c2m2) ∧ u.mem = Memory.empty ∧ u.host = s.host ∧
          u.mgmt.exclude = none ∧ u.mgmt.role = none ∧ u.mgmt.tried = true ∧
          u.mgmt.running = some slot ∧ u.mgmt.measLog = [image.digest] ∧ u.mgmt.booted = true ∧
          u.mgmt.idKey = Config.identityKey m.flash.helper) ∧
      (∀ slot image, m.chosen = some (slot, image) → m.flash.marks = 0xFF →
        ∃ u : State, exec (.boot 0xFF#8) s = .next u ∧ u.hostif = { s.hostif with slotB := slot } ∧ u.profile = s.profile ∧
          u.mem = s.mem ∧ u.mgmt.running = some slot ∧ u.mgmt.measLog = [image.digest] ∧ u.mgmt.booted = m.booted) ∧
      (∀ slot, (if m.tried then m.running else m.chosen.map Prod.fst) = some slot → exec .bootTimeout s = .next { s with
        mgmt := { m with exclude := some slot, resetPending := true }, agenda := .due .moduleReset :: s.agenda }) ∧
      ((if m.tried then m.running else m.chosen.map Prod.fst) = none → exec .bootTimeout s = .next s)) ∧
    (∀ r, (s.hostif.ready = true ∨ m.chosen = none) → writes (.floor r) { m.flash with floor := some r }) ∧
    (∀ i, (m.running ≠ some false → writes (.slotA i) { m.flash with slotA := some i }) ∧
      (m.running ≠ some true → writes (.slotB i) { m.flash with slotB := some i })) ∧
    (∀ i r, (m.running = some false → exec (.firmwareUpdate (.slotA i)) s = .next s) ∧
      (m.running = some true → exec (.firmwareUpdate (.slotB i)) s = .next s) ∧
      (s.hostif.ready = false → m.chosen ≠ none → exec (.firmwareUpdate (.floor r)) s = .next s)) ∧
    (∀ marks helper cert, writes (.control marks helper cert) { m.flash with marks := marks, helper := helper, cert := cert }) ∧
    (∀ nonce, answers (.spdmRequest nonce) (.spdm nonce s.measurements (Config.identitySign m.idKey nonce s.measurements))) ∧
    answers (.pldmMonitorRequest .power) (.pldm .power [(m.watts : Int)]) ∧
    answers (.pldmMonitorRequest .coolant) (.pldm .coolant [(m.inlet : Int), (m.flow : Int)]) ∧
    (∀ i, answers (.pldmMonitorRequest (.sensor i)) (.pldm (.sensor i) [(s.sensor i).reading])) ∧
    (∀ i, answers (.pldmMonitorRequest (.record i)) (.pldm (.record i)
      (((m.records.map fun r => r.bytes.map fun b => (b.toNat : Int))[i]?).getD []))) ∧
    answers (.pldmMonitorRequest .coolClass) (.pldm .coolClass [match m.cls with | .b => 2 | .a => 1 | .degraded => 0]) ∧
    answers (.pldmMonitorRequest .fru) (.pldm .fru [match m.fruClass with | .b => 2 | .a => 1 | .degraded => 0])

/-! ## The machine as a whole -/

/-- R74 to R83: every well-formed instruction that has a word is what the decoder reads from that word, whatever its
operands; and a word that decodes to an instruction is the one word of that instruction, which is well-formed. -/
def Obligations.DecodeEncode : Prop :=
  (∀ (i : Instr) (w : Word), i.wf = true → encode i = some w → decode w = .ok i) ∧
    ∀ (i : Instr) (w : Word), decode w = .ok i → i.wf = true ∧ encode i = some w

/-- Every step keeps both memories in canonical form: keys rise and nothing listed equals what an unlisted key reads as. The
form is the model's own choice (log 10). -/
def Obligations.StepKeepsMemory : Prop := ∀ s t : State, s.memOk = true → step s = .next t → t.memOk = true

/-- R379, R344: right after a reset every byte of memory reads 0 and no block carries a poison mark, every context has ended
and no gang is left, the host sees READY clear and no attach, and every queue and ring register holds 0. That future cells are
EMPTY, and that both memories have their canonical form, is the model's choice (log 10). -/
def Obligations.ResetState : Prop :=
  State.reset.memOk = true ∧ (∀ a, State.reset.mem.byte a = 0) ∧ (∀ a n, State.reset.mem.poisoned a n = false) ∧
    (∀ a, State.reset.mem.isFull a = false) ∧ State.reset.gangs = [] ∧ (∀ c, (State.reset.ctx c).st = .free) ∧
    State.reset.hostif.ready = false ∧ State.reset.hostif.attached = false ∧
    (∀ q, let Q := KV.get State.reset.hostif.queues q HostQueue.init
      Q.base = 0 ∧ Q.size = 0 ∧ Q.head = 0 ∧ Q.tail = 0) ∧
    ∀ r, let R := KV.get State.reset.hostif.rings r CompRing.init
      R.base = 0 ∧ R.size = 0 ∧ R.tail = 0 ∧ R.head = 0 ∧ R.vec = 0

/-- R74, R85: when the split that the agenda selects (log 1) may issue, no other split of its quadrant is eligible (R331), and a
TLB entry lets it fetch, and the four bytes at its program counter decode to an instruction, the step is `exec` of that
instruction with that split selected, with the cycle of the bent's clock counted in the last quadrant of its last core; when they
decode to none, it is the meaning of an undecodable word. An event at the head of the agenda is `exec` of that event. -/
def Obligations.StepRuns : Prop :=
  ∀ (s : State) (rest : List Agenda),
    (∀ (g k : Nat) (G : Gang) (sp : Split) (l : Leaf), s.agenda = .issue g k :: rest → s.gang g = some G →
      KV.find G.splits k = some sp → G.mayIssue k sp = true → s.saving g = false →
      (∀ h j H x, (h, H) ∈ s.gangs → (j, x) ∈ H.splits → (h, j) ≠ (g, k) →
        H.core = G.core → H.slot % 4 = G.slot % 4 → ({ s with agenda := rest, cur := none } : State).canIssue h j = false) →
      sp.pc.extractLsb' 60 3 = 0 → sp.pc.extractLsb' 48 12 = s.node →
      s.tlbHit G.core G.ctx (vpnOf sp.pc) = some l → l.x = true → s.mem.poisoned (l.pa sp.pc) 4 = false →
      let pa := l.pa sp.pc
      let u := { s with agenda := rest, cur := some (g, k) }
      (∀ i, decodeBytes [s.mem.byte pa, s.mem.byte (pa + 1), s.mem.byte (pa + 2), s.mem.byte (pa + 3)] = .ok (i, []) →
        i.wf = true ∧ step s = afterCycle G.core (G.slot % 4) (exec i u) ∧
          ((G.core % 8 = 7 → G.slot % 4 ≠ 3) → step s = exec i u)) ∧
      ∀ e, decodeBytes [s.mem.byte pa, s.mem.byte (pa + 1), s.mem.byte (pa + 2), s.mem.byte (pa + 3)] = .error e →
        step s = afterCycle G.core (G.slot % 4) (exec (.undecodableWord (wordOfBytes (s.mem.byte pa) (s.mem.byte (pa + 1))
          (s.mem.byte (pa + 2)) (s.mem.byte (pa + 3)))) u)) ∧
    ∀ i, s.agenda = .event i :: rest → step s = exec i { s with agenda := rest, cur := none }

/-- Tables 3-7 to 3-9: words written out field by field decode to the instructions they stand for, at least one of each family,
and unassigned codes, reserved sub-fields and nonzero Resv fields to none. -/
def Obligations.DecodeWords : Prop :=
  decode 0x03E90002 = .ok (.brnz false (.m 1) 2) ∧
    decode 0x91020103 = .ok (.sub true (.v 2) (.v 1) (.v 3)) ∧
    decode 0x4000C1C2 = .ok (.ceq false (.v 0) (.s 1) (.s 2)) ∧
    decode 0x40C0C1F8 = .ok (.sceq false (.s 0) (.s 1) .zr) ∧
    decode 0x5A05C27F = .ok (.lddImm false (.v 5) (.s 2) 31) ∧
    decode 0x6004C8B0 = .ok (.aaddR false (.v 4) (.s 8) .chip) ∧
    decode 0x0DC50001 = .ok (.wrsr false (.s 5) 1) ∧
    decode 0x6B03C5C6 = .ok (.rwr false (.v 3) (.s 5) (.s 6)) ∧
    decode 0x710010C6 = .ok (.mma false (.v 0) (.v 16) (.s 6)) ∧
    decode 0x7CCAC4C6 = .ok (.cpy false (.s 10) (.s 4) (.s 6)) ∧
    decode 0x1EF0C100 = .ok (.queuePush false (.q 0) (.s 1)) ∧
    decode 0x0B010007 = .ok (.trap false 7) ∧
    decode 0x01FFFFFE = .ok (.br false 0xFFFFFE) ∧
    decode 0x84000010 = .ok (.call true 0x10) ∧
    decode 0x1E00C103 = .ok (.ffs false (.v 0) (.s 1)) ∧
    decode 0x30000102 = .ok (.fadd false (.v 0) (.v 1) (.v 2)) ∧
    decode 0x3900010A = .ok (.cvt false (.v 0) (.v 1) .i8) ∧
    decode 0x4A000148 = .ok (.shfi false (.v 0) (.v 1) .rotd 8) ∧
    decode 0x4C0001C2 = .ok (.btl false (.v 0) (.v 1) (.s 2)) ∧
    decode 0xC8C00108 = .ok (.redadd true (.s 0) (.v 1)) ∧
    decode 0x6101C102 = .ok (.frdC false (.v 1) (.s 1)) ∧
    decode 0x62C0C100 = .ok (.rclaim false (.s 0) (.s 1)) ∧
    decode 0x68C00033 = .ok (.bar false (.s 0) (.v 0) 0x33) ∧
    decode 0xED000018 = .ok (.give true 24) ∧
    decode 0x6E000003 = .ok (.acq false .chip) ∧
    decode 0x6E030004 = .ok (.fsc false true) ∧
    decode 0xF9000003 = .ok (.steal true) ∧
    decode 0x7A05C243 = .ok (.stt false (.v 5) (.s 2) 3) ∧
    decode 0x7BC00002 = .ok (.rrd false (.s 0) (.v 0)) ∧
    decode 0x7B050003 = .ok (.spawn false (.v 5)) ∧
    decode 0x7F000000 = .error .unassignedMajor ∧
    decode 0x0B040000 = .error .unassignedMinor ∧
    decode 0x5A0000A0 = .error .reservedSubfield ∧
    decode 0x00000001 = .error .resvField ∧
    decode 0x6C000000 = .error .immediateRange
end

