-- ==== Sys2Proof/Laws/Encoding.lean ====
section
/-! SUPPORT. What the decoder reads from a word put together from its fields, and that a register and its number agree. -/

namespace Sys2Proof

set_option maxRecDepth 100000 in
theorem Reg.num_ofNum : ∀ b : BitVec 8, (Reg.ofNum b).num = b := by decide +kernel

set_option maxRecDepth 100000 in
@[simp] theorem Reg.ofNum_num (r : Reg) : Reg.ofNum r.num = r := by
  cases r with
  | v n => revert n; decide +kernel
  | s n => revert n; decide +kernel
  | m n => revert n; decide +kernel
  | q n => revert n; decide +kernel
  | zr | lid | role | bnd | alt | mode | stat | live => decide +kernel

theorem EType.ofNum_num (t : EType) : EType.ofNum t.num = some t := by cases t <;> rfl

theorem Scope.ofNum_num (c : Scope) : Scope.ofNum c.num = some c := by cases c <;> rfl

theorem LanePat.ofNum_num (p : LanePat) : LanePat.ofNum p.num = some p := by cases p <;> rfl

/-- The number that two fields side by side make. -/
theorem toNat_fields {n m : Nat} (x : BitVec n) (y : BitVec m) : (x ++ y).toNat = x.toNat * 2 ^ m + y.toNat := by
  rw [BitVec.toNat_append, ← Nat.shiftLeft_add_eq_or_of_lt y.isLt, Nat.shiftLeft_eq]

set_option maxRecDepth 10000 in
theorem wordOf_toNat (sm : Bool) (op : BitVec 7) (d a b : BitVec 8) :
    (wordOf sm op d a b).toNat =
      sm.toNat * 2 ^ 31 + op.toNat * 2 ^ 24 + d.toNat * 2 ^ 16 + a.toNat * 2 ^ 8 + b.toNat := by
  unfold wordOf
  have e := toNat_fields (BitVec.ofBool sm ++ op ++ d ++ a) b
  have e1 := toNat_fields (BitVec.ofBool sm ++ op ++ d) a
  have e2 := toNat_fields (BitVec.ofBool sm ++ op) d
  have e3 := toNat_fields (BitVec.ofBool sm) op
  have e4 : (BitVec.ofBool sm).toNat = sm.toNat := by cases sm <;> rfl
  rw [e4] at e3
  omega

set_option maxRecDepth 10000 in
/-- The decoder reads from a word the fields it was made of. -/
theorem decode_wordOf (sm : Bool) (op : BitVec 7) (d a b : BitVec 8) :
    decode (wordOf sm op d a b) = decodeFields sm op.toNat d a b := by
  have h := wordOf_toNat sm op d a b
  have h1 := op.isLt; have h2 := d.isLt; have h3 := a.isLt; have h4 := b.isLt
  have h5 : sm.toNat = 0 ∧ sm = false ∨ sm.toNat = 1 ∧ sm = true := by cases sm <;> simp
  unfold decode
  congr 1
  · rw [BitVec.msb_eq_decide, h]; obtain ⟨e, f⟩ | ⟨e, f⟩ := h5 <;> subst f <;> simp <;> omega
  · simp only [BitVec.extractLsb'_toNat, Nat.shiftRight_eq_div_pow, h]; omega
  all_goals
    apply BitVec.eq_of_toNat_eq; simp only [BitVec.extractLsb'_toNat, Nat.shiftRight_eq_div_pow, h]; omega

set_option maxRecDepth 10000 in
/-- Every word is made of its fields. -/
theorem wordOf_fields (w : Word) :
    wordOf w.msb (w.extractLsb' 24 7) (w.extractLsb' 16 8) (w.extractLsb' 8 8) (w.extractLsb' 0 8) = w := by
  apply BitVec.eq_of_toNat_eq
  rw [wordOf_toNat, BitVec.msb_eq_decide]
  have := w.isLt
  simp only [BitVec.extractLsb'_toNat, Nat.shiftRight_eq_div_pow]
  by_cases h : 2 ^ (32 - 1) ≤ w.toNat
  · rw [decide_eq_true h, Bool.toNat_true]; omega
  · rw [decide_eq_false h, Bool.toNat_false]; omega

@[simp] theorem low_field {n m : Nat} (x : BitVec n) (y : BitVec m) : (x ++ y).extractLsb' 0 m = y := by
  apply BitVec.eq_of_toNat_eq; have := y.isLt
  rw [BitVec.extractLsb'_toNat, toNat_fields, Nat.shiftRight_eq_div_pow, Nat.pow_zero, Nat.div_one, Nat.add_comm,
    Nat.add_mul_mod_self_right, Nat.mod_eq_of_lt this]

@[simp] theorem high_field {n m : Nat} (x : BitVec n) (y : BitVec m) : (x ++ y).extractLsb' m n = x := by
  apply BitVec.eq_of_toNat_eq; have := y.isLt
  rw [BitVec.extractLsb'_toNat, toNat_fields, Nat.shiftRight_eq_div_pow, Nat.add_comm, Nat.mul_comm,
    Nat.add_mul_div_left _ _ (Nat.two_pow_pos m), Nat.div_eq_of_lt this, Nat.zero_add, Nat.mod_eq_of_lt x.isLt]

/-- A 16-bit immediate and its two bytes. -/
theorem bytes_imm16 (e : BitVec 16) : e.extractLsb' 8 8 ++ e.extractLsb' 0 8 = e := by
  apply BitVec.eq_of_toNat_eq; have := e.isLt
  have h := toNat_fields (e.extractLsb' 8 8) (e.extractLsb' 0 8)
  simp only [BitVec.extractLsb'_toNat, Nat.shiftRight_eq_div_pow] at h; omega

/-- A 24-bit offset and its three bytes. -/
theorem bytes_imm24 (e : BitVec 24) : e.extractLsb' 16 8 ++ e.extractLsb' 8 8 ++ e.extractLsb' 0 8 = e := by
  apply BitVec.eq_of_toNat_eq; have := e.isLt
  have h := toNat_fields (e.extractLsb' 16 8 ++ e.extractLsb' 8 8) (e.extractLsb' 0 8)
  have h' := toNat_fields (e.extractLsb' 16 8) (e.extractLsb' 8 8)
  simp only [BitVec.extractLsb'_toNat, Nat.shiftRight_eq_div_pow] at h h'; omega

end Sys2Proof
end

