-- ==== Sys2Proof/Laws/Memory.lean ====
section
/-! SUPPORT. Finite maps and memory: reading after writing, and that every memory operation keeps the canonical form. -/

namespace Sys2Proof.Machine

/-! ## Finite maps -/

theorem KV.find_set_self {α : Type} (m : KV α) (k : Nat) (v : α) : KV.find (KV.set m k v) k = some v := by
  induction m with
  | nil => simp [KV.set, KV.find]
  | cons p r ih =>
    obtain ⟨k', v'⟩ := p
    by_cases h : k < k'
    · simp [KV.set, KV.find, h]
    · by_cases h2 : k = k'
      · simp [KV.set, KV.find, h2]
      · simp [KV.set, KV.find, h, h2, ih]

theorem KV.find_set_other {α : Type} (m : KV α) {k j : Nat} (v : α) (h : j ≠ k) :
    KV.find (KV.set m k v) j = KV.find m j := by
  induction m with
  | nil => simp [KV.set, KV.find, h]
  | cons p r ih =>
    obtain ⟨k', v'⟩ := p
    by_cases h1 : k < k'
    · simp [KV.set, KV.find, h1, h]
    · by_cases h2 : k = k'
      · subst h2; simp [KV.set, KV.find, h]
      · by_cases h3 : j = k'
        · simp [KV.set, KV.find, h1, h2, h3]
        · simp [KV.set, KV.find, h1, h2, h3, ih]

theorem KV.set_set {α : Type} (m : KV α) (k : Nat) (v w : α) : KV.set (KV.set m k v) k w = KV.set m k w := by
  induction m with
  | nil => simp [KV.set]
  | cons p r ih =>
    obtain ⟨k', v'⟩ := p
    by_cases h : k < k'
    · simp [KV.set, h]
    · by_cases h2 : k = k'
      · simp [KV.set, h2]
      · simp [KV.set, h, h2, ih]

theorem KV.find_del_other {α : Type} (m : KV α) {k j : Nat} (h : j ≠ k) : KV.find (KV.del m k) j = KV.find m j := by
  induction m with
  | nil => rfl
  | cons p r ih =>
    obtain ⟨k', v'⟩ := p
    by_cases h2 : k = k'
    · subst h2; simp [KV.del, KV.find, h, ih]
    · by_cases h3 : j = k'
      · simp [KV.del, KV.find, h2, h3]
      · simp [KV.del, KV.find, h2, h3, ih]

/-- A sorted map's tail is sorted, and every key in it lies above its head. -/
theorem KV.sorted_cons {α : Type} {k : Nat} {v : α} {r : KV α} (h : KV.sorted ((k, v) :: r) = true) :
    KV.sorted r = true ∧ ∀ p ∈ r, k < p.1 := by
  induction r generalizing k v with
  | nil => simp [KV.sorted]
  | cons p r ih =>
    obtain ⟨k', v'⟩ := p
    simp only [KV.sorted, Bool.and_eq_true, decide_eq_true_eq] at h
    refine ⟨h.2, fun q hq => ?_⟩
    rcases List.mem_cons.1 hq with rfl | hq
    · exact h.1
    · exact Nat.lt_trans h.1 ((ih h.2).2 q hq)

/-- Putting a pair below every key of a sorted map keeps it sorted. -/
theorem KV.sorted_of_lt {α : Type} {k : Nat} {v : α} {r : KV α} (hr : KV.sorted r = true) (h : ∀ p ∈ r, k < p.1) :
    KV.sorted ((k, v) :: r) = true := by
  cases r with
  | nil => rfl
  | cons p r =>
    obtain ⟨k', v'⟩ := p
    simp only [KV.sorted, Bool.and_eq_true, decide_eq_true_eq]
    exact ⟨h (k', v') (List.mem_cons_self ..), hr⟩

theorem KV.find_del_self {α : Type} (m : KV α) (k : Nat) : KV.find (KV.del m k) k = none := by
  induction m with
  | nil => rfl
  | cons p r ih =>
    obtain ⟨k', v'⟩ := p
    by_cases h2 : k = k'
    · simp only [KV.del, h2, if_true]; exact h2 ▸ ih
    · simp [KV.del, KV.find, h2, ih]

theorem KV.mem_set {α : Type} {m : KV α} {k : Nat} {v : α} {p : Nat × α} (h : p ∈ KV.set m k v) :
    p = (k, v) ∨ p ∈ m := by
  induction m with
  | nil => simpa [KV.set] using h
  | cons q r ih =>
    obtain ⟨k', v'⟩ := q
    by_cases h1 : k < k'
    · simpa [KV.set, h1] using h
    · by_cases h2 : k = k'
      · subst h2
        simp only [KV.set, Nat.lt_irrefl, if_true, if_false, List.mem_cons] at h
        exact h.imp id (List.mem_cons_of_mem _)
      · simp only [KV.set, h1, h2, if_false, List.mem_cons] at h
        rcases h with h | h
        · exact .inr (h ▸ List.mem_cons_self ..)
        · exact (ih h).imp id (List.mem_cons_of_mem _)

theorem KV.mem_del {α : Type} {m : KV α} {k : Nat} {p : Nat × α} (h : p ∈ KV.del m k) : p ∈ m := by
  induction m with
  | nil => simp [KV.del] at h
  | cons q r ih =>
    obtain ⟨k', v'⟩ := q
    by_cases h2 : k = k'
    · simp only [KV.del, h2, if_true] at h; exact List.mem_cons_of_mem _ (ih (h2 ▸ h))
    · simp only [KV.del, h2, if_false, List.mem_cons] at h
      rcases h with h | h
      · exact h ▸ List.mem_cons_self ..
      · exact List.mem_cons_of_mem _ (ih h)

theorem KV.sorted_set {α : Type} (m : KV α) (k : Nat) (v : α) (hs : KV.sorted m = true) :
    KV.sorted (KV.set m k v) = true := by
  induction m with
  | nil => rfl
  | cons p r ih =>
    obtain ⟨k', v'⟩ := p
    obtain ⟨hr, hlt⟩ := KV.sorted_cons hs
    by_cases h1 : k < k'
    · simpa [KV.set, h1, KV.sorted] using hs
    · by_cases h2 : k = k'
      · subst h2; simpa [KV.set] using KV.sorted_of_lt hr hlt
      · simp only [KV.set, h1, h2, if_false]
        refine KV.sorted_of_lt (ih hr) fun q hq => ?_
        rcases KV.mem_set hq with rfl | hq
        · exact Nat.lt_of_le_of_ne (Nat.le_of_not_lt h1) (Ne.symm h2)
        · exact hlt q hq

theorem KV.sorted_del {α : Type} (m : KV α) (k : Nat) (hs : KV.sorted m = true) : KV.sorted (KV.del m k) = true := by
  induction m with
  | nil => rfl
  | cons p r ih =>
    obtain ⟨k', v'⟩ := p
    obtain ⟨hr, hlt⟩ := KV.sorted_cons hs
    by_cases h2 : k = k'
    · simp only [KV.del, h2, if_true]; exact h2 ▸ ih hr
    · simp only [KV.del, h2, if_false]
      exact KV.sorted_of_lt (ih hr) fun q hq => hlt q (KV.mem_del hq)

theorem KV.sorted_put {α : Type} [DecidableEq α] (d : α) (m : KV α) (k : Nat) (v : α) (hs : KV.sorted m = true) :
    KV.sorted (KV.put d m k v) = true := by
  unfold KV.put
  split
  · exact KV.sorted_del m k hs
  · exact KV.sorted_set m k v hs

/-- Reading a total map where it was written. -/
theorem KV.get_put_self {α : Type} [DecidableEq α] (d : α) (m : KV α) (k : Nat) (v : α) :
    KV.get (KV.put d m k v) k d = v := by
  unfold KV.put
  split
  · rename_i h; simp [KV.get, KV.find_del_self m k, h]
  · simp [KV.get, KV.find_set_self]

/-- Reading a total map elsewhere. -/
theorem KV.get_put_other {α : Type} [DecidableEq α] (d : α) (m : KV α) {k j : Nat} (v : α) (h : j ≠ k) :
    KV.get (KV.put d m k v) j d = KV.get m j d := by
  unfold KV.put
  split
  · simp [KV.get, KV.find_del_other m h]
  · simp [KV.get, KV.find_set_other m v h]

theorem KV.get_set_self {α : Type} (m : KV α) (k : Nat) (v d : α) : KV.get (KV.set m k v) k d = v := by
  simp [KV.get, KV.find_set_self]

theorem KV.get_set_other {α : Type} (m : KV α) {k j : Nat} (v d : α) (h : j ≠ k) :
    KV.get (KV.set m k v) j d = KV.get m j d := by
  simp [KV.get, KV.find_set_other m v h]

/-! ## Rising lists of numbers -/

theorem risingNat_cons {a : Nat} {r : List Nat} (h : risingNat (a :: r) = true) :
    risingNat r = true ∧ ∀ x ∈ r, a < x := by
  induction r generalizing a with
  | nil => simp [risingNat]
  | cons b r ih =>
    simp only [risingNat, Bool.and_eq_true, decide_eq_true_eq] at h
    refine ⟨h.2, fun x hx => ?_⟩
    rcases List.mem_cons.1 hx with rfl | hx
    · exact h.1
    · exact Nat.lt_trans h.1 ((ih h.2).2 x hx)

theorem risingNat_of_lt {a : Nat} {r : List Nat} (hr : risingNat r = true) (h : ∀ x ∈ r, a < x) :
    risingNat (a :: r) = true := by
  cases r with
  | nil => rfl
  | cons b r =>
    simp only [risingNat, Bool.and_eq_true, decide_eq_true_eq]
    exact ⟨h b (List.mem_cons_self ..), hr⟩

theorem mem_insertNat {l : List Nat} {k x : Nat} (h : x ∈ insertNat l k) : x = k ∨ x ∈ l := by
  induction l with
  | nil => simpa [insertNat] using h
  | cons a r ih =>
    by_cases h1 : k < a
    · simpa [insertNat, h1] using h
    · by_cases h2 : k = a
      · subst h2; exact .inr (by simpa [insertNat] using h)
      · simp only [insertNat, h1, h2, if_false, List.mem_cons] at h
        rcases h with h | h
        · exact .inr (h ▸ List.mem_cons_self ..)
        · exact (ih h).imp id (List.mem_cons_of_mem _)

theorem risingNat_insertNat (l : List Nat) (k : Nat) (h : risingNat l = true) : risingNat (insertNat l k) = true := by
  induction l with
  | nil => rfl
  | cons a r ih =>
    obtain ⟨hr, hlt⟩ := risingNat_cons h
    by_cases h1 : k < a
    · simp [insertNat, h1, risingNat, h]
    · by_cases h2 : k = a
      · subst h2; simpa [insertNat] using h
      · simp only [insertNat, h1, h2, if_false]
        refine risingNat_of_lt (ih hr) fun x hx => ?_
        rcases mem_insertNat hx with rfl | hx
        · exact Nat.lt_of_le_of_ne (Nat.le_of_not_lt h1) (Ne.symm h2)
        · exact hlt x hx

theorem mem_eraseNat {l : List Nat} {k x : Nat} (h : x ∈ eraseNat l k) : x ∈ l := by
  induction l with
  | nil => simp [eraseNat] at h
  | cons a r ih =>
    by_cases h2 : k = a
    · simp only [eraseNat, h2, if_true] at h; exact List.mem_cons_of_mem _ h
    · simp only [eraseNat, h2, if_false, List.mem_cons] at h
      rcases h with h | h
      · exact h ▸ List.mem_cons_self ..
      · exact List.mem_cons_of_mem _ (ih h)

theorem risingNat_eraseNat (l : List Nat) (k : Nat) (h : risingNat l = true) : risingNat (eraseNat l k) = true := by
  induction l with
  | nil => rfl
  | cons a r ih =>
    obtain ⟨hr, hlt⟩ := risingNat_cons h
    by_cases h2 : k = a
    · simpa [eraseNat, h2] using hr
    · simp only [eraseNat, h2, if_false]
      exact risingNat_of_lt (ih hr) fun x hx => hlt x (mem_eraseNat hx)

theorem risingNat_filter (l : List Nat) (p : Nat → Bool) (h : risingNat l = true) : risingNat (l.filter p) = true := by
  induction l with
  | nil => rfl
  | cons a r ih =>
    obtain ⟨hr, hlt⟩ := risingNat_cons h
    by_cases hp : p a
    · simp only [List.filter_cons, hp, if_true]
      exact risingNat_of_lt (ih hr) fun x hx => hlt x (List.mem_filter.1 hx).1
    · simpa [List.filter_cons, hp] using ih hr

/-! ## Memory -/

/-- The parts of the canonical form. -/
theorem Memory.wf_iff (m : Memory) : m.wf = true ↔
    KV.sorted m.bytes = true ∧ (∀ c ∈ m.bytes, c.2 ≠ 0) ∧ risingNat m.full = true ∧ risingNat m.poison = true := by
  simp [Memory.wf, and_assoc]

theorem Memory.wf_empty : Memory.empty.wf = true := rfl

theorem Memory.wf_setByte (m : Memory) (k : Nat) (b : Byte) (h : m.wf = true) : (m.setByte k b).wf = true := by
  rw [Memory.wf_iff] at h ⊢
  refine ⟨KV.sorted_put 0 m.bytes k b h.1, fun c hc => ?_, h.2.2⟩
  simp only [Memory.setByte, KV.put] at hc
  split at hc
  · exact h.2.1 c (KV.mem_del hc)
  · rename_i hb
    rcases KV.mem_set hc with rfl | hc
    · exact hb
    · exact h.2.1 c hc

theorem Memory.wf_write (m : Memory) (k n v : Nat) (h : m.wf = true) : (m.write k n v).wf = true := by
  induction n generalizing m k v with
  | zero => exact h
  | succ n ih => exact ih _ _ _ (Memory.wf_setByte m k _ h)

theorem Memory.wf_clearWhole (m : Memory) (k n : Nat) (h : m.wf = true) : (m.clearWhole k n).wf = true := by
  rw [Memory.wf_iff] at h ⊢
  exact ⟨h.1, h.2.1, h.2.2.1, risingNat_filter _ _ h.2.2.2⟩

theorem Memory.wf_store (m : Memory) (k n v : Nat) (h : m.wf = true) : (m.store k n v).wf = true :=
  Memory.wf_clearWhole _ _ _ (Memory.wf_write _ _ _ _ h)

theorem Memory.wf_mark (m : Memory) (k : Nat) (h : m.wf = true) : (m.mark k).wf = true := by
  rw [Memory.wf_iff] at h ⊢
  exact ⟨h.1, h.2.1, h.2.2.1, risingNat_insertNat _ _ h.2.2.2⟩

theorem Memory.wf_setFull (m : Memory) (k : Nat) (b : Bool) (h : m.wf = true) : (m.setFull k b).wf = true := by
  rw [Memory.wf_iff] at h ⊢
  refine ⟨h.1, h.2.1, ?_, h.2.2.2⟩
  cases b
  · exact risingNat_eraseNat _ _ h.2.2.1
  · exact risingNat_insertNat _ _ h.2.2.1

/-- A part of a sorted map is sorted. -/
theorem KV.sorted_filter {α : Type} (m : KV α) (f : Nat × α → Bool) (hs : KV.sorted m = true) :
    KV.sorted (m.filter f) = true := by
  induction m with
  | nil => rfl
  | cons p r ih =>
    obtain ⟨hr, hp⟩ := KV.sorted_cons hs
    rw [List.filter_cons]
    split
    · exact KV.sorted_of_lt (ih hr) fun q hq => hp q (List.mem_filter.1 hq).1
    · exact ih hr

/-- Two sorted maps, the keys of one below those of the other, make one. -/
theorem KV.sorted_append {α : Type} (l m : KV α) (hl : KV.sorted l = true) (hm : KV.sorted m = true)
    (h : ∀ p ∈ l, ∀ q ∈ m, p.1 < q.1) : KV.sorted (l ++ m) = true := by
  induction l with
  | nil => exact hm
  | cons p r ih =>
    obtain ⟨hr, hp⟩ := KV.sorted_cons hl
    refine KV.sorted_of_lt (ih hr fun a ha => h a (List.mem_cons_of_mem _ ha)) fun q hq => ?_
    rcases List.mem_append.1 hq with hq | hq
    · exact hp q hq
    · exact h p (List.mem_cons_self ..) q hq

/-- Consecutive keys are sorted. -/
theorem KV.sorted_range {α : Type} (f : Nat → α) (n k : Nat) :
    KV.sorted ((List.range n).map fun j => (k + j, f j)) = true := by
  induction n with
  | zero => rfl
  | succ n ih =>
    rw [List.range_succ, List.map_append]
    refine KV.sorted_append _ _ ih rfl fun p hp q hq => ?_
    obtain ⟨j, hj, rfl⟩ := List.mem_map.1 hp
    obtain ⟨i, hi, rfl⟩ := List.mem_map.1 hq
    have h1 := List.mem_range.1 hj
    have h2 := List.mem_singleton.1 hi
    show k + j < k + i
    omega

theorem Memory.wf_fill (m : Memory) (k n : Nat) (f : Nat → Byte) (h : m.wf = true) : (m.fill k n f).wf = true := by
  refine Memory.wf_clearWhole _ _ _ ?_
  rw [Memory.wf_iff] at h ⊢
  refine ⟨?_, fun c hc => ?_, h.2.2⟩
  · refine KV.sorted_append _ _ (KV.sorted_append _ _ (KV.sorted_filter _ _ h.1)
      (KV.sorted_filter _ _ (KV.sorted_range f n k)) fun p hp q hq => ?_) (KV.sorted_filter _ _ h.1) fun p hp q hq => ?_
    · have hp := of_decide_eq_true (List.mem_filter.1 hp).2
      obtain ⟨j, _, rfl⟩ := List.mem_map.1 (List.mem_filter.1 hq).1
      exact Nat.lt_of_lt_of_le hp (Nat.le_add_right k j)
    · have hq := of_decide_eq_true (List.mem_filter.1 hq).2
      rcases List.mem_append.1 hp with hp | hp
      · exact Nat.lt_of_lt_of_le (of_decide_eq_true (List.mem_filter.1 hp).2)
          (Nat.le_trans (Nat.le_add_right k n) hq)
      · obtain ⟨j, hj, rfl⟩ := List.mem_map.1 (List.mem_filter.1 hp).1
        exact Nat.lt_of_lt_of_le (Nat.add_lt_add_left (List.mem_range.1 hj) k) hq
  · rcases List.mem_append.1 hc with hc | hc
    · rcases List.mem_append.1 hc with hc | hc
      · exact h.2.1 c (List.mem_filter.1 hc).1
      · simpa using (List.mem_filter.1 hc).2
    · exact h.2.1 c (List.mem_filter.1 hc).1

/-- Clearing marks, or emptying cells, leaves a part of the lists and so the form. -/
theorem Memory.wf_clearCover (m : Memory) (l : List (Nat × Nat)) (h : m.wf = true) : (m.clearCover l).wf = true := by
  rw [Memory.wf_iff] at h ⊢
  exact ⟨h.1, h.2.1, h.2.2.1, risingNat_filter _ _ h.2.2.2⟩

theorem Memory.wf_emptyCells (m : Memory) (k n : Nat) (h : m.wf = true) : (m.emptyCells k n).wf = true := by
  rw [Memory.wf_iff] at h ⊢
  exact ⟨h.1, h.2.1, risingNat_filter _ _ h.2.2.1, h.2.2.2⟩

theorem Memory.wf_emptyNew (m : Memory) (old : List (Nat × Nat)) (r : Nat × Nat) (h : m.wf = true) :
    (m.emptyNew old r).wf = true := by
  rw [Memory.wf_iff] at h ⊢
  exact ⟨h.1, h.2.1, risingNat_filter _ _ h.2.2.1, h.2.2.2⟩

/-- A byte read where it was written. -/
@[simp] theorem Memory.byte_setByte_self (m : Memory) (k : Nat) (b : Byte) : (m.setByte k b).byte k = b :=
  KV.get_put_self 0 m.bytes k b

/-- A byte read elsewhere. -/
theorem Memory.byte_setByte_other (m : Memory) {k j : Nat} (b : Byte) (h : j ≠ k) : (m.setByte k b).byte j = m.byte j :=
  KV.get_put_other 0 m.bytes b h

@[simp] theorem Memory.byte_clearWhole (m : Memory) (k n j : Nat) : (m.clearWhole k n).byte j = m.byte j := rfl

/-- A write leaves every byte outside it alone. -/
theorem Memory.byte_write_other (m : Memory) (k n v j : Nat) (h : j < k ∨ k + n ≤ j) :
    (m.write k n v).byte j = m.byte j := by
  induction n generalizing m k v with
  | zero => rfl
  | succ n ih =>
    have hk : j ≠ k := by omega
    rw [Memory.write, ih _ _ _ (by omega), Memory.byte_setByte_other _ _ hk]

/-- A store leaves every byte outside it alone. -/
theorem Memory.byte_store_other (m : Memory) (k n v j : Nat) (h : j < k ∨ k + n ≤ j) :
    (m.store k n v).byte j = m.byte j :=
  Memory.byte_write_other m k n v j h

/-- Reading bytes that agree. -/
theorem Memory.read_congr (m m' : Memory) (k n : Nat) (h : ∀ j, k ≤ j → j < k + n → m.byte j = m'.byte j) :
    m.read k n = m'.read k n := by
  induction n generalizing k with
  | zero => rfl
  | succ n ih =>
    rw [Memory.read, Memory.read, h k (Nat.le_refl k) (by omega), ih (k + 1) fun j h1 h2 => h j (by omega) (by omega)]

/-- What is written is read back. -/
theorem Memory.read_write (m : Memory) (k n v : Nat) : (m.write k n v).read k n = v % 256 ^ n := by
  induction n generalizing m k v with
  | zero => simp [Memory.read, Nat.mod_one]
  | succ n ih =>
    have hp : 256 ^ (n + 1) = 256 * 256 ^ n := by rw [Nat.pow_succ, Nat.mul_comm]
    rw [hp, Nat.mod_mul, Memory.read, Memory.write, ih, Memory.byte_write_other _ _ _ _ _ (.inl (Nat.lt_succ_self k)),
      Memory.byte_setByte_self, BitVec.toNat_ofNat]

/-- What is stored is read back (11 R186). -/
theorem Memory.read_store (m : Memory) (k n v : Nat) : (m.store k n v).read k n = v % 256 ^ n := by
  rw [← Memory.read_write m k n v]
  exact Memory.read_congr _ _ _ _ fun j _ _ => Memory.byte_clearWhole _ _ _ _

end Sys2Proof.Machine
end

