-- ==== Sys2Proof/Laws/State.lean ====
section
/-! SUPPORT. Reading a field of a state or of a gang after one of the named updates: one lemma for each field and update. -/

namespace Sys2Proof.Machine

/-! ## State.setGang -/

@[simp] theorem State.setGang_mem (s : State) (g : Nat) (G : Gang) : (s.setGang g G).mem = s.mem := rfl
@[simp] theorem State.setGang_host (s : State) (g : Nat) (G : Gang) : (s.setGang g G).host = s.host := rfl
@[simp] theorem State.setGang_gangs (s : State) (g : Nat) (G : Gang) : (s.setGang g G).gangs = KV.set s.gangs g G := rfl
@[simp] theorem State.setGang_groups (s : State) (g : Nat) (G : Gang) : (s.setGang g G).groups = s.groups := rfl
@[simp] theorem State.setGang_launches (s : State) (g : Nat) (G : Gang) : (s.setGang g G).launches = s.launches := rfl
@[simp] theorem State.setGang_ctxs (s : State) (g : Nat) (G : Gang) : (s.setGang g G).ctxs = s.ctxs := rfl
@[simp] theorem State.setGang_cores (s : State) (g : Nat) (G : Gang) : (s.setGang g G).cores = s.cores := rfl
@[simp] theorem State.setGang_bents (s : State) (g : Nat) (G : Gang) : (s.setGang g G).bents = s.bents := rfl
@[simp] theorem State.setGang_rings (s : State) (g : Nat) (G : Gang) : (s.setGang g G).rings = s.rings := rfl
@[simp] theorem State.setGang_deferred (s : State) (g : Nat) (G : Gang) : (s.setGang g G).deferred = s.deferred := rfl
@[simp] theorem State.setGang_ridgeMsgs (s : State) (g : Nat) (G : Gang) : (s.setGang g G).ridgeMsgs = s.ridgeMsgs := rfl
@[simp] theorem State.setGang_removals (s : State) (g : Nat) (G : Gang) : (s.setGang g G).removals = s.removals := rfl
@[simp] theorem State.setGang_ctxPtr (s : State) (g : Nat) (G : Gang) : (s.setGang g G).ctxPtr = s.ctxPtr := rfl
@[simp] theorem State.setGang_queuePtr (s : State) (g : Nat) (G : Gang) : (s.setGang g G).queuePtr = s.queuePtr := rfl
@[simp] theorem State.setGang_nextGang (s : State) (g : Nat) (G : Gang) : (s.setGang g G).nextGang = s.nextGang := rfl
@[simp] theorem State.setGang_nextGroup (s : State) (g : Nat) (G : Gang) : (s.setGang g G).nextGroup = s.nextGroup := rfl
@[simp] theorem State.setGang_nextLaunch (s : State) (g : Nat) (G : Gang) : (s.setGang g G).nextLaunch = s.nextLaunch := rfl
@[simp] theorem State.setGang_nextReq (s : State) (g : Nat) (G : Gang) : (s.setGang g G).nextReq = s.nextReq := rfl
@[simp] theorem State.setGang_strike (s : State) (g : Nat) (G : Gang) : (s.setGang g G).strike = s.strike := rfl
@[simp] theorem State.setGang_sstrike (s : State) (g : Nat) (G : Gang) : (s.setGang g G).sstrike = s.sstrike := rfl
@[simp] theorem State.setGang_phase (s : State) (g : Nat) (G : Gang) : (s.setGang g G).phase = s.phase := rfl
@[simp] theorem State.setGang_node (s : State) (g : Nat) (G : Gang) : (s.setGang g G).node = s.node := rfl
@[simp] theorem State.setGang_profile (s : State) (g : Nat) (G : Gang) : (s.setGang g G).profile = s.profile := rfl
@[simp] theorem State.setGang_hostif (s : State) (g : Nat) (G : Gang) : (s.setGang g G).hostif = s.hostif := rfl
@[simp] theorem State.setGang_fabric (s : State) (g : Nat) (G : Gang) : (s.setGang g G).fabric = s.fabric := rfl
@[simp] theorem State.setGang_mgmt (s : State) (g : Nat) (G : Gang) : (s.setGang g G).mgmt = s.mgmt := rfl
@[simp] theorem State.setGang_out (s : State) (g : Nat) (G : Gang) : (s.setGang g G).out = s.out := rfl
@[simp] theorem State.setGang_agenda (s : State) (g : Nat) (G : Gang) : (s.setGang g G).agenda = s.agenda := rfl
@[simp] theorem State.setGang_cur (s : State) (g : Nat) (G : Gang) : (s.setGang g G).cur = s.cur := rfl
@[simp] theorem State.setGang_fresh (s : State) (g : Nat) (G : Gang) : (s.setGang g G).fresh = s.fresh := rfl

/-! ## State.modGang -/

@[simp] theorem State.modGang_mem (s : State) (g : Nat) (f : Gang → Gang) : (s.modGang g f).mem = s.mem := rfl
@[simp] theorem State.modGang_host (s : State) (g : Nat) (f : Gang → Gang) : (s.modGang g f).host = s.host := rfl
@[simp] theorem State.modGang_gangs (s : State) (g : Nat) (f : Gang → Gang) : (s.modGang g f).gangs = KV.mod s.gangs g f := rfl
@[simp] theorem State.modGang_groups (s : State) (g : Nat) (f : Gang → Gang) : (s.modGang g f).groups = s.groups := rfl
@[simp] theorem State.modGang_launches (s : State) (g : Nat) (f : Gang → Gang) : (s.modGang g f).launches = s.launches := rfl
@[simp] theorem State.modGang_ctxs (s : State) (g : Nat) (f : Gang → Gang) : (s.modGang g f).ctxs = s.ctxs := rfl
@[simp] theorem State.modGang_cores (s : State) (g : Nat) (f : Gang → Gang) : (s.modGang g f).cores = s.cores := rfl
@[simp] theorem State.modGang_bents (s : State) (g : Nat) (f : Gang → Gang) : (s.modGang g f).bents = s.bents := rfl
@[simp] theorem State.modGang_rings (s : State) (g : Nat) (f : Gang → Gang) : (s.modGang g f).rings = s.rings := rfl
@[simp] theorem State.modGang_deferred (s : State) (g : Nat) (f : Gang → Gang) : (s.modGang g f).deferred = s.deferred := rfl
@[simp] theorem State.modGang_ridgeMsgs (s : State) (g : Nat) (f : Gang → Gang) : (s.modGang g f).ridgeMsgs = s.ridgeMsgs := rfl
@[simp] theorem State.modGang_removals (s : State) (g : Nat) (f : Gang → Gang) : (s.modGang g f).removals = s.removals := rfl
@[simp] theorem State.modGang_ctxPtr (s : State) (g : Nat) (f : Gang → Gang) : (s.modGang g f).ctxPtr = s.ctxPtr := rfl
@[simp] theorem State.modGang_queuePtr (s : State) (g : Nat) (f : Gang → Gang) : (s.modGang g f).queuePtr = s.queuePtr := rfl
@[simp] theorem State.modGang_nextGang (s : State) (g : Nat) (f : Gang → Gang) : (s.modGang g f).nextGang = s.nextGang := rfl
@[simp] theorem State.modGang_nextGroup (s : State) (g : Nat) (f : Gang → Gang) : (s.modGang g f).nextGroup = s.nextGroup := rfl
@[simp] theorem State.modGang_nextLaunch (s : State) (g : Nat) (f : Gang → Gang) : (s.modGang g f).nextLaunch = s.nextLaunch := rfl
@[simp] theorem State.modGang_nextReq (s : State) (g : Nat) (f : Gang → Gang) : (s.modGang g f).nextReq = s.nextReq := rfl
@[simp] theorem State.modGang_strike (s : State) (g : Nat) (f : Gang → Gang) : (s.modGang g f).strike = s.strike := rfl
@[simp] theorem State.modGang_sstrike (s : State) (g : Nat) (f : Gang → Gang) : (s.modGang g f).sstrike = s.sstrike := rfl
@[simp] theorem State.modGang_phase (s : State) (g : Nat) (f : Gang → Gang) : (s.modGang g f).phase = s.phase := rfl
@[simp] theorem State.modGang_node (s : State) (g : Nat) (f : Gang → Gang) : (s.modGang g f).node = s.node := rfl
@[simp] theorem State.modGang_profile (s : State) (g : Nat) (f : Gang → Gang) : (s.modGang g f).profile = s.profile := rfl
@[simp] theorem State.modGang_hostif (s : State) (g : Nat) (f : Gang → Gang) : (s.modGang g f).hostif = s.hostif := rfl
@[simp] theorem State.modGang_fabric (s : State) (g : Nat) (f : Gang → Gang) : (s.modGang g f).fabric = s.fabric := rfl
@[simp] theorem State.modGang_mgmt (s : State) (g : Nat) (f : Gang → Gang) : (s.modGang g f).mgmt = s.mgmt := rfl
@[simp] theorem State.modGang_out (s : State) (g : Nat) (f : Gang → Gang) : (s.modGang g f).out = s.out := rfl
@[simp] theorem State.modGang_agenda (s : State) (g : Nat) (f : Gang → Gang) : (s.modGang g f).agenda = s.agenda := rfl
@[simp] theorem State.modGang_cur (s : State) (g : Nat) (f : Gang → Gang) : (s.modGang g f).cur = s.cur := rfl
@[simp] theorem State.modGang_fresh (s : State) (g : Nat) (f : Gang → Gang) : (s.modGang g f).fresh = s.fresh := rfl

/-! ## State.setGroup -/

@[simp] theorem State.setGroup_mem (s : State) (r : Nat) (G : Group) : (s.setGroup r G).mem = s.mem := rfl
@[simp] theorem State.setGroup_host (s : State) (r : Nat) (G : Group) : (s.setGroup r G).host = s.host := rfl
@[simp] theorem State.setGroup_gangs (s : State) (r : Nat) (G : Group) : (s.setGroup r G).gangs = s.gangs := rfl
@[simp] theorem State.setGroup_groups (s : State) (r : Nat) (G : Group) : (s.setGroup r G).groups = KV.set s.groups r G := rfl
@[simp] theorem State.setGroup_launches (s : State) (r : Nat) (G : Group) : (s.setGroup r G).launches = s.launches := rfl
@[simp] theorem State.setGroup_ctxs (s : State) (r : Nat) (G : Group) : (s.setGroup r G).ctxs = s.ctxs := rfl
@[simp] theorem State.setGroup_cores (s : State) (r : Nat) (G : Group) : (s.setGroup r G).cores = s.cores := rfl
@[simp] theorem State.setGroup_bents (s : State) (r : Nat) (G : Group) : (s.setGroup r G).bents = s.bents := rfl
@[simp] theorem State.setGroup_rings (s : State) (r : Nat) (G : Group) : (s.setGroup r G).rings = s.rings := rfl
@[simp] theorem State.setGroup_deferred (s : State) (r : Nat) (G : Group) : (s.setGroup r G).deferred = s.deferred := rfl
@[simp] theorem State.setGroup_ridgeMsgs (s : State) (r : Nat) (G : Group) : (s.setGroup r G).ridgeMsgs = s.ridgeMsgs := rfl
@[simp] theorem State.setGroup_removals (s : State) (r : Nat) (G : Group) : (s.setGroup r G).removals = s.removals := rfl
@[simp] theorem State.setGroup_ctxPtr (s : State) (r : Nat) (G : Group) : (s.setGroup r G).ctxPtr = s.ctxPtr := rfl
@[simp] theorem State.setGroup_queuePtr (s : State) (r : Nat) (G : Group) : (s.setGroup r G).queuePtr = s.queuePtr := rfl
@[simp] theorem State.setGroup_nextGang (s : State) (r : Nat) (G : Group) : (s.setGroup r G).nextGang = s.nextGang := rfl
@[simp] theorem State.setGroup_nextGroup (s : State) (r : Nat) (G : Group) : (s.setGroup r G).nextGroup = s.nextGroup := rfl
@[simp] theorem State.setGroup_nextLaunch (s : State) (r : Nat) (G : Group) : (s.setGroup r G).nextLaunch = s.nextLaunch := rfl
@[simp] theorem State.setGroup_nextReq (s : State) (r : Nat) (G : Group) : (s.setGroup r G).nextReq = s.nextReq := rfl
@[simp] theorem State.setGroup_strike (s : State) (r : Nat) (G : Group) : (s.setGroup r G).strike = s.strike := rfl
@[simp] theorem State.setGroup_sstrike (s : State) (r : Nat) (G : Group) : (s.setGroup r G).sstrike = s.sstrike := rfl
@[simp] theorem State.setGroup_phase (s : State) (r : Nat) (G : Group) : (s.setGroup r G).phase = s.phase := rfl
@[simp] theorem State.setGroup_node (s : State) (r : Nat) (G : Group) : (s.setGroup r G).node = s.node := rfl
@[simp] theorem State.setGroup_profile (s : State) (r : Nat) (G : Group) : (s.setGroup r G).profile = s.profile := rfl
@[simp] theorem State.setGroup_hostif (s : State) (r : Nat) (G : Group) : (s.setGroup r G).hostif = s.hostif := rfl
@[simp] theorem State.setGroup_fabric (s : State) (r : Nat) (G : Group) : (s.setGroup r G).fabric = s.fabric := rfl
@[simp] theorem State.setGroup_mgmt (s : State) (r : Nat) (G : Group) : (s.setGroup r G).mgmt = s.mgmt := rfl
@[simp] theorem State.setGroup_out (s : State) (r : Nat) (G : Group) : (s.setGroup r G).out = s.out := rfl
@[simp] theorem State.setGroup_agenda (s : State) (r : Nat) (G : Group) : (s.setGroup r G).agenda = s.agenda := rfl
@[simp] theorem State.setGroup_cur (s : State) (r : Nat) (G : Group) : (s.setGroup r G).cur = s.cur := rfl
@[simp] theorem State.setGroup_fresh (s : State) (r : Nat) (G : Group) : (s.setGroup r G).fresh = s.fresh := rfl

/-! ## State.modGroup -/

@[simp] theorem State.modGroup_mem (s : State) (r : Nat) (f : Group → Group) : (s.modGroup r f).mem = s.mem := rfl
@[simp] theorem State.modGroup_host (s : State) (r : Nat) (f : Group → Group) : (s.modGroup r f).host = s.host := rfl
@[simp] theorem State.modGroup_gangs (s : State) (r : Nat) (f : Group → Group) : (s.modGroup r f).gangs = s.gangs := rfl
@[simp] theorem State.modGroup_groups (s : State) (r : Nat) (f : Group → Group) : (s.modGroup r f).groups = KV.mod s.groups r f := rfl
@[simp] theorem State.modGroup_launches (s : State) (r : Nat) (f : Group → Group) : (s.modGroup r f).launches = s.launches := rfl
@[simp] theorem State.modGroup_ctxs (s : State) (r : Nat) (f : Group → Group) : (s.modGroup r f).ctxs = s.ctxs := rfl
@[simp] theorem State.modGroup_cores (s : State) (r : Nat) (f : Group → Group) : (s.modGroup r f).cores = s.cores := rfl
@[simp] theorem State.modGroup_bents (s : State) (r : Nat) (f : Group → Group) : (s.modGroup r f).bents = s.bents := rfl
@[simp] theorem State.modGroup_rings (s : State) (r : Nat) (f : Group → Group) : (s.modGroup r f).rings = s.rings := rfl
@[simp] theorem State.modGroup_deferred (s : State) (r : Nat) (f : Group → Group) : (s.modGroup r f).deferred = s.deferred := rfl
@[simp] theorem State.modGroup_ridgeMsgs (s : State) (r : Nat) (f : Group → Group) : (s.modGroup r f).ridgeMsgs = s.ridgeMsgs := rfl
@[simp] theorem State.modGroup_removals (s : State) (r : Nat) (f : Group → Group) : (s.modGroup r f).removals = s.removals := rfl
@[simp] theorem State.modGroup_ctxPtr (s : State) (r : Nat) (f : Group → Group) : (s.modGroup r f).ctxPtr = s.ctxPtr := rfl
@[simp] theorem State.modGroup_queuePtr (s : State) (r : Nat) (f : Group → Group) : (s.modGroup r f).queuePtr = s.queuePtr := rfl
@[simp] theorem State.modGroup_nextGang (s : State) (r : Nat) (f : Group → Group) : (s.modGroup r f).nextGang = s.nextGang := rfl
@[simp] theorem State.modGroup_nextGroup (s : State) (r : Nat) (f : Group → Group) : (s.modGroup r f).nextGroup = s.nextGroup := rfl
@[simp] theorem State.modGroup_nextLaunch (s : State) (r : Nat) (f : Group → Group) : (s.modGroup r f).nextLaunch = s.nextLaunch := rfl
@[simp] theorem State.modGroup_nextReq (s : State) (r : Nat) (f : Group → Group) : (s.modGroup r f).nextReq = s.nextReq := rfl
@[simp] theorem State.modGroup_strike (s : State) (r : Nat) (f : Group → Group) : (s.modGroup r f).strike = s.strike := rfl
@[simp] theorem State.modGroup_sstrike (s : State) (r : Nat) (f : Group → Group) : (s.modGroup r f).sstrike = s.sstrike := rfl
@[simp] theorem State.modGroup_phase (s : State) (r : Nat) (f : Group → Group) : (s.modGroup r f).phase = s.phase := rfl
@[simp] theorem State.modGroup_node (s : State) (r : Nat) (f : Group → Group) : (s.modGroup r f).node = s.node := rfl
@[simp] theorem State.modGroup_profile (s : State) (r : Nat) (f : Group → Group) : (s.modGroup r f).profile = s.profile := rfl
@[simp] theorem State.modGroup_hostif (s : State) (r : Nat) (f : Group → Group) : (s.modGroup r f).hostif = s.hostif := rfl
@[simp] theorem State.modGroup_fabric (s : State) (r : Nat) (f : Group → Group) : (s.modGroup r f).fabric = s.fabric := rfl
@[simp] theorem State.modGroup_mgmt (s : State) (r : Nat) (f : Group → Group) : (s.modGroup r f).mgmt = s.mgmt := rfl
@[simp] theorem State.modGroup_out (s : State) (r : Nat) (f : Group → Group) : (s.modGroup r f).out = s.out := rfl
@[simp] theorem State.modGroup_agenda (s : State) (r : Nat) (f : Group → Group) : (s.modGroup r f).agenda = s.agenda := rfl
@[simp] theorem State.modGroup_cur (s : State) (r : Nat) (f : Group → Group) : (s.modGroup r f).cur = s.cur := rfl
@[simp] theorem State.modGroup_fresh (s : State) (r : Nat) (f : Group → Group) : (s.modGroup r f).fresh = s.fresh := rfl

/-! ## State.setCtx -/

@[simp] theorem State.setCtx_mem (s : State) (c : Nat) (C : Ctx) : (s.setCtx c C).mem = s.mem := rfl
@[simp] theorem State.setCtx_host (s : State) (c : Nat) (C : Ctx) : (s.setCtx c C).host = s.host := rfl
@[simp] theorem State.setCtx_gangs (s : State) (c : Nat) (C : Ctx) : (s.setCtx c C).gangs = s.gangs := rfl
@[simp] theorem State.setCtx_groups (s : State) (c : Nat) (C : Ctx) : (s.setCtx c C).groups = s.groups := rfl
@[simp] theorem State.setCtx_launches (s : State) (c : Nat) (C : Ctx) : (s.setCtx c C).launches = s.launches := rfl
@[simp] theorem State.setCtx_ctxs (s : State) (c : Nat) (C : Ctx) : (s.setCtx c C).ctxs = KV.set s.ctxs c C := rfl
@[simp] theorem State.setCtx_cores (s : State) (c : Nat) (C : Ctx) : (s.setCtx c C).cores = s.cores := rfl
@[simp] theorem State.setCtx_bents (s : State) (c : Nat) (C : Ctx) : (s.setCtx c C).bents = s.bents := rfl
@[simp] theorem State.setCtx_rings (s : State) (c : Nat) (C : Ctx) : (s.setCtx c C).rings = s.rings := rfl
@[simp] theorem State.setCtx_deferred (s : State) (c : Nat) (C : Ctx) : (s.setCtx c C).deferred = s.deferred := rfl
@[simp] theorem State.setCtx_ridgeMsgs (s : State) (c : Nat) (C : Ctx) : (s.setCtx c C).ridgeMsgs = s.ridgeMsgs := rfl
@[simp] theorem State.setCtx_removals (s : State) (c : Nat) (C : Ctx) : (s.setCtx c C).removals = s.removals := rfl
@[simp] theorem State.setCtx_ctxPtr (s : State) (c : Nat) (C : Ctx) : (s.setCtx c C).ctxPtr = s.ctxPtr := rfl
@[simp] theorem State.setCtx_queuePtr (s : State) (c : Nat) (C : Ctx) : (s.setCtx c C).queuePtr = s.queuePtr := rfl
@[simp] theorem State.setCtx_nextGang (s : State) (c : Nat) (C : Ctx) : (s.setCtx c C).nextGang = s.nextGang := rfl
@[simp] theorem State.setCtx_nextGroup (s : State) (c : Nat) (C : Ctx) : (s.setCtx c C).nextGroup = s.nextGroup := rfl
@[simp] theorem State.setCtx_nextLaunch (s : State) (c : Nat) (C : Ctx) : (s.setCtx c C).nextLaunch = s.nextLaunch := rfl
@[simp] theorem State.setCtx_nextReq (s : State) (c : Nat) (C : Ctx) : (s.setCtx c C).nextReq = s.nextReq := rfl
@[simp] theorem State.setCtx_strike (s : State) (c : Nat) (C : Ctx) : (s.setCtx c C).strike = s.strike := rfl
@[simp] theorem State.setCtx_sstrike (s : State) (c : Nat) (C : Ctx) : (s.setCtx c C).sstrike = s.sstrike := rfl
@[simp] theorem State.setCtx_phase (s : State) (c : Nat) (C : Ctx) : (s.setCtx c C).phase = s.phase := rfl
@[simp] theorem State.setCtx_node (s : State) (c : Nat) (C : Ctx) : (s.setCtx c C).node = s.node := rfl
@[simp] theorem State.setCtx_profile (s : State) (c : Nat) (C : Ctx) : (s.setCtx c C).profile = s.profile := rfl
@[simp] theorem State.setCtx_hostif (s : State) (c : Nat) (C : Ctx) : (s.setCtx c C).hostif = s.hostif := rfl
@[simp] theorem State.setCtx_fabric (s : State) (c : Nat) (C : Ctx) : (s.setCtx c C).fabric = s.fabric := rfl
@[simp] theorem State.setCtx_mgmt (s : State) (c : Nat) (C : Ctx) : (s.setCtx c C).mgmt = s.mgmt := rfl
@[simp] theorem State.setCtx_out (s : State) (c : Nat) (C : Ctx) : (s.setCtx c C).out = s.out := rfl
@[simp] theorem State.setCtx_agenda (s : State) (c : Nat) (C : Ctx) : (s.setCtx c C).agenda = s.agenda := rfl
@[simp] theorem State.setCtx_cur (s : State) (c : Nat) (C : Ctx) : (s.setCtx c C).cur = s.cur := rfl
@[simp] theorem State.setCtx_fresh (s : State) (c : Nat) (C : Ctx) : (s.setCtx c C).fresh = s.fresh := rfl

/-! ## State.setCore -/

@[simp] theorem State.setCore_mem (s : State) (c : Nat) (C : Core) : (s.setCore c C).mem = s.mem := rfl
@[simp] theorem State.setCore_host (s : State) (c : Nat) (C : Core) : (s.setCore c C).host = s.host := rfl
@[simp] theorem State.setCore_gangs (s : State) (c : Nat) (C : Core) : (s.setCore c C).gangs = s.gangs := rfl
@[simp] theorem State.setCore_groups (s : State) (c : Nat) (C : Core) : (s.setCore c C).groups = s.groups := rfl
@[simp] theorem State.setCore_launches (s : State) (c : Nat) (C : Core) : (s.setCore c C).launches = s.launches := rfl
@[simp] theorem State.setCore_ctxs (s : State) (c : Nat) (C : Core) : (s.setCore c C).ctxs = s.ctxs := rfl
@[simp] theorem State.setCore_cores (s : State) (c : Nat) (C : Core) : (s.setCore c C).cores = KV.set s.cores c C := rfl
@[simp] theorem State.setCore_bents (s : State) (c : Nat) (C : Core) : (s.setCore c C).bents = s.bents := rfl
@[simp] theorem State.setCore_rings (s : State) (c : Nat) (C : Core) : (s.setCore c C).rings = s.rings := rfl
@[simp] theorem State.setCore_deferred (s : State) (c : Nat) (C : Core) : (s.setCore c C).deferred = s.deferred := rfl
@[simp] theorem State.setCore_ridgeMsgs (s : State) (c : Nat) (C : Core) : (s.setCore c C).ridgeMsgs = s.ridgeMsgs := rfl
@[simp] theorem State.setCore_removals (s : State) (c : Nat) (C : Core) : (s.setCore c C).removals = s.removals := rfl
@[simp] theorem State.setCore_ctxPtr (s : State) (c : Nat) (C : Core) : (s.setCore c C).ctxPtr = s.ctxPtr := rfl
@[simp] theorem State.setCore_queuePtr (s : State) (c : Nat) (C : Core) : (s.setCore c C).queuePtr = s.queuePtr := rfl
@[simp] theorem State.setCore_nextGang (s : State) (c : Nat) (C : Core) : (s.setCore c C).nextGang = s.nextGang := rfl
@[simp] theorem State.setCore_nextGroup (s : State) (c : Nat) (C : Core) : (s.setCore c C).nextGroup = s.nextGroup := rfl
@[simp] theorem State.setCore_nextLaunch (s : State) (c : Nat) (C : Core) : (s.setCore c C).nextLaunch = s.nextLaunch := rfl
@[simp] theorem State.setCore_nextReq (s : State) (c : Nat) (C : Core) : (s.setCore c C).nextReq = s.nextReq := rfl
@[simp] theorem State.setCore_strike (s : State) (c : Nat) (C : Core) : (s.setCore c C).strike = s.strike := rfl
@[simp] theorem State.setCore_sstrike (s : State) (c : Nat) (C : Core) : (s.setCore c C).sstrike = s.sstrike := rfl
@[simp] theorem State.setCore_phase (s : State) (c : Nat) (C : Core) : (s.setCore c C).phase = s.phase := rfl
@[simp] theorem State.setCore_node (s : State) (c : Nat) (C : Core) : (s.setCore c C).node = s.node := rfl
@[simp] theorem State.setCore_profile (s : State) (c : Nat) (C : Core) : (s.setCore c C).profile = s.profile := rfl
@[simp] theorem State.setCore_hostif (s : State) (c : Nat) (C : Core) : (s.setCore c C).hostif = s.hostif := rfl
@[simp] theorem State.setCore_fabric (s : State) (c : Nat) (C : Core) : (s.setCore c C).fabric = s.fabric := rfl
@[simp] theorem State.setCore_mgmt (s : State) (c : Nat) (C : Core) : (s.setCore c C).mgmt = s.mgmt := rfl
@[simp] theorem State.setCore_out (s : State) (c : Nat) (C : Core) : (s.setCore c C).out = s.out := rfl
@[simp] theorem State.setCore_agenda (s : State) (c : Nat) (C : Core) : (s.setCore c C).agenda = s.agenda := rfl
@[simp] theorem State.setCore_cur (s : State) (c : Nat) (C : Core) : (s.setCore c C).cur = s.cur := rfl
@[simp] theorem State.setCore_fresh (s : State) (c : Nat) (C : Core) : (s.setCore c C).fresh = s.fresh := rfl

/-! ## State.setBent -/

@[simp] theorem State.setBent_mem (s : State) (b : Nat) (B : Bent) : (s.setBent b B).mem = s.mem := rfl
@[simp] theorem State.setBent_host (s : State) (b : Nat) (B : Bent) : (s.setBent b B).host = s.host := rfl
@[simp] theorem State.setBent_gangs (s : State) (b : Nat) (B : Bent) : (s.setBent b B).gangs = s.gangs := rfl
@[simp] theorem State.setBent_groups (s : State) (b : Nat) (B : Bent) : (s.setBent b B).groups = s.groups := rfl
@[simp] theorem State.setBent_launches (s : State) (b : Nat) (B : Bent) : (s.setBent b B).launches = s.launches := rfl
@[simp] theorem State.setBent_ctxs (s : State) (b : Nat) (B : Bent) : (s.setBent b B).ctxs = s.ctxs := rfl
@[simp] theorem State.setBent_cores (s : State) (b : Nat) (B : Bent) : (s.setBent b B).cores = s.cores := rfl
@[simp] theorem State.setBent_bents (s : State) (b : Nat) (B : Bent) : (s.setBent b B).bents = KV.set s.bents b B := rfl
@[simp] theorem State.setBent_rings (s : State) (b : Nat) (B : Bent) : (s.setBent b B).rings = s.rings := rfl
@[simp] theorem State.setBent_deferred (s : State) (b : Nat) (B : Bent) : (s.setBent b B).deferred = s.deferred := rfl
@[simp] theorem State.setBent_ridgeMsgs (s : State) (b : Nat) (B : Bent) : (s.setBent b B).ridgeMsgs = s.ridgeMsgs := rfl
@[simp] theorem State.setBent_removals (s : State) (b : Nat) (B : Bent) : (s.setBent b B).removals = s.removals := rfl
@[simp] theorem State.setBent_ctxPtr (s : State) (b : Nat) (B : Bent) : (s.setBent b B).ctxPtr = s.ctxPtr := rfl
@[simp] theorem State.setBent_queuePtr (s : State) (b : Nat) (B : Bent) : (s.setBent b B).queuePtr = s.queuePtr := rfl
@[simp] theorem State.setBent_nextGang (s : State) (b : Nat) (B : Bent) : (s.setBent b B).nextGang = s.nextGang := rfl
@[simp] theorem State.setBent_nextGroup (s : State) (b : Nat) (B : Bent) : (s.setBent b B).nextGroup = s.nextGroup := rfl
@[simp] theorem State.setBent_nextLaunch (s : State) (b : Nat) (B : Bent) : (s.setBent b B).nextLaunch = s.nextLaunch := rfl
@[simp] theorem State.setBent_nextReq (s : State) (b : Nat) (B : Bent) : (s.setBent b B).nextReq = s.nextReq := rfl
@[simp] theorem State.setBent_strike (s : State) (b : Nat) (B : Bent) : (s.setBent b B).strike = s.strike := rfl
@[simp] theorem State.setBent_sstrike (s : State) (b : Nat) (B : Bent) : (s.setBent b B).sstrike = s.sstrike := rfl
@[simp] theorem State.setBent_phase (s : State) (b : Nat) (B : Bent) : (s.setBent b B).phase = s.phase := rfl
@[simp] theorem State.setBent_node (s : State) (b : Nat) (B : Bent) : (s.setBent b B).node = s.node := rfl
@[simp] theorem State.setBent_profile (s : State) (b : Nat) (B : Bent) : (s.setBent b B).profile = s.profile := rfl
@[simp] theorem State.setBent_hostif (s : State) (b : Nat) (B : Bent) : (s.setBent b B).hostif = s.hostif := rfl
@[simp] theorem State.setBent_fabric (s : State) (b : Nat) (B : Bent) : (s.setBent b B).fabric = s.fabric := rfl
@[simp] theorem State.setBent_mgmt (s : State) (b : Nat) (B : Bent) : (s.setBent b B).mgmt = s.mgmt := rfl
@[simp] theorem State.setBent_out (s : State) (b : Nat) (B : Bent) : (s.setBent b B).out = s.out := rfl
@[simp] theorem State.setBent_agenda (s : State) (b : Nat) (B : Bent) : (s.setBent b B).agenda = s.agenda := rfl
@[simp] theorem State.setBent_cur (s : State) (b : Nat) (B : Bent) : (s.setBent b B).cur = s.cur := rfl
@[simp] theorem State.setBent_fresh (s : State) (b : Nat) (B : Bent) : (s.setBent b B).fresh = s.fresh := rfl

/-! ## State.emit -/

@[simp] theorem State.emit_mem (s : State) (x : Output) : (s.emit x).mem = s.mem := rfl
@[simp] theorem State.emit_host (s : State) (x : Output) : (s.emit x).host = s.host := rfl
@[simp] theorem State.emit_gangs (s : State) (x : Output) : (s.emit x).gangs = s.gangs := rfl
@[simp] theorem State.emit_groups (s : State) (x : Output) : (s.emit x).groups = s.groups := rfl
@[simp] theorem State.emit_launches (s : State) (x : Output) : (s.emit x).launches = s.launches := rfl
@[simp] theorem State.emit_ctxs (s : State) (x : Output) : (s.emit x).ctxs = s.ctxs := rfl
@[simp] theorem State.emit_cores (s : State) (x : Output) : (s.emit x).cores = s.cores := rfl
@[simp] theorem State.emit_bents (s : State) (x : Output) : (s.emit x).bents = s.bents := rfl
@[simp] theorem State.emit_rings (s : State) (x : Output) : (s.emit x).rings = s.rings := rfl
@[simp] theorem State.emit_deferred (s : State) (x : Output) : (s.emit x).deferred = s.deferred := rfl
@[simp] theorem State.emit_ridgeMsgs (s : State) (x : Output) : (s.emit x).ridgeMsgs = s.ridgeMsgs := rfl
@[simp] theorem State.emit_removals (s : State) (x : Output) : (s.emit x).removals = s.removals := rfl
@[simp] theorem State.emit_ctxPtr (s : State) (x : Output) : (s.emit x).ctxPtr = s.ctxPtr := rfl
@[simp] theorem State.emit_queuePtr (s : State) (x : Output) : (s.emit x).queuePtr = s.queuePtr := rfl
@[simp] theorem State.emit_nextGang (s : State) (x : Output) : (s.emit x).nextGang = s.nextGang := rfl
@[simp] theorem State.emit_nextGroup (s : State) (x : Output) : (s.emit x).nextGroup = s.nextGroup := rfl
@[simp] theorem State.emit_nextLaunch (s : State) (x : Output) : (s.emit x).nextLaunch = s.nextLaunch := rfl
@[simp] theorem State.emit_nextReq (s : State) (x : Output) : (s.emit x).nextReq = s.nextReq := rfl
@[simp] theorem State.emit_strike (s : State) (x : Output) : (s.emit x).strike = s.strike := rfl
@[simp] theorem State.emit_sstrike (s : State) (x : Output) : (s.emit x).sstrike = s.sstrike := rfl
@[simp] theorem State.emit_phase (s : State) (x : Output) : (s.emit x).phase = s.phase := rfl
@[simp] theorem State.emit_node (s : State) (x : Output) : (s.emit x).node = s.node := rfl
@[simp] theorem State.emit_profile (s : State) (x : Output) : (s.emit x).profile = s.profile := rfl
@[simp] theorem State.emit_hostif (s : State) (x : Output) : (s.emit x).hostif = s.hostif := rfl
@[simp] theorem State.emit_fabric (s : State) (x : Output) : (s.emit x).fabric = s.fabric := rfl
@[simp] theorem State.emit_mgmt (s : State) (x : Output) : (s.emit x).mgmt = s.mgmt := rfl
@[simp] theorem State.emit_out (s : State) (x : Output) : (s.emit x).out = s.out ++ [x] := rfl
@[simp] theorem State.emit_agenda (s : State) (x : Output) : (s.emit x).agenda = s.agenda := rfl
@[simp] theorem State.emit_cur (s : State) (x : Output) : (s.emit x).cur = s.cur := rfl
@[simp] theorem State.emit_fresh (s : State) (x : Output) : (s.emit x).fresh = s.fresh := rfl

/-! ## State.tick -/

@[simp] theorem State.tick_mem (s : State) : (s.tick).mem = s.mem := rfl
@[simp] theorem State.tick_host (s : State) : (s.tick).host = s.host := rfl
@[simp] theorem State.tick_gangs (s : State) : (s.tick).gangs = s.gangs := rfl
@[simp] theorem State.tick_groups (s : State) : (s.tick).groups = s.groups := rfl
@[simp] theorem State.tick_launches (s : State) : (s.tick).launches = s.launches := rfl
@[simp] theorem State.tick_ctxs (s : State) : (s.tick).ctxs = s.ctxs := rfl
@[simp] theorem State.tick_cores (s : State) : (s.tick).cores = s.cores := rfl
@[simp] theorem State.tick_bents (s : State) : (s.tick).bents = s.bents := rfl
@[simp] theorem State.tick_rings (s : State) : (s.tick).rings = s.rings := rfl
@[simp] theorem State.tick_deferred (s : State) : (s.tick).deferred = s.deferred := rfl
@[simp] theorem State.tick_ridgeMsgs (s : State) : (s.tick).ridgeMsgs = s.ridgeMsgs := rfl
@[simp] theorem State.tick_removals (s : State) : (s.tick).removals = s.removals := rfl
@[simp] theorem State.tick_ctxPtr (s : State) : (s.tick).ctxPtr = s.ctxPtr := rfl
@[simp] theorem State.tick_queuePtr (s : State) : (s.tick).queuePtr = s.queuePtr := rfl
@[simp] theorem State.tick_nextGang (s : State) : (s.tick).nextGang = s.nextGang := rfl
@[simp] theorem State.tick_nextGroup (s : State) : (s.tick).nextGroup = s.nextGroup := rfl
@[simp] theorem State.tick_nextLaunch (s : State) : (s.tick).nextLaunch = s.nextLaunch := rfl
@[simp] theorem State.tick_nextReq (s : State) : (s.tick).nextReq = s.nextReq := rfl
@[simp] theorem State.tick_strike (s : State) : (s.tick).strike = s.strike := rfl
@[simp] theorem State.tick_sstrike (s : State) : (s.tick).sstrike = s.sstrike := rfl
@[simp] theorem State.tick_phase (s : State) : (s.tick).phase = s.phase := rfl
@[simp] theorem State.tick_node (s : State) : (s.tick).node = s.node := rfl
@[simp] theorem State.tick_profile (s : State) : (s.tick).profile = s.profile := rfl
@[simp] theorem State.tick_hostif (s : State) : (s.tick).hostif = s.hostif := rfl
@[simp] theorem State.tick_fabric (s : State) : (s.tick).fabric = s.fabric := rfl
@[simp] theorem State.tick_mgmt (s : State) : (s.tick).mgmt = s.mgmt := rfl
@[simp] theorem State.tick_out (s : State) : (s.tick).out = s.out := rfl
@[simp] theorem State.tick_agenda (s : State) : (s.tick).agenda = s.agenda := rfl
@[simp] theorem State.tick_cur (s : State) : (s.tick).cur = s.cur := rfl
@[simp] theorem State.tick_fresh (s : State) : (s.tick).fresh = s.fresh + 1 := rfl

/-! ## Gang.setV -/

@[simp] theorem Gang.setV_ctx (g : Gang) (n l : Nat) (w : Word) : (g.setV n l w).ctx = g.ctx := rfl
@[simp] theorem Gang.setV_inc (g : Gang) (n l : Nat) (w : Word) : (g.setV n l w).inc = g.inc := rfl
@[simp] theorem Gang.setV_group (g : Gang) (n l : Nat) (w : Word) : (g.setV n l w).group = g.group := rfl
@[simp] theorem Gang.setV_idx (g : Gang) (n l : Nat) (w : Word) : (g.setV n l w).idx = g.idx := rfl
@[simp] theorem Gang.setV_slot (g : Gang) (n l : Nat) (w : Word) : (g.setV n l w).slot = g.slot := rfl
@[simp] theorem Gang.setV_core (g : Gang) (n l : Nat) (w : Word) : (g.setV n l w).core = g.core := rfl
@[simp] theorem Gang.setV_st (g : Gang) (n l : Nat) (w : Word) : (g.setV n l w).st = g.st := rfl
@[simp] theorem Gang.setV_prot (g : Gang) (n l : Nat) (w : Word) : (g.setV n l w).prot = g.prot := rfl
@[simp] theorem Gang.setV_nslices (g : Gang) (n l : Nat) (w : Word) : (g.setV n l w).nslices = g.nslices := rfl
@[simp] theorem Gang.setV_privBytes (g : Gang) (n l : Nat) (w : Word) : (g.setV n l w).privBytes = g.privBytes := rfl
@[simp] theorem Gang.setV_handler (g : Gang) (n l : Nat) (w : Word) : (g.setV n l w).handler = g.handler := rfl
@[simp] theorem Gang.setV_limit (g : Gang) (n l : Nat) (w : Word) : (g.setV n l w).limit = g.limit := rfl
@[simp] theorem Gang.setV_scope (g : Gang) (n l : Nat) (w : Word) : (g.setV n l w).scope = g.scope := rfl
@[simp] theorem Gang.setV_live (g : Gang) (n l : Nat) (w : Word) : (g.setV n l w).live = g.live := rfl
@[simp] theorem Gang.setV_role (g : Gang) (n l : Nat) (w : Word) : (g.setV n l w).role = g.role := rfl
@[simp] theorem Gang.setV_segs (g : Gang) (n l : Nat) (w : Word) : (g.setV n l w).segs = g.segs := rfl
@[simp] theorem Gang.setV_priv (g : Gang) (n l : Nat) (w : Word) : (g.setV n l w).priv = g.priv := rfl
@[simp] theorem Gang.setV_s (g : Gang) (n l : Nat) (w : Word) : (g.setV n l w).s = g.s := rfl
@[simp] theorem Gang.setV_m (g : Gang) (n l : Nat) (w : Word) : (g.setV n l w).m = g.m := rfl
@[simp] theorem Gang.setV_v (g : Gang) (n l : Nat) (w : Word) : (g.setV n l w).v = KV.put 0 g.v (n * 32 + l) w := rfl
@[simp] theorem Gang.setV_bnd (g : Gang) (n l : Nat) (w : Word) : (g.setV n l w).bnd = g.bnd := rfl
@[simp] theorem Gang.setV_alt (g : Gang) (n l : Nat) (w : Word) : (g.setV n l w).alt = g.alt := rfl
@[simp] theorem Gang.setV_mode (g : Gang) (n l : Nat) (w : Word) : (g.setV n l w).mode = g.mode := rfl
@[simp] theorem Gang.setV_stat (g : Gang) (n l : Nat) (w : Word) : (g.setV n l w).stat = g.stat := rfl
@[simp] theorem Gang.setV_pend (g : Gang) (n l : Nat) (w : Word) : (g.setV n l w).pend = g.pend := rfl
@[simp] theorem Gang.setV_ops (g : Gang) (n l : Nat) (w : Word) : (g.setV n l w).ops = g.ops := rfl
@[simp] theorem Gang.setV_nextOp (g : Gang) (n l : Nat) (w : Word) : (g.setV n l w).nextOp = g.nextOp := rfl
@[simp] theorem Gang.setV_splits (g : Gang) (n l : Nat) (w : Word) : (g.setV n l w).splits = g.splits := rfl
@[simp] theorem Gang.setV_arrs (g : Gang) (n l : Nat) (w : Word) : (g.setV n l w).arrs = g.arrs := rfl
@[simp] theorem Gang.setV_wd (g : Gang) (n l : Nat) (w : Word) : (g.setV n l w).wd = g.wd := rfl
@[simp] theorem Gang.setV_trap (g : Gang) (n l : Nat) (w : Word) : (g.setV n l w).trap = g.trap := rfl
@[simp] theorem Gang.setV_held (g : Gang) (n l : Nat) (w : Word) : (g.setV n l w).held = g.held := rfl
@[simp] theorem Gang.setV_tile (g : Gang) (n l : Nat) (w : Word) : (g.setV n l w).tile = g.tile := rfl
@[simp] theorem Gang.setV_seq (g : Gang) (n l : Nat) (w : Word) : (g.setV n l w).seq = g.seq := rfl
@[simp] theorem Gang.setV_copies (g : Gang) (n l : Nat) (w : Word) : (g.setV n l w).copies = g.copies := rfl
@[simp] theorem Gang.setV_queues (g : Gang) (n l : Nat) (w : Word) : (g.setV n l w).queues = g.queues := rfl
@[simp] theorem Gang.setV_member (g : Gang) (n l : Nat) (w : Word) : (g.setV n l w).member = g.member := rfl
@[simp] theorem Gang.setV_binds (g : Gang) (n l : Nat) (w : Word) : (g.setV n l w).binds = g.binds := rfl
@[simp] theorem Gang.setV_tt (g : Gang) (n l : Nat) (w : Word) : (g.setV n l w).tt = g.tt := rfl
@[simp] theorem Gang.setV_bt (g : Gang) (n l : Nat) (w : Word) : (g.setV n l w).bt = g.bt := rfl
@[simp] theorem Gang.setV_search (g : Gang) (n l : Nat) (w : Word) : (g.setV n l w).search = g.search := rfl
@[simp] theorem Gang.setV_ridge (g : Gang) (n l : Nat) (w : Word) : (g.setV n l w).ridge = g.ridge := rfl
@[simp] theorem Gang.setV_tag (g : Gang) (n l : Nat) (w : Word) : (g.setV n l w).tag = g.tag := rfl
@[simp] theorem Gang.setV_differs (g : Gang) (n l : Nat) (w : Word) : (g.setV n l w).differs = g.differs := rfl

/-! ## Gang.setS -/

@[simp] theorem Gang.setS_ctx (g : Gang) (n : Nat) (w : Dword) : (g.setS n w).ctx = g.ctx := rfl
@[simp] theorem Gang.setS_inc (g : Gang) (n : Nat) (w : Dword) : (g.setS n w).inc = g.inc := rfl
@[simp] theorem Gang.setS_group (g : Gang) (n : Nat) (w : Dword) : (g.setS n w).group = g.group := rfl
@[simp] theorem Gang.setS_idx (g : Gang) (n : Nat) (w : Dword) : (g.setS n w).idx = g.idx := rfl
@[simp] theorem Gang.setS_slot (g : Gang) (n : Nat) (w : Dword) : (g.setS n w).slot = g.slot := rfl
@[simp] theorem Gang.setS_core (g : Gang) (n : Nat) (w : Dword) : (g.setS n w).core = g.core := rfl
@[simp] theorem Gang.setS_st (g : Gang) (n : Nat) (w : Dword) : (g.setS n w).st = g.st := rfl
@[simp] theorem Gang.setS_prot (g : Gang) (n : Nat) (w : Dword) : (g.setS n w).prot = g.prot := rfl
@[simp] theorem Gang.setS_nslices (g : Gang) (n : Nat) (w : Dword) : (g.setS n w).nslices = g.nslices := rfl
@[simp] theorem Gang.setS_privBytes (g : Gang) (n : Nat) (w : Dword) : (g.setS n w).privBytes = g.privBytes := rfl
@[simp] theorem Gang.setS_handler (g : Gang) (n : Nat) (w : Dword) : (g.setS n w).handler = g.handler := rfl
@[simp] theorem Gang.setS_limit (g : Gang) (n : Nat) (w : Dword) : (g.setS n w).limit = g.limit := rfl
@[simp] theorem Gang.setS_scope (g : Gang) (n : Nat) (w : Dword) : (g.setS n w).scope = g.scope := rfl
@[simp] theorem Gang.setS_live (g : Gang) (n : Nat) (w : Dword) : (g.setS n w).live = g.live := rfl
@[simp] theorem Gang.setS_role (g : Gang) (n : Nat) (w : Dword) : (g.setS n w).role = g.role := rfl
@[simp] theorem Gang.setS_segs (g : Gang) (n : Nat) (w : Dword) : (g.setS n w).segs = g.segs := rfl
@[simp] theorem Gang.setS_priv (g : Gang) (n : Nat) (w : Dword) : (g.setS n w).priv = g.priv := rfl
@[simp] theorem Gang.setS_s (g : Gang) (n : Nat) (w : Dword) : (g.setS n w).s = KV.put 0 g.s n w := rfl
@[simp] theorem Gang.setS_m (g : Gang) (n : Nat) (w : Dword) : (g.setS n w).m = g.m := rfl
@[simp] theorem Gang.setS_v (g : Gang) (n : Nat) (w : Dword) : (g.setS n w).v = g.v := rfl
@[simp] theorem Gang.setS_bnd (g : Gang) (n : Nat) (w : Dword) : (g.setS n w).bnd = g.bnd := rfl
@[simp] theorem Gang.setS_alt (g : Gang) (n : Nat) (w : Dword) : (g.setS n w).alt = g.alt := rfl
@[simp] theorem Gang.setS_mode (g : Gang) (n : Nat) (w : Dword) : (g.setS n w).mode = g.mode := rfl
@[simp] theorem Gang.setS_stat (g : Gang) (n : Nat) (w : Dword) : (g.setS n w).stat = g.stat := rfl
@[simp] theorem Gang.setS_pend (g : Gang) (n : Nat) (w : Dword) : (g.setS n w).pend = g.pend := rfl
@[simp] theorem Gang.setS_ops (g : Gang) (n : Nat) (w : Dword) : (g.setS n w).ops = g.ops := rfl
@[simp] theorem Gang.setS_nextOp (g : Gang) (n : Nat) (w : Dword) : (g.setS n w).nextOp = g.nextOp := rfl
@[simp] theorem Gang.setS_splits (g : Gang) (n : Nat) (w : Dword) : (g.setS n w).splits = g.splits := rfl
@[simp] theorem Gang.setS_arrs (g : Gang) (n : Nat) (w : Dword) : (g.setS n w).arrs = g.arrs := rfl
@[simp] theorem Gang.setS_wd (g : Gang) (n : Nat) (w : Dword) : (g.setS n w).wd = g.wd := rfl
@[simp] theorem Gang.setS_trap (g : Gang) (n : Nat) (w : Dword) : (g.setS n w).trap = g.trap := rfl
@[simp] theorem Gang.setS_held (g : Gang) (n : Nat) (w : Dword) : (g.setS n w).held = g.held := rfl
@[simp] theorem Gang.setS_tile (g : Gang) (n : Nat) (w : Dword) : (g.setS n w).tile = g.tile := rfl
@[simp] theorem Gang.setS_seq (g : Gang) (n : Nat) (w : Dword) : (g.setS n w).seq = g.seq := rfl
@[simp] theorem Gang.setS_copies (g : Gang) (n : Nat) (w : Dword) : (g.setS n w).copies = g.copies := rfl
@[simp] theorem Gang.setS_queues (g : Gang) (n : Nat) (w : Dword) : (g.setS n w).queues = g.queues := rfl
@[simp] theorem Gang.setS_member (g : Gang) (n : Nat) (w : Dword) : (g.setS n w).member = g.member := rfl
@[simp] theorem Gang.setS_binds (g : Gang) (n : Nat) (w : Dword) : (g.setS n w).binds = g.binds := rfl
@[simp] theorem Gang.setS_tt (g : Gang) (n : Nat) (w : Dword) : (g.setS n w).tt = g.tt := rfl
@[simp] theorem Gang.setS_bt (g : Gang) (n : Nat) (w : Dword) : (g.setS n w).bt = g.bt := rfl
@[simp] theorem Gang.setS_search (g : Gang) (n : Nat) (w : Dword) : (g.setS n w).search = g.search := rfl
@[simp] theorem Gang.setS_ridge (g : Gang) (n : Nat) (w : Dword) : (g.setS n w).ridge = g.ridge := rfl
@[simp] theorem Gang.setS_tag (g : Gang) (n : Nat) (w : Dword) : (g.setS n w).tag = g.tag := rfl
@[simp] theorem Gang.setS_differs (g : Gang) (n : Nat) (w : Dword) : (g.setS n w).differs = g.differs := rfl

/-! ## Gang.setM -/

@[simp] theorem Gang.setM_ctx (g : Gang) (n : Nat) (w : Word) : (g.setM n w).ctx = g.ctx := rfl
@[simp] theorem Gang.setM_inc (g : Gang) (n : Nat) (w : Word) : (g.setM n w).inc = g.inc := rfl
@[simp] theorem Gang.setM_group (g : Gang) (n : Nat) (w : Word) : (g.setM n w).group = g.group := rfl
@[simp] theorem Gang.setM_idx (g : Gang) (n : Nat) (w : Word) : (g.setM n w).idx = g.idx := rfl
@[simp] theorem Gang.setM_slot (g : Gang) (n : Nat) (w : Word) : (g.setM n w).slot = g.slot := rfl
@[simp] theorem Gang.setM_core (g : Gang) (n : Nat) (w : Word) : (g.setM n w).core = g.core := rfl
@[simp] theorem Gang.setM_st (g : Gang) (n : Nat) (w : Word) : (g.setM n w).st = g.st := rfl
@[simp] theorem Gang.setM_prot (g : Gang) (n : Nat) (w : Word) : (g.setM n w).prot = g.prot := rfl
@[simp] theorem Gang.setM_nslices (g : Gang) (n : Nat) (w : Word) : (g.setM n w).nslices = g.nslices := rfl
@[simp] theorem Gang.setM_privBytes (g : Gang) (n : Nat) (w : Word) : (g.setM n w).privBytes = g.privBytes := rfl
@[simp] theorem Gang.setM_handler (g : Gang) (n : Nat) (w : Word) : (g.setM n w).handler = g.handler := rfl
@[simp] theorem Gang.setM_limit (g : Gang) (n : Nat) (w : Word) : (g.setM n w).limit = g.limit := rfl
@[simp] theorem Gang.setM_scope (g : Gang) (n : Nat) (w : Word) : (g.setM n w).scope = g.scope := rfl
@[simp] theorem Gang.setM_live (g : Gang) (n : Nat) (w : Word) : (g.setM n w).live = g.live := rfl
@[simp] theorem Gang.setM_role (g : Gang) (n : Nat) (w : Word) : (g.setM n w).role = g.role := rfl
@[simp] theorem Gang.setM_segs (g : Gang) (n : Nat) (w : Word) : (g.setM n w).segs = g.segs := rfl
@[simp] theorem Gang.setM_priv (g : Gang) (n : Nat) (w : Word) : (g.setM n w).priv = g.priv := rfl
@[simp] theorem Gang.setM_s (g : Gang) (n : Nat) (w : Word) : (g.setM n w).s = g.s := rfl
@[simp] theorem Gang.setM_m (g : Gang) (n : Nat) (w : Word) : (g.setM n w).m = KV.put 0 g.m n w := rfl
@[simp] theorem Gang.setM_v (g : Gang) (n : Nat) (w : Word) : (g.setM n w).v = g.v := rfl
@[simp] theorem Gang.setM_bnd (g : Gang) (n : Nat) (w : Word) : (g.setM n w).bnd = g.bnd := rfl
@[simp] theorem Gang.setM_alt (g : Gang) (n : Nat) (w : Word) : (g.setM n w).alt = g.alt := rfl
@[simp] theorem Gang.setM_mode (g : Gang) (n : Nat) (w : Word) : (g.setM n w).mode = g.mode := rfl
@[simp] theorem Gang.setM_stat (g : Gang) (n : Nat) (w : Word) : (g.setM n w).stat = g.stat := rfl
@[simp] theorem Gang.setM_pend (g : Gang) (n : Nat) (w : Word) : (g.setM n w).pend = g.pend := rfl
@[simp] theorem Gang.setM_ops (g : Gang) (n : Nat) (w : Word) : (g.setM n w).ops = g.ops := rfl
@[simp] theorem Gang.setM_nextOp (g : Gang) (n : Nat) (w : Word) : (g.setM n w).nextOp = g.nextOp := rfl
@[simp] theorem Gang.setM_splits (g : Gang) (n : Nat) (w : Word) : (g.setM n w).splits = g.splits := rfl
@[simp] theorem Gang.setM_arrs (g : Gang) (n : Nat) (w : Word) : (g.setM n w).arrs = g.arrs := rfl
@[simp] theorem Gang.setM_wd (g : Gang) (n : Nat) (w : Word) : (g.setM n w).wd = g.wd := rfl
@[simp] theorem Gang.setM_trap (g : Gang) (n : Nat) (w : Word) : (g.setM n w).trap = g.trap := rfl
@[simp] theorem Gang.setM_held (g : Gang) (n : Nat) (w : Word) : (g.setM n w).held = g.held := rfl
@[simp] theorem Gang.setM_tile (g : Gang) (n : Nat) (w : Word) : (g.setM n w).tile = g.tile := rfl
@[simp] theorem Gang.setM_seq (g : Gang) (n : Nat) (w : Word) : (g.setM n w).seq = g.seq := rfl
@[simp] theorem Gang.setM_copies (g : Gang) (n : Nat) (w : Word) : (g.setM n w).copies = g.copies := rfl
@[simp] theorem Gang.setM_queues (g : Gang) (n : Nat) (w : Word) : (g.setM n w).queues = g.queues := rfl
@[simp] theorem Gang.setM_member (g : Gang) (n : Nat) (w : Word) : (g.setM n w).member = g.member := rfl
@[simp] theorem Gang.setM_binds (g : Gang) (n : Nat) (w : Word) : (g.setM n w).binds = g.binds := rfl
@[simp] theorem Gang.setM_tt (g : Gang) (n : Nat) (w : Word) : (g.setM n w).tt = g.tt := rfl
@[simp] theorem Gang.setM_bt (g : Gang) (n : Nat) (w : Word) : (g.setM n w).bt = g.bt := rfl
@[simp] theorem Gang.setM_search (g : Gang) (n : Nat) (w : Word) : (g.setM n w).search = g.search := rfl
@[simp] theorem Gang.setM_ridge (g : Gang) (n : Nat) (w : Word) : (g.setM n w).ridge = g.ridge := rfl
@[simp] theorem Gang.setM_tag (g : Gang) (n : Nat) (w : Word) : (g.setM n w).tag = g.tag := rfl
@[simp] theorem Gang.setM_differs (g : Gang) (n : Nat) (w : Word) : (g.setM n w).differs = g.differs := rfl

/-! ## Gang.setBnd -/

@[simp] theorem Gang.setBnd_ctx (g : Gang) (l : Nat) (w : Word) : (g.setBnd l w).ctx = g.ctx := rfl
@[simp] theorem Gang.setBnd_inc (g : Gang) (l : Nat) (w : Word) : (g.setBnd l w).inc = g.inc := rfl
@[simp] theorem Gang.setBnd_group (g : Gang) (l : Nat) (w : Word) : (g.setBnd l w).group = g.group := rfl
@[simp] theorem Gang.setBnd_idx (g : Gang) (l : Nat) (w : Word) : (g.setBnd l w).idx = g.idx := rfl
@[simp] theorem Gang.setBnd_slot (g : Gang) (l : Nat) (w : Word) : (g.setBnd l w).slot = g.slot := rfl
@[simp] theorem Gang.setBnd_core (g : Gang) (l : Nat) (w : Word) : (g.setBnd l w).core = g.core := rfl
@[simp] theorem Gang.setBnd_st (g : Gang) (l : Nat) (w : Word) : (g.setBnd l w).st = g.st := rfl
@[simp] theorem Gang.setBnd_prot (g : Gang) (l : Nat) (w : Word) : (g.setBnd l w).prot = g.prot := rfl
@[simp] theorem Gang.setBnd_nslices (g : Gang) (l : Nat) (w : Word) : (g.setBnd l w).nslices = g.nslices := rfl
@[simp] theorem Gang.setBnd_privBytes (g : Gang) (l : Nat) (w : Word) : (g.setBnd l w).privBytes = g.privBytes := rfl
@[simp] theorem Gang.setBnd_handler (g : Gang) (l : Nat) (w : Word) : (g.setBnd l w).handler = g.handler := rfl
@[simp] theorem Gang.setBnd_limit (g : Gang) (l : Nat) (w : Word) : (g.setBnd l w).limit = g.limit := rfl
@[simp] theorem Gang.setBnd_scope (g : Gang) (l : Nat) (w : Word) : (g.setBnd l w).scope = g.scope := rfl
@[simp] theorem Gang.setBnd_live (g : Gang) (l : Nat) (w : Word) : (g.setBnd l w).live = g.live := rfl
@[simp] theorem Gang.setBnd_role (g : Gang) (l : Nat) (w : Word) : (g.setBnd l w).role = g.role := rfl
@[simp] theorem Gang.setBnd_segs (g : Gang) (l : Nat) (w : Word) : (g.setBnd l w).segs = g.segs := rfl
@[simp] theorem Gang.setBnd_priv (g : Gang) (l : Nat) (w : Word) : (g.setBnd l w).priv = g.priv := rfl
@[simp] theorem Gang.setBnd_s (g : Gang) (l : Nat) (w : Word) : (g.setBnd l w).s = g.s := rfl
@[simp] theorem Gang.setBnd_m (g : Gang) (l : Nat) (w : Word) : (g.setBnd l w).m = g.m := rfl
@[simp] theorem Gang.setBnd_v (g : Gang) (l : Nat) (w : Word) : (g.setBnd l w).v = g.v := rfl
@[simp] theorem Gang.setBnd_bnd (g : Gang) (l : Nat) (w : Word) : (g.setBnd l w).bnd = KV.put 0 g.bnd l w := rfl
@[simp] theorem Gang.setBnd_alt (g : Gang) (l : Nat) (w : Word) : (g.setBnd l w).alt = g.alt := rfl
@[simp] theorem Gang.setBnd_mode (g : Gang) (l : Nat) (w : Word) : (g.setBnd l w).mode = g.mode := rfl
@[simp] theorem Gang.setBnd_stat (g : Gang) (l : Nat) (w : Word) : (g.setBnd l w).stat = g.stat := rfl
@[simp] theorem Gang.setBnd_pend (g : Gang) (l : Nat) (w : Word) : (g.setBnd l w).pend = g.pend := rfl
@[simp] theorem Gang.setBnd_ops (g : Gang) (l : Nat) (w : Word) : (g.setBnd l w).ops = g.ops := rfl
@[simp] theorem Gang.setBnd_nextOp (g : Gang) (l : Nat) (w : Word) : (g.setBnd l w).nextOp = g.nextOp := rfl
@[simp] theorem Gang.setBnd_splits (g : Gang) (l : Nat) (w : Word) : (g.setBnd l w).splits = g.splits := rfl
@[simp] theorem Gang.setBnd_arrs (g : Gang) (l : Nat) (w : Word) : (g.setBnd l w).arrs = g.arrs := rfl
@[simp] theorem Gang.setBnd_wd (g : Gang) (l : Nat) (w : Word) : (g.setBnd l w).wd = g.wd := rfl
@[simp] theorem Gang.setBnd_trap (g : Gang) (l : Nat) (w : Word) : (g.setBnd l w).trap = g.trap := rfl
@[simp] theorem Gang.setBnd_held (g : Gang) (l : Nat) (w : Word) : (g.setBnd l w).held = g.held := rfl
@[simp] theorem Gang.setBnd_tile (g : Gang) (l : Nat) (w : Word) : (g.setBnd l w).tile = g.tile := rfl
@[simp] theorem Gang.setBnd_seq (g : Gang) (l : Nat) (w : Word) : (g.setBnd l w).seq = g.seq := rfl
@[simp] theorem Gang.setBnd_copies (g : Gang) (l : Nat) (w : Word) : (g.setBnd l w).copies = g.copies := rfl
@[simp] theorem Gang.setBnd_queues (g : Gang) (l : Nat) (w : Word) : (g.setBnd l w).queues = g.queues := rfl
@[simp] theorem Gang.setBnd_member (g : Gang) (l : Nat) (w : Word) : (g.setBnd l w).member = g.member := rfl
@[simp] theorem Gang.setBnd_binds (g : Gang) (l : Nat) (w : Word) : (g.setBnd l w).binds = g.binds := rfl
@[simp] theorem Gang.setBnd_tt (g : Gang) (l : Nat) (w : Word) : (g.setBnd l w).tt = g.tt := rfl
@[simp] theorem Gang.setBnd_bt (g : Gang) (l : Nat) (w : Word) : (g.setBnd l w).bt = g.bt := rfl
@[simp] theorem Gang.setBnd_search (g : Gang) (l : Nat) (w : Word) : (g.setBnd l w).search = g.search := rfl
@[simp] theorem Gang.setBnd_ridge (g : Gang) (l : Nat) (w : Word) : (g.setBnd l w).ridge = g.ridge := rfl
@[simp] theorem Gang.setBnd_tag (g : Gang) (l : Nat) (w : Word) : (g.setBnd l w).tag = g.tag := rfl
@[simp] theorem Gang.setBnd_differs (g : Gang) (l : Nat) (w : Word) : (g.setBnd l w).differs = g.differs := rfl

/-! ## Gang.setAlt -/

@[simp] theorem Gang.setAlt_ctx (g : Gang) (l : Nat) (w : Word) : (g.setAlt l w).ctx = g.ctx := rfl
@[simp] theorem Gang.setAlt_inc (g : Gang) (l : Nat) (w : Word) : (g.setAlt l w).inc = g.inc := rfl
@[simp] theorem Gang.setAlt_group (g : Gang) (l : Nat) (w : Word) : (g.setAlt l w).group = g.group := rfl
@[simp] theorem Gang.setAlt_idx (g : Gang) (l : Nat) (w : Word) : (g.setAlt l w).idx = g.idx := rfl
@[simp] theorem Gang.setAlt_slot (g : Gang) (l : Nat) (w : Word) : (g.setAlt l w).slot = g.slot := rfl
@[simp] theorem Gang.setAlt_core (g : Gang) (l : Nat) (w : Word) : (g.setAlt l w).core = g.core := rfl
@[simp] theorem Gang.setAlt_st (g : Gang) (l : Nat) (w : Word) : (g.setAlt l w).st = g.st := rfl
@[simp] theorem Gang.setAlt_prot (g : Gang) (l : Nat) (w : Word) : (g.setAlt l w).prot = g.prot := rfl
@[simp] theorem Gang.setAlt_nslices (g : Gang) (l : Nat) (w : Word) : (g.setAlt l w).nslices = g.nslices := rfl
@[simp] theorem Gang.setAlt_privBytes (g : Gang) (l : Nat) (w : Word) : (g.setAlt l w).privBytes = g.privBytes := rfl
@[simp] theorem Gang.setAlt_handler (g : Gang) (l : Nat) (w : Word) : (g.setAlt l w).handler = g.handler := rfl
@[simp] theorem Gang.setAlt_limit (g : Gang) (l : Nat) (w : Word) : (g.setAlt l w).limit = g.limit := rfl
@[simp] theorem Gang.setAlt_scope (g : Gang) (l : Nat) (w : Word) : (g.setAlt l w).scope = g.scope := rfl
@[simp] theorem Gang.setAlt_live (g : Gang) (l : Nat) (w : Word) : (g.setAlt l w).live = g.live := rfl
@[simp] theorem Gang.setAlt_role (g : Gang) (l : Nat) (w : Word) : (g.setAlt l w).role = g.role := rfl
@[simp] theorem Gang.setAlt_segs (g : Gang) (l : Nat) (w : Word) : (g.setAlt l w).segs = g.segs := rfl
@[simp] theorem Gang.setAlt_priv (g : Gang) (l : Nat) (w : Word) : (g.setAlt l w).priv = g.priv := rfl
@[simp] theorem Gang.setAlt_s (g : Gang) (l : Nat) (w : Word) : (g.setAlt l w).s = g.s := rfl
@[simp] theorem Gang.setAlt_m (g : Gang) (l : Nat) (w : Word) : (g.setAlt l w).m = g.m := rfl
@[simp] theorem Gang.setAlt_v (g : Gang) (l : Nat) (w : Word) : (g.setAlt l w).v = g.v := rfl
@[simp] theorem Gang.setAlt_bnd (g : Gang) (l : Nat) (w : Word) : (g.setAlt l w).bnd = g.bnd := rfl
@[simp] theorem Gang.setAlt_alt (g : Gang) (l : Nat) (w : Word) : (g.setAlt l w).alt = KV.put 0 g.alt l w := rfl
@[simp] theorem Gang.setAlt_mode (g : Gang) (l : Nat) (w : Word) : (g.setAlt l w).mode = g.mode := rfl
@[simp] theorem Gang.setAlt_stat (g : Gang) (l : Nat) (w : Word) : (g.setAlt l w).stat = g.stat := rfl
@[simp] theorem Gang.setAlt_pend (g : Gang) (l : Nat) (w : Word) : (g.setAlt l w).pend = g.pend := rfl
@[simp] theorem Gang.setAlt_ops (g : Gang) (l : Nat) (w : Word) : (g.setAlt l w).ops = g.ops := rfl
@[simp] theorem Gang.setAlt_nextOp (g : Gang) (l : Nat) (w : Word) : (g.setAlt l w).nextOp = g.nextOp := rfl
@[simp] theorem Gang.setAlt_splits (g : Gang) (l : Nat) (w : Word) : (g.setAlt l w).splits = g.splits := rfl
@[simp] theorem Gang.setAlt_arrs (g : Gang) (l : Nat) (w : Word) : (g.setAlt l w).arrs = g.arrs := rfl
@[simp] theorem Gang.setAlt_wd (g : Gang) (l : Nat) (w : Word) : (g.setAlt l w).wd = g.wd := rfl
@[simp] theorem Gang.setAlt_trap (g : Gang) (l : Nat) (w : Word) : (g.setAlt l w).trap = g.trap := rfl
@[simp] theorem Gang.setAlt_held (g : Gang) (l : Nat) (w : Word) : (g.setAlt l w).held = g.held := rfl
@[simp] theorem Gang.setAlt_tile (g : Gang) (l : Nat) (w : Word) : (g.setAlt l w).tile = g.tile := rfl
@[simp] theorem Gang.setAlt_seq (g : Gang) (l : Nat) (w : Word) : (g.setAlt l w).seq = g.seq := rfl
@[simp] theorem Gang.setAlt_copies (g : Gang) (l : Nat) (w : Word) : (g.setAlt l w).copies = g.copies := rfl
@[simp] theorem Gang.setAlt_queues (g : Gang) (l : Nat) (w : Word) : (g.setAlt l w).queues = g.queues := rfl
@[simp] theorem Gang.setAlt_member (g : Gang) (l : Nat) (w : Word) : (g.setAlt l w).member = g.member := rfl
@[simp] theorem Gang.setAlt_binds (g : Gang) (l : Nat) (w : Word) : (g.setAlt l w).binds = g.binds := rfl
@[simp] theorem Gang.setAlt_tt (g : Gang) (l : Nat) (w : Word) : (g.setAlt l w).tt = g.tt := rfl
@[simp] theorem Gang.setAlt_bt (g : Gang) (l : Nat) (w : Word) : (g.setAlt l w).bt = g.bt := rfl
@[simp] theorem Gang.setAlt_search (g : Gang) (l : Nat) (w : Word) : (g.setAlt l w).search = g.search := rfl
@[simp] theorem Gang.setAlt_ridge (g : Gang) (l : Nat) (w : Word) : (g.setAlt l w).ridge = g.ridge := rfl
@[simp] theorem Gang.setAlt_tag (g : Gang) (l : Nat) (w : Word) : (g.setAlt l w).tag = g.tag := rfl
@[simp] theorem Gang.setAlt_differs (g : Gang) (l : Nat) (w : Word) : (g.setAlt l w).differs = g.differs := rfl

/-! ## Gang.setStat -/

@[simp] theorem Gang.setStat_ctx (g : Gang) (c : Nat) : (g.setStat c).ctx = g.ctx := rfl
@[simp] theorem Gang.setStat_inc (g : Gang) (c : Nat) : (g.setStat c).inc = g.inc := rfl
@[simp] theorem Gang.setStat_group (g : Gang) (c : Nat) : (g.setStat c).group = g.group := rfl
@[simp] theorem Gang.setStat_idx (g : Gang) (c : Nat) : (g.setStat c).idx = g.idx := rfl
@[simp] theorem Gang.setStat_slot (g : Gang) (c : Nat) : (g.setStat c).slot = g.slot := rfl
@[simp] theorem Gang.setStat_core (g : Gang) (c : Nat) : (g.setStat c).core = g.core := rfl
@[simp] theorem Gang.setStat_st (g : Gang) (c : Nat) : (g.setStat c).st = g.st := rfl
@[simp] theorem Gang.setStat_prot (g : Gang) (c : Nat) : (g.setStat c).prot = g.prot := rfl
@[simp] theorem Gang.setStat_nslices (g : Gang) (c : Nat) : (g.setStat c).nslices = g.nslices := rfl
@[simp] theorem Gang.setStat_privBytes (g : Gang) (c : Nat) : (g.setStat c).privBytes = g.privBytes := rfl
@[simp] theorem Gang.setStat_handler (g : Gang) (c : Nat) : (g.setStat c).handler = g.handler := rfl
@[simp] theorem Gang.setStat_limit (g : Gang) (c : Nat) : (g.setStat c).limit = g.limit := rfl
@[simp] theorem Gang.setStat_scope (g : Gang) (c : Nat) : (g.setStat c).scope = g.scope := rfl
@[simp] theorem Gang.setStat_live (g : Gang) (c : Nat) : (g.setStat c).live = g.live := rfl
@[simp] theorem Gang.setStat_role (g : Gang) (c : Nat) : (g.setStat c).role = g.role := rfl
@[simp] theorem Gang.setStat_segs (g : Gang) (c : Nat) : (g.setStat c).segs = g.segs := rfl
@[simp] theorem Gang.setStat_priv (g : Gang) (c : Nat) : (g.setStat c).priv = g.priv := rfl
@[simp] theorem Gang.setStat_s (g : Gang) (c : Nat) : (g.setStat c).s = g.s := rfl
@[simp] theorem Gang.setStat_m (g : Gang) (c : Nat) : (g.setStat c).m = g.m := rfl
@[simp] theorem Gang.setStat_v (g : Gang) (c : Nat) : (g.setStat c).v = g.v := rfl
@[simp] theorem Gang.setStat_bnd (g : Gang) (c : Nat) : (g.setStat c).bnd = g.bnd := rfl
@[simp] theorem Gang.setStat_alt (g : Gang) (c : Nat) : (g.setStat c).alt = g.alt := rfl
@[simp] theorem Gang.setStat_mode (g : Gang) (c : Nat) : (g.setStat c).mode = g.mode := rfl
@[simp] theorem Gang.setStat_stat (g : Gang) (c : Nat) : (g.setStat c).stat = BitVec.ofNat 64 (c % 256) := rfl
@[simp] theorem Gang.setStat_pend (g : Gang) (c : Nat) : (g.setStat c).pend = g.pend := rfl
@[simp] theorem Gang.setStat_ops (g : Gang) (c : Nat) : (g.setStat c).ops = g.ops := rfl
@[simp] theorem Gang.setStat_nextOp (g : Gang) (c : Nat) : (g.setStat c).nextOp = g.nextOp := rfl
@[simp] theorem Gang.setStat_splits (g : Gang) (c : Nat) : (g.setStat c).splits = g.splits := rfl
@[simp] theorem Gang.setStat_arrs (g : Gang) (c : Nat) : (g.setStat c).arrs = g.arrs := rfl
@[simp] theorem Gang.setStat_wd (g : Gang) (c : Nat) : (g.setStat c).wd = g.wd := rfl
@[simp] theorem Gang.setStat_trap (g : Gang) (c : Nat) : (g.setStat c).trap = g.trap := rfl
@[simp] theorem Gang.setStat_held (g : Gang) (c : Nat) : (g.setStat c).held = g.held := rfl
@[simp] theorem Gang.setStat_tile (g : Gang) (c : Nat) : (g.setStat c).tile = g.tile := rfl
@[simp] theorem Gang.setStat_seq (g : Gang) (c : Nat) : (g.setStat c).seq = g.seq := rfl
@[simp] theorem Gang.setStat_copies (g : Gang) (c : Nat) : (g.setStat c).copies = g.copies := rfl
@[simp] theorem Gang.setStat_queues (g : Gang) (c : Nat) : (g.setStat c).queues = g.queues := rfl
@[simp] theorem Gang.setStat_member (g : Gang) (c : Nat) : (g.setStat c).member = g.member := rfl
@[simp] theorem Gang.setStat_binds (g : Gang) (c : Nat) : (g.setStat c).binds = g.binds := rfl
@[simp] theorem Gang.setStat_tt (g : Gang) (c : Nat) : (g.setStat c).tt = g.tt := rfl
@[simp] theorem Gang.setStat_bt (g : Gang) (c : Nat) : (g.setStat c).bt = g.bt := rfl
@[simp] theorem Gang.setStat_search (g : Gang) (c : Nat) : (g.setStat c).search = g.search := rfl
@[simp] theorem Gang.setStat_ridge (g : Gang) (c : Nat) : (g.setStat c).ridge = g.ridge := rfl
@[simp] theorem Gang.setStat_tag (g : Gang) (c : Nat) : (g.setStat c).tag = g.tag := rfl
@[simp] theorem Gang.setStat_differs (g : Gang) (c : Nat) : (g.setStat c).differs = g.differs := rfl

/-! ## Gang.setSplit -/

@[simp] theorem Gang.setSplit_ctx (g : Gang) (k : Nat) (p : Split) : (g.setSplit k p).ctx = g.ctx := rfl
@[simp] theorem Gang.setSplit_inc (g : Gang) (k : Nat) (p : Split) : (g.setSplit k p).inc = g.inc := rfl
@[simp] theorem Gang.setSplit_group (g : Gang) (k : Nat) (p : Split) : (g.setSplit k p).group = g.group := rfl
@[simp] theorem Gang.setSplit_idx (g : Gang) (k : Nat) (p : Split) : (g.setSplit k p).idx = g.idx := rfl
@[simp] theorem Gang.setSplit_slot (g : Gang) (k : Nat) (p : Split) : (g.setSplit k p).slot = g.slot := rfl
@[simp] theorem Gang.setSplit_core (g : Gang) (k : Nat) (p : Split) : (g.setSplit k p).core = g.core := rfl
@[simp] theorem Gang.setSplit_st (g : Gang) (k : Nat) (p : Split) : (g.setSplit k p).st = g.st := rfl
@[simp] theorem Gang.setSplit_prot (g : Gang) (k : Nat) (p : Split) : (g.setSplit k p).prot = g.prot := rfl
@[simp] theorem Gang.setSplit_nslices (g : Gang) (k : Nat) (p : Split) : (g.setSplit k p).nslices = g.nslices := rfl
@[simp] theorem Gang.setSplit_privBytes (g : Gang) (k : Nat) (p : Split) : (g.setSplit k p).privBytes = g.privBytes := rfl
@[simp] theorem Gang.setSplit_handler (g : Gang) (k : Nat) (p : Split) : (g.setSplit k p).handler = g.handler := rfl
@[simp] theorem Gang.setSplit_limit (g : Gang) (k : Nat) (p : Split) : (g.setSplit k p).limit = g.limit := rfl
@[simp] theorem Gang.setSplit_scope (g : Gang) (k : Nat) (p : Split) : (g.setSplit k p).scope = g.scope := rfl
@[simp] theorem Gang.setSplit_live (g : Gang) (k : Nat) (p : Split) : (g.setSplit k p).live = g.live := rfl
@[simp] theorem Gang.setSplit_role (g : Gang) (k : Nat) (p : Split) : (g.setSplit k p).role = g.role := rfl
@[simp] theorem Gang.setSplit_segs (g : Gang) (k : Nat) (p : Split) : (g.setSplit k p).segs = g.segs := rfl
@[simp] theorem Gang.setSplit_priv (g : Gang) (k : Nat) (p : Split) : (g.setSplit k p).priv = g.priv := rfl
@[simp] theorem Gang.setSplit_s (g : Gang) (k : Nat) (p : Split) : (g.setSplit k p).s = g.s := rfl
@[simp] theorem Gang.setSplit_m (g : Gang) (k : Nat) (p : Split) : (g.setSplit k p).m = g.m := rfl
@[simp] theorem Gang.setSplit_v (g : Gang) (k : Nat) (p : Split) : (g.setSplit k p).v = g.v := rfl
@[simp] theorem Gang.setSplit_bnd (g : Gang) (k : Nat) (p : Split) : (g.setSplit k p).bnd = g.bnd := rfl
@[simp] theorem Gang.setSplit_alt (g : Gang) (k : Nat) (p : Split) : (g.setSplit k p).alt = g.alt := rfl
@[simp] theorem Gang.setSplit_mode (g : Gang) (k : Nat) (p : Split) : (g.setSplit k p).mode = g.mode := rfl
@[simp] theorem Gang.setSplit_stat (g : Gang) (k : Nat) (p : Split) : (g.setSplit k p).stat = g.stat := rfl
@[simp] theorem Gang.setSplit_pend (g : Gang) (k : Nat) (p : Split) : (g.setSplit k p).pend = g.pend := rfl
@[simp] theorem Gang.setSplit_ops (g : Gang) (k : Nat) (p : Split) : (g.setSplit k p).ops = g.ops := rfl
@[simp] theorem Gang.setSplit_nextOp (g : Gang) (k : Nat) (p : Split) : (g.setSplit k p).nextOp = g.nextOp := rfl
@[simp] theorem Gang.setSplit_splits (g : Gang) (k : Nat) (p : Split) : (g.setSplit k p).splits = KV.set g.splits k p := rfl
@[simp] theorem Gang.setSplit_arrs (g : Gang) (k : Nat) (p : Split) : (g.setSplit k p).arrs = g.arrs := rfl
@[simp] theorem Gang.setSplit_wd (g : Gang) (k : Nat) (p : Split) : (g.setSplit k p).wd = g.wd := rfl
@[simp] theorem Gang.setSplit_trap (g : Gang) (k : Nat) (p : Split) : (g.setSplit k p).trap = g.trap := rfl
@[simp] theorem Gang.setSplit_held (g : Gang) (k : Nat) (p : Split) : (g.setSplit k p).held = g.held := rfl
@[simp] theorem Gang.setSplit_tile (g : Gang) (k : Nat) (p : Split) : (g.setSplit k p).tile = g.tile := rfl
@[simp] theorem Gang.setSplit_seq (g : Gang) (k : Nat) (p : Split) : (g.setSplit k p).seq = g.seq := rfl
@[simp] theorem Gang.setSplit_copies (g : Gang) (k : Nat) (p : Split) : (g.setSplit k p).copies = g.copies := rfl
@[simp] theorem Gang.setSplit_queues (g : Gang) (k : Nat) (p : Split) : (g.setSplit k p).queues = g.queues := rfl
@[simp] theorem Gang.setSplit_member (g : Gang) (k : Nat) (p : Split) : (g.setSplit k p).member = g.member := rfl
@[simp] theorem Gang.setSplit_binds (g : Gang) (k : Nat) (p : Split) : (g.setSplit k p).binds = g.binds := rfl
@[simp] theorem Gang.setSplit_tt (g : Gang) (k : Nat) (p : Split) : (g.setSplit k p).tt = g.tt := rfl
@[simp] theorem Gang.setSplit_bt (g : Gang) (k : Nat) (p : Split) : (g.setSplit k p).bt = g.bt := rfl
@[simp] theorem Gang.setSplit_search (g : Gang) (k : Nat) (p : Split) : (g.setSplit k p).search = g.search := rfl
@[simp] theorem Gang.setSplit_ridge (g : Gang) (k : Nat) (p : Split) : (g.setSplit k p).ridge = g.ridge := rfl
@[simp] theorem Gang.setSplit_tag (g : Gang) (k : Nat) (p : Split) : (g.setSplit k p).tag = g.tag := rfl
@[simp] theorem Gang.setSplit_differs (g : Gang) (k : Nat) (p : Split) : (g.setSplit k p).differs = g.differs := rfl

/-! ## Gang.addOp -/

@[simp] theorem Gang.addOp_ctx (g : Gang) (x : Op) : (g.addOp x).ctx = g.ctx := rfl
@[simp] theorem Gang.addOp_inc (g : Gang) (x : Op) : (g.addOp x).inc = g.inc := rfl
@[simp] theorem Gang.addOp_group (g : Gang) (x : Op) : (g.addOp x).group = g.group := rfl
@[simp] theorem Gang.addOp_idx (g : Gang) (x : Op) : (g.addOp x).idx = g.idx := rfl
@[simp] theorem Gang.addOp_slot (g : Gang) (x : Op) : (g.addOp x).slot = g.slot := rfl
@[simp] theorem Gang.addOp_core (g : Gang) (x : Op) : (g.addOp x).core = g.core := rfl
@[simp] theorem Gang.addOp_st (g : Gang) (x : Op) : (g.addOp x).st = g.st := rfl
@[simp] theorem Gang.addOp_prot (g : Gang) (x : Op) : (g.addOp x).prot = g.prot := rfl
@[simp] theorem Gang.addOp_nslices (g : Gang) (x : Op) : (g.addOp x).nslices = g.nslices := rfl
@[simp] theorem Gang.addOp_privBytes (g : Gang) (x : Op) : (g.addOp x).privBytes = g.privBytes := rfl
@[simp] theorem Gang.addOp_handler (g : Gang) (x : Op) : (g.addOp x).handler = g.handler := rfl
@[simp] theorem Gang.addOp_limit (g : Gang) (x : Op) : (g.addOp x).limit = g.limit := rfl
@[simp] theorem Gang.addOp_scope (g : Gang) (x : Op) : (g.addOp x).scope = g.scope := rfl
@[simp] theorem Gang.addOp_live (g : Gang) (x : Op) : (g.addOp x).live = g.live := rfl
@[simp] theorem Gang.addOp_role (g : Gang) (x : Op) : (g.addOp x).role = g.role := rfl
@[simp] theorem Gang.addOp_segs (g : Gang) (x : Op) : (g.addOp x).segs = g.segs := rfl
@[simp] theorem Gang.addOp_priv (g : Gang) (x : Op) : (g.addOp x).priv = g.priv := rfl
@[simp] theorem Gang.addOp_s (g : Gang) (x : Op) : (g.addOp x).s = g.s := rfl
@[simp] theorem Gang.addOp_m (g : Gang) (x : Op) : (g.addOp x).m = g.m := rfl
@[simp] theorem Gang.addOp_v (g : Gang) (x : Op) : (g.addOp x).v = g.v := rfl
@[simp] theorem Gang.addOp_bnd (g : Gang) (x : Op) : (g.addOp x).bnd = g.bnd := rfl
@[simp] theorem Gang.addOp_alt (g : Gang) (x : Op) : (g.addOp x).alt = g.alt := rfl
@[simp] theorem Gang.addOp_mode (g : Gang) (x : Op) : (g.addOp x).mode = g.mode := rfl
@[simp] theorem Gang.addOp_stat (g : Gang) (x : Op) : (g.addOp x).stat = g.stat := rfl
@[simp] theorem Gang.addOp_pend (g : Gang) (x : Op) : (g.addOp x).pend = g.pend := rfl
@[simp] theorem Gang.addOp_ops (g : Gang) (x : Op) : (g.addOp x).ops = KV.set g.ops g.nextOp x := rfl
@[simp] theorem Gang.addOp_nextOp (g : Gang) (x : Op) : (g.addOp x).nextOp = g.nextOp + 1 := rfl
@[simp] theorem Gang.addOp_splits (g : Gang) (x : Op) : (g.addOp x).splits = g.splits := rfl
@[simp] theorem Gang.addOp_arrs (g : Gang) (x : Op) : (g.addOp x).arrs = g.arrs := rfl
@[simp] theorem Gang.addOp_wd (g : Gang) (x : Op) : (g.addOp x).wd = g.wd := rfl
@[simp] theorem Gang.addOp_trap (g : Gang) (x : Op) : (g.addOp x).trap = g.trap := rfl
@[simp] theorem Gang.addOp_held (g : Gang) (x : Op) : (g.addOp x).held = g.held := rfl
@[simp] theorem Gang.addOp_tile (g : Gang) (x : Op) : (g.addOp x).tile = g.tile := rfl
@[simp] theorem Gang.addOp_seq (g : Gang) (x : Op) : (g.addOp x).seq = g.seq := rfl
@[simp] theorem Gang.addOp_copies (g : Gang) (x : Op) : (g.addOp x).copies = g.copies := rfl
@[simp] theorem Gang.addOp_queues (g : Gang) (x : Op) : (g.addOp x).queues = g.queues := rfl
@[simp] theorem Gang.addOp_member (g : Gang) (x : Op) : (g.addOp x).member = g.member := rfl
@[simp] theorem Gang.addOp_binds (g : Gang) (x : Op) : (g.addOp x).binds = g.binds := rfl
@[simp] theorem Gang.addOp_tt (g : Gang) (x : Op) : (g.addOp x).tt = g.tt := rfl
@[simp] theorem Gang.addOp_bt (g : Gang) (x : Op) : (g.addOp x).bt = g.bt := rfl
@[simp] theorem Gang.addOp_search (g : Gang) (x : Op) : (g.addOp x).search = g.search := rfl
@[simp] theorem Gang.addOp_ridge (g : Gang) (x : Op) : (g.addOp x).ridge = g.ridge := rfl
@[simp] theorem Gang.addOp_tag (g : Gang) (x : Op) : (g.addOp x).tag = g.tag := rfl
@[simp] theorem Gang.addOp_differs (g : Gang) (x : Op) : (g.addOp x).differs = g.differs := rfl

/-! ## Looking up what was set -/

@[simp] theorem State.gang_setGang_self (s : State) (g : Nat) (G : Gang) : (s.setGang g G).gang g = some G :=
  KV.find_set_self s.gangs g G

theorem State.gang_setGang_other (s : State) {g h : Nat} (G : Gang) (hne : h ≠ g) : (s.setGang g G).gang h = s.gang h :=
  KV.find_set_other s.gangs G hne

@[simp] theorem State.gang_setCore (s : State) (c : Nat) (C : Core) (g : Nat) : (s.setCore c C).gang g = s.gang g := rfl
@[simp] theorem State.gang_setBent (s : State) (b : Nat) (B : Bent) (g : Nat) : (s.setBent b B).gang g = s.gang g := rfl
@[simp] theorem State.gang_setCtx (s : State) (c : Nat) (C : Ctx) (g : Nat) : (s.setCtx c C).gang g = s.gang g := rfl
@[simp] theorem State.gang_setGroup (s : State) (r : Nat) (G : Group) (g : Nat) : (s.setGroup r G).gang g = s.gang g := rfl
@[simp] theorem State.gang_emit (s : State) (x : Output) (g : Nat) : (s.emit x).gang g = s.gang g := rfl
@[simp] theorem State.gang_tick (s : State) (g : Nat) : s.tick.gang g = s.gang g := rfl

@[simp] theorem State.core_setCore_self (s : State) (c : Nat) (C : Core) : (s.setCore c C).core c = C :=
  KV.get_set_self s.cores c C Core.init

@[simp] theorem State.bent_setBent_self (s : State) (b : Nat) (B : Bent) : (s.setBent b B).bent b = B :=
  KV.get_set_self s.bents b B Bent.init

@[simp] theorem State.ctx_setCtx_self (s : State) (c : Nat) (C : Ctx) : (s.setCtx c C).ctx c = C :=
  KV.get_set_self s.ctxs c C Ctx.init

/-- A vector register of a lane after a write to another register or lane. -/
theorem Gang.vreg_setV_other (g : Gang) {n l n' l' : Nat} (w : Word) (h : n' * 32 + l' ≠ n * 32 + l) :
    (g.setV n l w).vreg n' l' = g.vreg n' l' :=
  KV.get_put_other 0 g.v w h

/-- A vector register of a lane after it was written. -/
@[simp] theorem Gang.vreg_setV_self (g : Gang) (n l : Nat) (w : Word) :
    (g.setV n l w).vreg n l = w :=
  KV.get_put_self 0 g.v (n * 32 + l) w

/-- A scalar register after it was written. -/
@[simp] theorem Gang.sreg_setS_self (g : Gang) (n : Nat) (w : Dword) : (g.setS n w).sreg n = w :=
  KV.get_put_self 0 g.s n w

/-- A scalar register after a write to another. -/
theorem Gang.sreg_setS_other (g : Gang) {n n' : Nat} (w : Dword) (h : n' ≠ n) : (g.setS n w).sreg n' = g.sreg n' :=
  KV.get_put_other 0 g.s w h

/-- A mask register after it was written. -/
@[simp] theorem Gang.mreg_setM_self (g : Gang) (n : Nat) (w : Word) : (g.setM n w).mreg n = w :=
  KV.get_put_self 0 g.m n w

/-- A mask register after a write to another. -/
theorem Gang.mreg_setM_other (g : Gang) {n n' : Nat} (w : Word) (h : n' ≠ n) : (g.setM n w).mreg n' = g.mreg n' :=
  KV.get_put_other 0 g.m w h

end Sys2Proof.Machine
end

