-- ==== Sys2Proof/Laws/Issue.lean ====
section
/-! SUPPORT. What issuing an instruction does, once for every meaning: it raises the trap of the first order of Table 3-10 that
has one, or waits before issue, or has its effect and moves on; and what waking and charging leave alone. -/

namespace Sys2Proof.Machine

/-! ## Lanes -/

theorem mem_lanes32 {i : Nat} : i ∈ lanes32 ↔ i < 32 := List.mem_range

/-- The bits of a fold that sets bits. -/
theorem foldl_or_getLsbD (f : Nat → Bool) (l : List Nat) (w : Word) (i : Nat) (hi : i < 32) :
    (l.foldl (fun w j => if f j then w ||| BitVec.twoPow 32 j else w) w).getLsbD i =
      (w.getLsbD i || (l.contains i && f i)) := by
  induction l generalizing w with
  | nil => simp
  | cons a r ih =>
    rw [List.foldl_cons, ih]
    by_cases ha : f a
    · by_cases h : a = i
      · subst h; simp [ha, hi]
      · have hne : ¬i = a := fun h' => h h'.symm
        simp [ha, hi, hne]
    · by_cases h : a = i
      · subst h; simp [ha]
      · have hne : ¬i = a := fun h' => h h'.symm
        simp [ha, hne]

/-- Bit i of a mask is what its function gives for lane i. -/
@[simp] theorem maskOf_getLsbD (f : Nat → Bool) (i : Nat) (hi : i < 32) : (maskOf f).getLsbD i = f i := by
  rw [maskOf, foldl_or_getLsbD f lanes32 0 i hi]
  simp [lanes32, hi]

theorem maskOf_eq_zero {f : Nat → Bool} (h : maskOf f = 0) {i : Nat} (hi : i < 32) : f i = false := by
  have h' := maskOf_getLsbD f i hi
  rw [h] at h'
  simpa using h'.symm

theorem mem_lanesOf {w : Word} {i : Nat} : i ∈ lanesOf w ↔ i < 32 ∧ w.getLsbD i = true := by
  simp [lanesOf, mem_lanes32]

theorem nodup_lanesOf (w : Word) : (lanesOf w).Nodup := List.Pairwise.filter _ List.nodup_range

/-- The lanes of a function's mask. -/
theorem mem_lanesOf_maskOf {f : Nat → Bool} {i : Nat} : i ∈ lanesOf (maskOf f) ↔ i < 32 ∧ f i = true := by
  rw [mem_lanesOf]
  exact and_congr_right fun hi => by rw [maskOf_getLsbD f i hi]

/-! ## Selection and cancellation -/

/-- With no lane cancelled, settling changes nothing (19 R309). -/
theorem State.settle_eq {s : State} {g k : Nat} {G : Gang} {sp : Split} (hg : s.gang g = some G)
    (hk : KV.find G.splits k = some sp) (hc : s.unsettled G sp.slices = 0) : s.settle g k = s := by
  have h : ∀ l : List Nat, (∀ i ∈ l, i < 32) →
      l.foldl (fun t i => if s.cancels G sp.slices i then (t.cancelLane g i).getD t else t) s = s := by
    intro l
    induction l with
    | nil => intro; rfl
    | cons a r ih =>
      intro hl
      have ha : s.cancels G sp.slices a = false := maskOf_eq_zero hc (hl a (List.mem_cons_self ..))
      rw [List.foldl_cons]
      simp only [ha]
      exact ih fun i hi => hl i (List.mem_cons_of_mem _ hi)
  rw [State.settle]
  simp only [hg, hk]
  exact h lanes32 fun i hi => mem_lanes32.1 hi

/-- The split that executes, with no lane of it cancelled. -/
theorem State.selected_eq {s : State} {g k : Nat} {G : Gang} {sp : Split} (hcur : s.cur = some (g, k))
    (hg : s.gang g = some G) (hk : KV.find G.splits k = some sp) (hc : s.unsettled G sp.slices = 0) :
    s.selected = some (s, g, k, G, sp) := by
  rw [State.selected, hcur]
  simp only [State.settle_eq hg hk hc, hg, hk]

/-! ## Issue -/

/-- An instruction whose tests pass, that does not wait before issue, has its effect. -/
theorem State.issue_next {s : State} {i : Instr} {sm : Bool} {M : Meaning} {g k : Nat} {G : Gang} {sp : Split}
    (h : s.Issuing i g k G sp) (ht : (M.tests s g k G sp).first 0 = []) (hb : M.before s g k G sp = .go) :
    s.issue i sm M = .next (s.issueNow i sm M g k G sp) := by
  obtain ⟨hcur, hg, hk, hc, hgate, hw, hd⟩ := h
  have hgate' : (s.gateClosed G.core && !weightless i) = false := by
    rcases hgate with h | h <;> simp [h]
  rw [State.issue, State.selected_eq hcur hg hk hc]
  simp only [State.issueAt, hc, ht, State.pick, hb, hgate', hw, hd]
  rfl

/-- An instruction with a condition of Table 3-10 traps; of several registers that meet it, it names one (log 18). -/
theorem State.issue_trap {s : State} {i : Instr} {sm : Bool} {M : Meaning} {g k : Nat} {G : Gang} {sp : Split}
    (h : s.Issuing i g k G sp) {t : Trap} {s' : State} (ht : s.pick ((M.tests s g k G sp).first 0) = some (t, s')) :
    s.issue i sm M = .next (s'.raise g k t ((encode i).getD 0) (t.resume sp.pc) []) := by
  obtain ⟨hcur, hg, hk, hc, hgate, -⟩ := h
  have hgate' : (s.gateClosed G.core && !weightless i) = false := by
    rcases hgate with h | h <;> simp [h]
  rw [State.issue, State.selected_eq hcur hg hk hc]
  simp only [State.issueAt, hgate', hc, ht]
  rfl

/-! ## Charging -/

@[simp] theorem State.draw_gangs (s : State) (c q w : Nat) : (s.draw c q w).gangs = s.gangs := by
  unfold State.draw; split <;> rfl

/-- A charge touches only the draw record of one bent and the window sum of one core (21 R331, R332). -/
theorem State.draw_frame (s : State) (c q w : Nat) :
    { s.draw c q w with cores := s.cores, bents := s.bents } = s := by
  unfold State.draw; split <;> rfl

theorem State.draw_core (s : State) (c q w d : Nat) :
    { (s.draw c q w).core d with wsum := (s.core d).wsum } = s.core d := by
  unfold State.draw
  split
  · rfl
  · by_cases h : d = c
    · subst h; simp
    · simp only [State.core, State.setCore, KV.get_set_other _ _ _ h, State.setBent_cores]

theorem State.draw_bent (s : State) (c q w b : Nat) :
    { (s.draw c q w).bent b with sum := (s.bent b).sum } = s.bent b := by
  unfold State.draw
  split
  · rfl
  · by_cases h : b = bentOf c
    · subst h; simp [State.bent, State.setCore_bents, State.setBent, KV.get_set_self]
    · simp only [State.bent, State.setCore_bents, State.setBent_bents, KV.get_set_other _ _ _ h]

/-! ## The splits of an issuing gang -/

theorem KV.find_map {α β : Type} (m : KV α) (f : Nat → α → β) (k : Nat) :
    KV.find (m.map fun p => (p.1, f p.1 p.2)) k = (KV.find m k).map (f k) := by
  induction m with
  | nil => rfl
  | cons p r ih =>
    obtain ⟨k', v⟩ := p
    by_cases h : k = k'
    · subst h; simp [KV.find]
    · simpa [KV.find, h] using ih

/-- A split after the segment marker is applied to the splits of its gang. -/
theorem Gang.find_markSplits (G : Gang) (k : Nat) (before : KV Split) (j : Nat) :
    KV.find (G.markSplits k before).splits j =
      (KV.find G.splits j).map fun x => if j = k ∨ (KV.find before j).isNone = true then x.mark else x := by
  have h := KV.find_map G.splits (fun j x => if j = k || (KV.find before j).isNone then x.mark else x) j
  simpa [Gang.markSplits] using h

/-! ## Register instructions -/

/-- The machine once an instruction that only touches its gang has issued, its gang being K. -/
def State.nowWith (s : State) (i : Instr) (sm : Bool) (g k : Nat) (G : Gang) (sp : Split) (K : Gang) : State :=
  (s.draw G.core (G.idx % 4) (s.charge g G sp.slices i)).setGang g (if sm then K.markSplits k G.splits else K)

/-- Issuing an instruction that only touches its gang. -/
theorem State.issueNow_onGang (s : State) (i : Instr) (sm : Bool) (M : Meaning) (g k : Nat) (G : Gang) (sp : Split)
    (K : Gang)
    (he : M.effect ((s.draw G.core (G.idx % 4) (s.charge g G sp.slices i)).setGang g (G.issued k sp (counts i))) g k
        (G.issued k sp (counts i)) { sp with ipc := sp.pc, pc := sp.pc + 4, age := 0 } =
      ((s.draw G.core (G.idx % 4) (s.charge g G sp.slices i)).setGang g (G.issued k sp (counts i))).setGang g K) :
    s.issueNow i sm M g k G sp = (s.nowWith i sm g k G sp K).wake g := by
  rw [State.issueNow]
  simp only [he, State.nowWith]
  cases sm <;> simp [State.modGang, KV.mod, State.setGang, KV.find_set_self, KV.set_set]

theorem State.nowWith_gang (s : State) (i : Instr) (sm : Bool) (g k : Nat) (G : Gang) (sp : Split) (K : Gang) :
    (s.nowWith i sm g k G sp K).gang g = some (if sm then K.markSplits k G.splits else K) :=
  State.gang_setGang_self _ g _

theorem State.nowWith_frame (s : State) (i : Instr) (sm : Bool) (g k : Nat) (G : Gang) (sp : Split) (K : Gang) :
    s.OnlyGang (s.nowWith i sm g k G sp K) g := by
  have hd := State.draw_frame s G.core (G.idx % 4) (s.charge g G sp.slices i)
  refine ⟨by simpa [State.nowWith, State.setGang] using hd, fun h hne => ?_, fun c => State.draw_core ..,
    fun b => State.draw_bent .., fun a => ?_⟩
  · rw [State.nowWith, State.gang_setGang_other _ _ hne]; simp [State.gang]
  · have hm := congrArg State.mem hd
    exact congrArg (fun m : Memory => m.byte a) hm

/-- The splits of an issuing gang: the one that issues goes on, or waits, as the effect left it; the others stay. -/
theorem Gang.onlySplit_mark (G K : Gang) (k : Nat) (x : Split) (sm : Bool)
    (hs : K.splits = KV.set G.splits k x) :
    G.OnlySplit (if sm then K.markSplits k G.splits else K) k (if sm then x.mark else x) := by
  cases sm with
  | false => exact ⟨by simp [hs, KV.find_set_self], fun j hj => by simp [hs, KV.find_set_other _ _ hj]⟩
  | true =>
    refine ⟨?_, fun j hj => ?_⟩
    · rw [if_pos rfl, if_pos rfl, Gang.find_markSplits, hs, KV.find_set_self]; simp
    · rw [if_pos rfl, Gang.find_markSplits, hs, KV.find_set_other _ _ hj]
      cases hf : KV.find G.splits j <;> simp [hj]

/-- What a register instruction's issue comes to. -/
theorem State.issues_reg {s : State} {i : Instr} {sm : Bool} {g k : Nat} {G : Gang} {sp : Split}
    {tests : Gang → Split → Tests} {f : Gang → Split → Gang} {post : Gang → Prop} (hi : exec i s = s.issue i sm (regMeaning tests f))
    (h : s.Issuing i g k G sp) (ht : (tests G sp).first 0 = [])
    (hs : ∀ G' x, (f G' x).splits = G'.splits)
    (hp : ∀ c, post (if sm then (f (G.issued k sp c) { sp with ipc := sp.pc, pc := sp.pc + 4, age := 0 }).markSplits k G.splits
      else f (G.issued k sp c) { sp with ipc := sp.pc, pc := sp.pc + 4, age := 0 })) :
    s.Issues i g k G (sp.goesOn (sp.pc + 4) sm) post := by
  refine ⟨s.nowWith i sm g k G sp (f (G.issued k sp (counts i)) _), _, ?_, State.nowWith_gang .., State.nowWith_frame ..,
    ?_, hp _⟩
  · rw [hi, State.issue_next h ht rfl, State.issueNow_onGang]
    rfl
  · exact Gang.onlySplit_mark _ _ _ _ _ (by rw [hs]; rfl)

/-! ## Writing lane by lane -/

/-- Writing a vector register in the lanes of a mask. -/
theorem Gang.forLanes_writeV (G : Gang) (n : Fin 192) (w : Word) (f : Nat → Word) :
   G.WritesV (G.forLanes w fun H i => H.writeV (.v n) i (f i)) n.val (fun i => w.getLsbD i) f := by
  have key : ∀ (l : List Nat) (K : Gang), l.Nodup → (∀ i ∈ l, i < 32) →
     (∀ i, i < 32 → (l.foldl (fun H i => H.writeV (.v n) i (f i)) K).vreg n.val i = if i ∈ l then f i else K.vreg n.val i) ∧
     (∀ m i, i < 32 → m ≠ n.val → (l.foldl (fun H i => H.writeV (.v n) i (f i)) K).vreg m i = K.vreg m i) ∧
     { (l.foldl (fun H i => H.writeV (.v n) i (f i)) K) with v := K.v } = K := by
    intro l
    induction l with
    | nil => intro K _ _; exact ⟨fun i _ => by simp, fun _ _ _ _ => rfl, rfl⟩
    | cons x r ih =>
      intro K hn hl
      have hx := hl x (List.mem_cons_self ..)
      obtain ⟨h1, h2, h3⟩ := ih (K.writeV (.v n) x (f x)) (List.nodup_cons.1 hn).2 fun i hi => hl i (List.mem_cons_of_mem _ hi)
      refine ⟨fun i hi => ?_, fun m i hi hm => ?_, ?_⟩
      · rw [List.foldl_cons, h1 i hi]
        by_cases hir : i ∈ r
        · simp [hir]
        · by_cases hix : i = x
          · subst hix; simp [hir, Gang.writeV]
          · simp only [hir, if_false, List.mem_cons, hix, or_self]
            exact Gang.vreg_setV_other _ _ (by omega)
      · rw [List.foldl_cons, h2 m i hi hm]
        exact Gang.vreg_setV_other _ _ (by omega)
      · rw [List.foldl_cons]
        have h4 := congrArg (fun X : Gang => ({ X with v := K.v } : Gang)) h3
        exact h4
  obtain ⟨h1, h2, h3⟩ := key (lanesOf w) G (nodup_lanesOf w) fun i hi => (mem_lanesOf.1 hi).1
  refine ⟨fun i hi => ?_, h2, ?_⟩
  · have := h1 i hi
    rw [Gang.forLanes, this]
    simp [mem_lanesOf, hi]
  · have h4 := congrArg (fun X : Gang => ({ X with splits := G.splits, wd := G.wd } : Gang)) h3
    exact h4

/-! ## Waking -/

/-- A gang of which every split is READY has no wait to end (01 R41). -/
theorem State.wake_of_ready {s : State} {g : Nat} {G : Gang} (hg : s.gang g = some G)
    (hr : ∀ p ∈ G.splits, ∀ x, KV.find G.splits p.1 = some x → x.st = .ready) : s.wake g = s := by
  have hstep : ∀ p ∈ G.splits, s.wakeStep g p.1 = none := by
    intro p hp
    cases hf : KV.find G.splits p.1 with
    | none => simp [State.wakeStep, hg, hf]
    | some x => simp [State.wakeStep, hg, hf, hr p hp x hf]
  have hone : s.wakeOne g = none := by
    rw [State.wakeOne]
    simp only [hg]
    exact List.findSome?_eq_none_iff.2 hstep
  have hw : s.wakeGang g = s := by
    rw [State.wakeGang, State.wakeFuel, hone]
  rw [State.wake]
  simp only [hg, hw, if_true]

end Sys2Proof.Machine
end

