-- ==== Sys2Proof/Laws/PerInstr.lean ====
section
/-! SUPPORT. Every instruction's word satisfies the match and the mask that the opcode table gives its row, and exactly the
events of the part have no word. -/

namespace Sys2Proof.Laws.TableWord

/-- An AND of two words is taken field by field. -/
theorem wordOf_and (sm ms : Bool) (op mop : BitVec 7) (d a b md ma mb : BitVec 8) :
    wordOf sm op d a b &&& wordOf ms mop md ma mb =
      wordOf (sm && ms) (op &&& mop) (d &&& md) (a &&& ma) (b &&& mb) := by
  have h : BitVec.ofBool sm &&& BitVec.ofBool ms = BitVec.ofBool (sm && ms) := by cases sm <;> cases ms <;> rfl
  rw [wordOf, wordOf, wordOf, ← h]
  have h4 {x y : BitVec (1 + 7 + 8 + 8)} : x ++ b &&& y ++ mb = (x &&& y) ++ (b &&& mb) := BitVec.and_append
  have h3 {x y : BitVec (1 + 7 + 8)} : x ++ a &&& y ++ ma = (x &&& y) ++ (a &&& ma) := BitVec.and_append
  have h2 {x y : BitVec (1 + 7)} : x ++ d &&& y ++ md = (x &&& y) ++ (d &&& md) := BitVec.and_append
  have h1 {x y : BitVec 1} : x ++ op &&& y ++ mop = (x &&& y) ++ (op &&& mop) := BitVec.and_append
  exact h4.trans (by rw [h3, h2, h1])

/-- The match and the mask of each row of the opcode table. -/
def tableRow : Instr → Option (Word × Word)
  | .nop _ => some (0x00000000#32, 0x7FFFFFFF#32)
  | .br _ _ => some (0x01000000#32, 0x7F000000#32)
  | .brz _ _ _ => some (0x02000000#32, 0x7F000000#32)
  | .brnz _ _ _ => some (0x03000000#32, 0x7F000000#32)
  | .call _ _ => some (0x04000000#32, 0x7F000000#32)
  | .ret _ => some (0x05000000#32, 0x7FFFFFFF#32)
  | .jr _ _ _ => some (0x06000000#32, 0x7F0000FF#32)
  | .part _ _ _ => some (0x07000000#32, 0x7F0000FF#32)
  | .regang _ => some (0x08000000#32, 0x7FFFFFFF#32)
  | .yield _ _ _ => some (0x09000000#32, 0x7F000000#32)
  | .exit _ => some (0x0A000000#32, 0x7FFFFFFF#32)
  | .setm _ _ => some (0x0B000000#32, 0x7FFF0000#32)
  | .trap _ _ => some (0x0B010000#32, 0x7FFF0000#32)
  | .tret _ => some (0x0B020000#32, 0x7FFFFFFF#32)
  | .sysc _ _ => some (0x0B030000#32, 0x7FFF0000#32)
  | .rdsr _ _ _ => some (0x0C000000#32, 0x7F000000#32)
  | .wrsr _ _ _ => some (0x0D000000#32, 0x7F000000#32)
  | .add _ _ _ _ => some (0x10000000#32, 0x7F000000#32)
  | .sub _ _ _ _ => some (0x11000000#32, 0x7F000000#32)
  | .mul _ _ _ _ => some (0x12000000#32, 0x7F000000#32)
  | .mulh _ _ _ _ => some (0x13000000#32, 0x7F000000#32)
  | .and _ _ _ _ => some (0x14000000#32, 0x7F000000#32)
  | .or _ _ _ _ => some (0x15000000#32, 0x7F000000#32)
  | .xor _ _ _ _ => some (0x16000000#32, 0x7F000000#32)
  | .shl _ _ _ _ => some (0x17000000#32, 0x7F000000#32)
  | .shr _ _ _ _ => some (0x18000000#32, 0x7F000000#32)
  | .sar _ _ _ _ => some (0x19000000#32, 0x7F000000#32)
  | .rot _ _ _ _ => some (0x1A000000#32, 0x7F000000#32)
  | .min _ _ _ _ => some (0x1B000000#32, 0x7F000000#32)
  | .max _ _ _ _ => some (0x1C000000#32, 0x7F000000#32)
  | .sel _ _ _ _ => some (0x1D000000#32, 0x7F000000#32)
  | .mov _ _ _ => some (0x1E000000#32, 0x7F0000FF#32)
  | .queuePush _ _ _ => some (0x1E000000#32, 0x7F0000FF#32)
  | .queuePop _ _ _ => some (0x1E000000#32, 0x7F0000FF#32)
  | .popc _ _ _ => some (0x1E000001#32, 0x7F0000FF#32)
  | .clz _ _ _ => some (0x1E000002#32, 0x7F0000FF#32)
  | .ffs _ _ _ => some (0x1E000003#32, 0x7F0000FF#32)
  | .rget _ _ _ => some (0x1F000000#32, 0x7F0000FF#32)
  | .rput _ _ _ => some (0x1F000001#32, 0x7F0000FF#32)
  | .li _ _ _ => some (0x20000000#32, 0x7F000000#32)
  | .lih _ _ _ => some (0x21000000#32, 0x7F000000#32)
  | .addImm _ _ _ _ => some (0x22000000#32, 0x7F000000#32)
  | .mulImm _ _ _ _ => some (0x23000000#32, 0x7F000000#32)
  | .andImm _ _ _ _ => some (0x24000000#32, 0x7F000000#32)
  | .orImm _ _ _ _ => some (0x25000000#32, 0x7F000000#32)
  | .xorImm _ _ _ _ => some (0x26000000#32, 0x7F000000#32)
  | .shlImm _ _ _ _ => some (0x27000000#32, 0x7F0000C0#32)
  | .shrImm _ _ _ _ => some (0x28000000#32, 0x7F0000C0#32)
  | .sarImm _ _ _ _ => some (0x29000000#32, 0x7F0000C0#32)
  | .rotImm _ _ _ _ => some (0x2A000000#32, 0x7F0000C0#32)
  | .minImm _ _ _ _ => some (0x2B000000#32, 0x7F000000#32)
  | .maxImm _ _ _ _ => some (0x2C000000#32, 0x7F000000#32)
  | .fadd _ _ _ _ => some (0x30000000#32, 0x7F000000#32)
  | .fsub _ _ _ _ => some (0x31000000#32, 0x7F000000#32)
  | .fmul _ _ _ _ => some (0x32000000#32, 0x7F000000#32)
  | .fma _ _ _ _ => some (0x33000000#32, 0x7F000000#32)
  | .fms _ _ _ _ => some (0x34000000#32, 0x7F000000#32)
  | .fmin _ _ _ _ => some (0x35000000#32, 0x7F000000#32)
  | .fmax _ _ _ _ => some (0x36000000#32, 0x7F000000#32)
  | .div _ _ _ _ => some (0x37000000#32, 0x7F000000#32)
  | .fneg _ _ _ => some (0x38000000#32, 0x7F0000FF#32)
  | .fabs _ _ _ => some (0x38000001#32, 0x7F0000FF#32)
  | .sqrt _ _ _ => some (0x38000002#32, 0x7F0000FF#32)
  | .rcp _ _ _ => some (0x38000003#32, 0x7F0000FF#32)
  | .rsqrt _ _ _ => some (0x38000004#32, 0x7F0000FF#32)
  | .cvt _ _ _ _ => some (0x39000000#32, 0x7F0000F0#32)
  | .ceq _ _ _ _ => some (0x40000000#32, 0x7F000000#32)
  | .cne _ _ _ _ => some (0x41000000#32, 0x7F000000#32)
  | .clt _ _ _ _ => some (0x42000000#32, 0x7F000000#32)
  | .cle _ _ _ _ => some (0x43000000#32, 0x7F000000#32)
  | .cun _ _ _ _ => some (0x44000000#32, 0x7F000000#32)
  | .sceq _ _ _ _ => some (0x40000000#32, 0x7F000000#32)
  | .scne _ _ _ _ => some (0x41000000#32, 0x7F000000#32)
  | .sclt _ _ _ _ => some (0x42000000#32, 0x7F000000#32)
  | .scle _ _ _ _ => some (0x43000000#32, 0x7F000000#32)
  | .scun _ _ _ _ => some (0x44000000#32, 0x7F000000#32)
  | .mand _ _ _ _ => some (0x45000000#32, 0x7F000000#32)
  | .mor _ _ _ _ => some (0x46000000#32, 0x7F000000#32)
  | .mxor _ _ _ _ => some (0x47000000#32, 0x7F000000#32)
  | .mnot _ _ _ => some (0x48000000#32, 0x7F0000FF#32)
  | .msave _ _ _ => some (0x48000001#32, 0x7F0000FF#32)
  | .mrest _ _ _ => some (0x48000002#32, 0x7F0000FF#32)
  | .mpop _ _ _ => some (0x48000003#32, 0x7F0000FF#32)
  | .mffs _ _ _ => some (0x48000004#32, 0x7F0000FF#32)
  | .redadd _ _ _ => some (0x48000008#32, 0x7F0000FF#32)
  | .redmin _ _ _ => some (0x48000009#32, 0x7F0000FF#32)
  | .redmax _ _ _ => some (0x4800000A#32, 0x7F0000FF#32)
  | .scan _ _ _ => some (0x4800000B#32, 0x7F0000FF#32)
  | .shfl _ _ _ _ => some (0x49000000#32, 0x7F000000#32)
  | .shfi _ _ _ _ _ => some (0x4A000000#32, 0x7F000000#32)
  | .lsh _ _ _ _ => some (0x4B000000#32, 0x7F000000#32)
  | .btl _ _ _ _ => some (0x4C000000#32, 0x7F000000#32)
  | .btlh _ _ _ _ => some (0x4D000000#32, 0x7F000000#32)
  | .dot8 _ _ _ _ => some (0x4E000000#32, 0x7F000000#32)
  | .dot4 _ _ _ _ => some (0x4F000000#32, 0x7F000000#32)
  | .ldb _ _ _ _ => some (0x50000000#32, 0x7F000000#32)
  | .ldh _ _ _ _ => some (0x51000000#32, 0x7F000000#32)
  | .ldw _ _ _ _ => some (0x52000000#32, 0x7F000000#32)
  | .ldd _ _ _ _ => some (0x53000000#32, 0x7F000000#32)
  | .ldq _ _ _ _ => some (0x54000000#32, 0x7F000000#32)
  | .stb _ _ _ _ => some (0x55000000#32, 0x7F000000#32)
  | .sth _ _ _ _ => some (0x56000000#32, 0x7F000000#32)
  | .stw _ _ _ _ => some (0x57000000#32, 0x7F000000#32)
  | .std _ _ _ _ => some (0x58000000#32, 0x7F000000#32)
  | .stq _ _ _ _ => some (0x59000000#32, 0x7F000000#32)
  | .ldbImm _ _ _ _ => some (0x5A000000#32, 0x7F0000E0#32)
  | .ldhImm _ _ _ _ => some (0x5A000020#32, 0x7F0000E0#32)
  | .ldwImm _ _ _ _ => some (0x5A000040#32, 0x7F0000E0#32)
  | .lddImm _ _ _ _ => some (0x5A000060#32, 0x7F0000E0#32)
  | .ldqImm _ _ _ _ => some (0x5A000080#32, 0x7F0000E0#32)
  | .stbImm _ _ _ _ => some (0x5B000000#32, 0x7F0000E0#32)
  | .sthImm _ _ _ _ => some (0x5B000020#32, 0x7F0000E0#32)
  | .stwImm _ _ _ _ => some (0x5B000040#32, 0x7F0000E0#32)
  | .stdImm _ _ _ _ => some (0x5B000060#32, 0x7F0000E0#32)
  | .stqImm _ _ _ _ => some (0x5B000080#32, 0x7F0000E0#32)
  | .lds _ _ _ _ => some (0x5C000000#32, 0x7F000000#32)
  | .sts _ _ _ _ => some (0x5D000000#32, 0x7F000000#32)
  | .aadd _ _ _ _ => some (0x60000000#32, 0x7F00008F#32)
  | .aaddR _ _ _ _ => some (0x60000080#32, 0x7F00008F#32)
  | .amin _ _ _ _ => some (0x60000001#32, 0x7F00008F#32)
  | .aminR _ _ _ _ => some (0x60000081#32, 0x7F00008F#32)
  | .amax _ _ _ _ => some (0x60000002#32, 0x7F00008F#32)
  | .amaxR _ _ _ _ => some (0x60000082#32, 0x7F00008F#32)
  | .aand _ _ _ _ => some (0x60000003#32, 0x7F00008F#32)
  | .aandR _ _ _ _ => some (0x60000083#32, 0x7F00008F#32)
  | .aor _ _ _ _ => some (0x60000004#32, 0x7F00008F#32)
  | .aorR _ _ _ _ => some (0x60000084#32, 0x7F00008F#32)
  | .axor _ _ _ _ => some (0x60000005#32, 0x7F00008F#32)
  | .axorR _ _ _ _ => some (0x60000085#32, 0x7F00008F#32)
  | .axch _ _ _ _ => some (0x60000006#32, 0x7F00008F#32)
  | .axchR _ _ _ _ => some (0x60000086#32, 0x7F00008F#32)
  | .acas _ _ _ _ => some (0x60000007#32, 0x7F00008F#32)
  | .acasR _ _ _ _ => some (0x60000087#32, 0x7F00008F#32)
  | .afadd _ _ _ _ => some (0x60000008#32, 0x7F00008F#32)
  | .afaddR _ _ _ _ => some (0x60000088#32, 0x7F00008F#32)
  | .fwr _ _ _ => some (0x61000000#32, 0x7F0000FF#32)
  | .frd _ _ _ => some (0x61000001#32, 0x7F0000FF#32)
  | .frdC _ _ _ => some (0x61000002#32, 0x7F0000FF#32)
  | .rclaim _ _ _ => some (0x62000000#32, 0x7F0000FF#32)
  | .rcommit _ _ _ => some (0x62000001#32, 0x7F0000FF#32)
  | .rawait _ _ _ => some (0x62000002#32, 0x7F0000FF#32)
  | .rretire _ _ _ => some (0x62000003#32, 0x7F0000FF#32)
  | .rbind _ _ => some (0x62000004#32, 0x7FFF00FF#32)
  | .bar _ _ _ _ => some (0x68000000#32, 0x7F0000C0#32)
  | .barar _ _ _ _ => some (0x69000000#32, 0x7F0000C0#32)
  | .barw _ _ => some (0x6A000000#32, 0x7FFFFFC0#32)
  | .rwr _ _ _ _ => some (0x6B000000#32, 0x7F000000#32)
  | .rwait _ _ _ => some (0x6C000000#32, 0x7F000000#32)
  | .give _ _ => some (0x6D000000#32, 0x7FFF0000#32)
  | .claim _ _ => some (0x6D010000#32, 0x7FFF0000#32)
  | .bjoin _ => some (0x6D020000#32, 0x7FFFFFFF#32)
  | .bleave _ => some (0x6D030000#32, 0x7FFFFFFF#32)
  | .acq _ _ => some (0x6E000000#32, 0x7FFFFFF8#32)
  | .rel _ _ => some (0x6E010000#32, 0x7FFFFFF8#32)
  | .fence _ _ => some (0x6E020000#32, 0x7FFFFFF8#32)
  | .fsc _ _ => some (0x6E030000#32, 0x7FFFFFF8#32)
  | .xfence _ => some (0x6E040000#32, 0x7FFFFFFF#32)
  | .tcfg _ _ => some (0x70000000#32, 0x7FFF00FF#32)
  | .mma _ _ _ _ => some (0x71000000#32, 0x7F000000#32)
  | .mmc _ _ _ _ => some (0x72000000#32, 0x7F000000#32)
  | .mzero _ _ _ => some (0x73000000#32, 0x7F0000FF#32)
  | .mfin _ _ _ => some (0x74000000#32, 0x7F0000FF#32)
  | .tryBrace _ _ _ => some (0x78000000#32, 0x7F000000#32)
  | .fail _ => some (0x79000000#32, 0x7FFFFFFF#32)
  | .resume _ _ => some (0x79000001#32, 0x7F00FFFF#32)
  | .cut _ _ _ => some (0x79000002#32, 0x7F0000FF#32)
  | .steal _ => some (0x79000003#32, 0x7FFFFFFF#32)
  | .bset _ _ => some (0x79000004#32, 0x7FFF00FF#32)
  | .sttb _ _ _ _ => some (0x7A000000#32, 0x7F0000E0#32)
  | .stth _ _ _ _ => some (0x7A000020#32, 0x7F0000E0#32)
  | .stt _ _ _ _ => some (0x7A000040#32, 0x7F0000E0#32)
  | .rmin _ _ _ => some (0x7B000000#32, 0x7F0000FF#32)
  | .rmax _ _ _ => some (0x7B000001#32, 0x7F0000FF#32)
  | .rrd _ _ _ => some (0x7B000002#32, 0x7F0000FF#32)
  | .spawn _ _ => some (0x7B000003#32, 0x7F00FFFF#32)
  | .cpy _ _ _ _ => some (0x7C000000#32, 0x7F000000#32)
  | .cwait _ _ => some (0x7D000000#32, 0x7FFF00FF#32)
  | .qbind _ _ _ => some (0x7E000000#32, 0x7F0000FF#32)
  | .nwait _ _ _ => some (0x7E000001#32, 0x7F0000FF#32)
  | .watchdogExpiry => none
  | .resultDelivery _ _ _ => none
  | .instructionFetchFault _ _ => none
  | .faultReplay _ _ _ => none
  | .faultDeliver _ _ => none
  | .syscAnswer _ _ _ _ => none
  | .barrierTimeout _ _ => none
  | .claimServe _ => none
  | .storeAcknowledge _ _ _ => none
  | .gangRetire _ => none
  | .placeGroup => none
  | .placeFrame => none
  | .waitEventTest _ _ _ => none
  | .homeLoad _ _ _ => none
  | .homeStore _ _ _ => none
  | .homeAtomic _ _ _ => none
  | .homeFutureWrite _ _ _ => none
  | .homeFutureRead _ _ _ => none
  | .homeRingClaim _ _ _ => none
  | .homeRingCommit _ _ _ => none
  | .ringRequestResend _ _ _ => none
  | .homeRemoteWrite _ _ => none
  | .homeCounterWait _ _ _ => none
  | .quadTimeout _ _ => none
  | .matrixComplete _ _ => none
  | .fscStrikeEdge _ _ => none
  | .copyEngineRun _ _ _ _ => none
  | .copyComplete _ _ => none
  | .gatherRun _ _ _ => none
  | .gatherComplete _ _ => none
  | .engineFaultMap _ _ _ => none
  | .engineFaultDecline _ _ => none
  | .tableWalkComplete _ _ _ => none
  | .tlbInvalidate _ _ => none
  | .ridgeOfferAccept _ => none
  | .ridgeCopyUpdate _ => none
  | .ridgeConfigure _ _ _ => none
  | .taskAccept _ _ _ => none
  | .taskRemoval _ => none
  | .launchQueueConfigure _ _ _ _ _ => none
  | .carveOutGrant _ _ => none
  | .chipStrike => none
  | .contextStart _ => none
  | .contextPreempt _ => none
  | .groupSave _ => none
  | .drainComplete _ => none
  | .drainDeadline _ => none
  | .contextSwitchIn _ => none
  | .contextKill _ => none
  | .reclaimComplete _ => none
  | .powerSample _ _ => none
  | .sensorTakeBack _ => none
  | .drawWindowClose _ => none
  | .functionLevelReset => none
  | .linkRetrain _ _ => none
  | .attachRequest => none
  | .detachRequest => none
  | .acceptWrite _ => none
  | .qtailDoorbell _ _ _ => none
  | .queueConfigWrite _ _ _ => none
  | .completionConfigWrite _ _ => none
  | .cheadWrite _ _ => none
  | .bar0RegisterWrite _ _ => none
  | .hostRecordTake _ _ _ => none
  | .hostCopy _ _ => none
  | .completionRecordWrite _ => none
  | .netPuti _ _ => none
  | .netPutm _ _ => none
  | .netGet _ _ _ => none
  | .netExch _ _ _ => none
  | .netPacketReceive _ => none
  | .netAckReceive _ _ => none
  | .netRefusalReceive _ _ => none
  | .netRetransmitTimeout _ => none
  | .netPacketExpiry _ => none
  | .roleChange _ _ => none
  | .roleChangeReconfigure _ => none
  | .roleChangeAbandon => none
  | .coolantCheck _ _ => none
  | .coolingClassChange => none
  | .uncorrectableError _ => none
  | .hbmScrub _ => none
  | .l2Scrub _ => none
  | .thermalTrip => none
  | .moduleReset => none
  | .dyrokWatchdog => none
  | .boot _ => none
  | .bootTimeout => none
  | .firmwareUpdate _ => none
  | .spdmRequest _ => none
  | .pldmMonitorRequest _ => none
  | .undecodableWord _ => none
  | .fabricPortLinkChange _ _ => none
  | .ptpSyncChange _ _ => none
  | .fabricJobJoin _ _ => none
  | .contextCreate _ _ => none

/-- The word of an instruction under its row's mask is its row's match; what has no word has none in the table. -/
def Statement (i : Instr) : Prop :=
  match encode i, tableRow i with
  | some w, some r => w &&& r.2 = r.1
  | none, none => True
  | some _, none => False
  | none, some _ => False

theorem nop (x0 : Bool) : Statement (.nop x0) := by
  show _ &&& _ = _
  rw [encSYS, show (0x7FFFFFFF#32) = wordOf false 0x7F#7 0xFF#8 0xFF#8 0xFF#8 from rfl, wordOf_and]
  simp; rfl

theorem br (x0 : Bool) (x1 : BitVec 24) : Statement (.br x0 x1) := by
  show _ &&& _ = _
  rw [encJ, show (0x7F000000#32) = wordOf false 0x7F#7 0x00#8 0x00#8 0x00#8 from rfl, wordOf_and]
  simp; rfl

theorem brz (x0 : Bool) (x1 : Reg) (x2 : BitVec 16) : Statement (.brz x0 x1 x2) := by
  show _ &&& _ = _
  rw [encRI, show (0x7F000000#32) = wordOf false 0x7F#7 0x00#8 0x00#8 0x00#8 from rfl, wordOf_and]
  simp; rfl

theorem brnz (x0 : Bool) (x1 : Reg) (x2 : BitVec 16) : Statement (.brnz x0 x1 x2) := by
  show _ &&& _ = _
  rw [encRI, show (0x7F000000#32) = wordOf false 0x7F#7 0x00#8 0x00#8 0x00#8 from rfl, wordOf_and]
  simp; rfl

theorem call (x0 : Bool) (x1 : BitVec 24) : Statement (.call x0 x1) := by
  show _ &&& _ = _
  rw [encJ, show (0x7F000000#32) = wordOf false 0x7F#7 0x00#8 0x00#8 0x00#8 from rfl, wordOf_and]
  simp; rfl

theorem ret (x0 : Bool) : Statement (.ret x0) := by
  show _ &&& _ = _
  rw [show (0x7FFFFFFF#32) = wordOf false 0x7F#7 0xFF#8 0xFF#8 0xFF#8 from rfl, wordOf_and]
  simp; rfl

theorem jr (x0 : Bool) (x1 : Reg) (x2 : Reg) : Statement (.jr x0 x1 x2) := by
  show _ &&& _ = _
  rw [encRRX, show (0x7F0000FF#32) = wordOf false 0x7F#7 0x00#8 0x00#8 0xFF#8 from rfl, wordOf_and]
  simp; rfl

theorem part (x0 : Bool) (x1 : Reg) (x2 : Reg) : Statement (.part x0 x1 x2) := by
  show _ &&& _ = _
  rw [encRRX, show (0x7F0000FF#32) = wordOf false 0x7F#7 0x00#8 0x00#8 0xFF#8 from rfl, wordOf_and]
  simp; rfl

theorem regang (x0 : Bool) : Statement (.regang x0) := by
  show _ &&& _ = _
  rw [encSYS, show (0x7FFFFFFF#32) = wordOf false 0x7F#7 0xFF#8 0xFF#8 0xFF#8 from rfl, wordOf_and]
  simp; rfl

theorem yield (x0 : Bool) (x1 : Reg) (x2 : BitVec 16) : Statement (.yield x0 x1 x2) := by
  show _ &&& _ = _
  rw [encRI, show (0x7F000000#32) = wordOf false 0x7F#7 0x00#8 0x00#8 0x00#8 from rfl, wordOf_and]
  simp; rfl

theorem exit (x0 : Bool) : Statement (.exit x0) := by
  show _ &&& _ = _
  rw [encSYS, show (0x7FFFFFFF#32) = wordOf false 0x7F#7 0xFF#8 0xFF#8 0xFF#8 from rfl, wordOf_and]
  simp; rfl

theorem setm (x0 : Bool) (x1 : BitVec 16) : Statement (.setm x0 x1) := by
  show _ &&& _ = _
  rw [encSYS, show (0x7FFF0000#32) = wordOf false 0x7F#7 0xFF#8 0x00#8 0x00#8 from rfl, wordOf_and]
  simp; rfl

theorem trap (x0 : Bool) (x1 : BitVec 16) : Statement (.trap x0 x1) := by
  show _ &&& _ = _
  rw [encSYS, show (0x7FFF0000#32) = wordOf false 0x7F#7 0xFF#8 0x00#8 0x00#8 from rfl, wordOf_and]
  simp; rfl

theorem tret (x0 : Bool) : Statement (.tret x0) := by
  show _ &&& _ = _
  rw [encSYS, show (0x7FFFFFFF#32) = wordOf false 0x7F#7 0xFF#8 0xFF#8 0xFF#8 from rfl, wordOf_and]
  simp; rfl

theorem sysc (x0 : Bool) (x1 : BitVec 16) : Statement (.sysc x0 x1) := by
  show _ &&& _ = _
  rw [encSYS, show (0x7FFF0000#32) = wordOf false 0x7F#7 0xFF#8 0x00#8 0x00#8 from rfl, wordOf_and]
  simp; rfl

theorem rdsr (x0 : Bool) (x1 : Reg) (x2 : BitVec 16) : Statement (.rdsr x0 x1 x2) := by
  show _ &&& _ = _
  rw [encRI, show (0x7F000000#32) = wordOf false 0x7F#7 0x00#8 0x00#8 0x00#8 from rfl, wordOf_and]
  simp; rfl

theorem wrsr (x0 : Bool) (x1 : Reg) (x2 : BitVec 16) : Statement (.wrsr x0 x1 x2) := by
  show _ &&& _ = _
  rw [encRI, show (0x7F000000#32) = wordOf false 0x7F#7 0x00#8 0x00#8 0x00#8 from rfl, wordOf_and]
  simp; rfl

theorem add (x0 : Bool) (x1 : Reg) (x2 : Reg) (x3 : Reg) : Statement (.add x0 x1 x2 x3) := by
  show _ &&& _ = _
  rw [encRRR, show (0x7F000000#32) = wordOf false 0x7F#7 0x00#8 0x00#8 0x00#8 from rfl, wordOf_and]
  simp; rfl

theorem sub (x0 : Bool) (x1 : Reg) (x2 : Reg) (x3 : Reg) : Statement (.sub x0 x1 x2 x3) := by
  show _ &&& _ = _
  rw [encRRR, show (0x7F000000#32) = wordOf false 0x7F#7 0x00#8 0x00#8 0x00#8 from rfl, wordOf_and]
  simp; rfl

theorem mul (x0 : Bool) (x1 : Reg) (x2 : Reg) (x3 : Reg) : Statement (.mul x0 x1 x2 x3) := by
  show _ &&& _ = _
  rw [encRRR, show (0x7F000000#32) = wordOf false 0x7F#7 0x00#8 0x00#8 0x00#8 from rfl, wordOf_and]
  simp; rfl

theorem mulh (x0 : Bool) (x1 : Reg) (x2 : Reg) (x3 : Reg) : Statement (.mulh x0 x1 x2 x3) := by
  show _ &&& _ = _
  rw [encRRR, show (0x7F000000#32) = wordOf false 0x7F#7 0x00#8 0x00#8 0x00#8 from rfl, wordOf_and]
  simp; rfl

theorem and (x0 : Bool) (x1 : Reg) (x2 : Reg) (x3 : Reg) : Statement (.and x0 x1 x2 x3) := by
  show _ &&& _ = _
  rw [encRRR, show (0x7F000000#32) = wordOf false 0x7F#7 0x00#8 0x00#8 0x00#8 from rfl, wordOf_and]
  simp; rfl

theorem or (x0 : Bool) (x1 : Reg) (x2 : Reg) (x3 : Reg) : Statement (.or x0 x1 x2 x3) := by
  show _ &&& _ = _
  rw [encRRR, show (0x7F000000#32) = wordOf false 0x7F#7 0x00#8 0x00#8 0x00#8 from rfl, wordOf_and]
  simp; rfl

theorem xor (x0 : Bool) (x1 : Reg) (x2 : Reg) (x3 : Reg) : Statement (.xor x0 x1 x2 x3) := by
  show _ &&& _ = _
  rw [encRRR, show (0x7F000000#32) = wordOf false 0x7F#7 0x00#8 0x00#8 0x00#8 from rfl, wordOf_and]
  simp; rfl

theorem shl (x0 : Bool) (x1 : Reg) (x2 : Reg) (x3 : Reg) : Statement (.shl x0 x1 x2 x3) := by
  show _ &&& _ = _
  rw [encRRR, show (0x7F000000#32) = wordOf false 0x7F#7 0x00#8 0x00#8 0x00#8 from rfl, wordOf_and]
  simp; rfl

theorem shr (x0 : Bool) (x1 : Reg) (x2 : Reg) (x3 : Reg) : Statement (.shr x0 x1 x2 x3) := by
  show _ &&& _ = _
  rw [encRRR, show (0x7F000000#32) = wordOf false 0x7F#7 0x00#8 0x00#8 0x00#8 from rfl, wordOf_and]
  simp; rfl

theorem sar (x0 : Bool) (x1 : Reg) (x2 : Reg) (x3 : Reg) : Statement (.sar x0 x1 x2 x3) := by
  show _ &&& _ = _
  rw [encRRR, show (0x7F000000#32) = wordOf false 0x7F#7 0x00#8 0x00#8 0x00#8 from rfl, wordOf_and]
  simp; rfl

theorem rot (x0 : Bool) (x1 : Reg) (x2 : Reg) (x3 : Reg) : Statement (.rot x0 x1 x2 x3) := by
  show _ &&& _ = _
  rw [encRRR, show (0x7F000000#32) = wordOf false 0x7F#7 0x00#8 0x00#8 0x00#8 from rfl, wordOf_and]
  simp; rfl

theorem min (x0 : Bool) (x1 : Reg) (x2 : Reg) (x3 : Reg) : Statement (.min x0 x1 x2 x3) := by
  show _ &&& _ = _
  rw [encRRR, show (0x7F000000#32) = wordOf false 0x7F#7 0x00#8 0x00#8 0x00#8 from rfl, wordOf_and]
  simp; rfl

theorem max (x0 : Bool) (x1 : Reg) (x2 : Reg) (x3 : Reg) : Statement (.max x0 x1 x2 x3) := by
  show _ &&& _ = _
  rw [encRRR, show (0x7F000000#32) = wordOf false 0x7F#7 0x00#8 0x00#8 0x00#8 from rfl, wordOf_and]
  simp; rfl

theorem sel (x0 : Bool) (x1 : Reg) (x2 : Reg) (x3 : Reg) : Statement (.sel x0 x1 x2 x3) := by
  show _ &&& _ = _
  rw [encRRR, show (0x7F000000#32) = wordOf false 0x7F#7 0x00#8 0x00#8 0x00#8 from rfl, wordOf_and]
  simp; rfl

theorem mov (x0 : Bool) (x1 : Reg) (x2 : Reg) : Statement (.mov x0 x1 x2) := by
  show _ &&& _ = _
  rw [encRRX, show (0x7F0000FF#32) = wordOf false 0x7F#7 0x00#8 0x00#8 0xFF#8 from rfl, wordOf_and]
  simp; rfl

theorem queuePush (x0 : Bool) (x1 : Reg) (x2 : Reg) : Statement (.queuePush x0 x1 x2) := by
  show _ &&& _ = _
  rw [encRRX, show (0x7F0000FF#32) = wordOf false 0x7F#7 0x00#8 0x00#8 0xFF#8 from rfl, wordOf_and]
  simp; rfl

theorem queuePop (x0 : Bool) (x1 : Reg) (x2 : Reg) : Statement (.queuePop x0 x1 x2) := by
  show _ &&& _ = _
  rw [encRRX, show (0x7F0000FF#32) = wordOf false 0x7F#7 0x00#8 0x00#8 0xFF#8 from rfl, wordOf_and]
  simp; rfl

theorem popc (x0 : Bool) (x1 : Reg) (x2 : Reg) : Statement (.popc x0 x1 x2) := by
  show _ &&& _ = _
  rw [encRRX, show (0x7F0000FF#32) = wordOf false 0x7F#7 0x00#8 0x00#8 0xFF#8 from rfl, wordOf_and]
  simp; rfl

theorem clz (x0 : Bool) (x1 : Reg) (x2 : Reg) : Statement (.clz x0 x1 x2) := by
  show _ &&& _ = _
  rw [encRRX, show (0x7F0000FF#32) = wordOf false 0x7F#7 0x00#8 0x00#8 0xFF#8 from rfl, wordOf_and]
  simp; rfl

theorem ffs (x0 : Bool) (x1 : Reg) (x2 : Reg) : Statement (.ffs x0 x1 x2) := by
  show _ &&& _ = _
  rw [encRRX, show (0x7F0000FF#32) = wordOf false 0x7F#7 0x00#8 0x00#8 0xFF#8 from rfl, wordOf_and]
  simp; rfl

theorem rget (x0 : Bool) (x1 : Reg) (x2 : Reg) : Statement (.rget x0 x1 x2) := by
  show _ &&& _ = _
  rw [encRRX, show (0x7F0000FF#32) = wordOf false 0x7F#7 0x00#8 0x00#8 0xFF#8 from rfl, wordOf_and]
  simp; rfl

theorem rput (x0 : Bool) (x1 : Reg) (x2 : Reg) : Statement (.rput x0 x1 x2) := by
  show _ &&& _ = _
  rw [encRRX, show (0x7F0000FF#32) = wordOf false 0x7F#7 0x00#8 0x00#8 0xFF#8 from rfl, wordOf_and]
  simp; rfl

theorem li (x0 : Bool) (x1 : Reg) (x2 : BitVec 16) : Statement (.li x0 x1 x2) := by
  show _ &&& _ = _
  rw [encRI, show (0x7F000000#32) = wordOf false 0x7F#7 0x00#8 0x00#8 0x00#8 from rfl, wordOf_and]
  simp; rfl

theorem lih (x0 : Bool) (x1 : Reg) (x2 : BitVec 16) : Statement (.lih x0 x1 x2) := by
  show _ &&& _ = _
  rw [encRI, show (0x7F000000#32) = wordOf false 0x7F#7 0x00#8 0x00#8 0x00#8 from rfl, wordOf_and]
  simp; rfl

theorem addImm (x0 : Bool) (x1 : Reg) (x2 : Reg) (x3 : BitVec 8) : Statement (.addImm x0 x1 x2 x3) := by
  show _ &&& _ = _
  rw [encRRX, show (0x7F000000#32) = wordOf false 0x7F#7 0x00#8 0x00#8 0x00#8 from rfl, wordOf_and]
  simp; rfl

theorem mulImm (x0 : Bool) (x1 : Reg) (x2 : Reg) (x3 : BitVec 8) : Statement (.mulImm x0 x1 x2 x3) := by
  show _ &&& _ = _
  rw [encRRX, show (0x7F000000#32) = wordOf false 0x7F#7 0x00#8 0x00#8 0x00#8 from rfl, wordOf_and]
  simp; rfl

theorem andImm (x0 : Bool) (x1 : Reg) (x2 : Reg) (x3 : BitVec 8) : Statement (.andImm x0 x1 x2 x3) := by
  show _ &&& _ = _
  rw [encRRX, show (0x7F000000#32) = wordOf false 0x7F#7 0x00#8 0x00#8 0x00#8 from rfl, wordOf_and]
  simp; rfl

theorem orImm (x0 : Bool) (x1 : Reg) (x2 : Reg) (x3 : BitVec 8) : Statement (.orImm x0 x1 x2 x3) := by
  show _ &&& _ = _
  rw [encRRX, show (0x7F000000#32) = wordOf false 0x7F#7 0x00#8 0x00#8 0x00#8 from rfl, wordOf_and]
  simp; rfl

theorem xorImm (x0 : Bool) (x1 : Reg) (x2 : Reg) (x3 : BitVec 8) : Statement (.xorImm x0 x1 x2 x3) := by
  show _ &&& _ = _
  rw [encRRX, show (0x7F000000#32) = wordOf false 0x7F#7 0x00#8 0x00#8 0x00#8 from rfl, wordOf_and]
  simp; rfl

theorem shlImm (x0 : Bool) (x1 : Reg) (x2 : Reg) (x3 : BitVec 6) : Statement (.shlImm x0 x1 x2 x3) := by
  show _ &&& _ = _
  rw [encRRX, show (0x7F0000C0#32) = wordOf false 0x7F#7 0x00#8 0x00#8 (3#2 ++ 0#6) from rfl, wordOf_and, BitVec.and_append]
  simp; rfl

theorem shrImm (x0 : Bool) (x1 : Reg) (x2 : Reg) (x3 : BitVec 6) : Statement (.shrImm x0 x1 x2 x3) := by
  show _ &&& _ = _
  rw [encRRX, show (0x7F0000C0#32) = wordOf false 0x7F#7 0x00#8 0x00#8 (3#2 ++ 0#6) from rfl, wordOf_and, BitVec.and_append]
  simp; rfl

theorem sarImm (x0 : Bool) (x1 : Reg) (x2 : Reg) (x3 : BitVec 6) : Statement (.sarImm x0 x1 x2 x3) := by
  show _ &&& _ = _
  rw [encRRX, show (0x7F0000C0#32) = wordOf false 0x7F#7 0x00#8 0x00#8 (3#2 ++ 0#6) from rfl, wordOf_and, BitVec.and_append]
  simp; rfl

theorem rotImm (x0 : Bool) (x1 : Reg) (x2 : Reg) (x3 : BitVec 6) : Statement (.rotImm x0 x1 x2 x3) := by
  show _ &&& _ = _
  rw [encRRX, show (0x7F0000C0#32) = wordOf false 0x7F#7 0x00#8 0x00#8 (3#2 ++ 0#6) from rfl, wordOf_and, BitVec.and_append]
  simp; rfl

theorem minImm (x0 : Bool) (x1 : Reg) (x2 : Reg) (x3 : BitVec 8) : Statement (.minImm x0 x1 x2 x3) := by
  show _ &&& _ = _
  rw [encRRX, show (0x7F000000#32) = wordOf false 0x7F#7 0x00#8 0x00#8 0x00#8 from rfl, wordOf_and]
  simp; rfl

theorem maxImm (x0 : Bool) (x1 : Reg) (x2 : Reg) (x3 : BitVec 8) : Statement (.maxImm x0 x1 x2 x3) := by
  show _ &&& _ = _
  rw [encRRX, show (0x7F000000#32) = wordOf false 0x7F#7 0x00#8 0x00#8 0x00#8 from rfl, wordOf_and]
  simp; rfl

theorem fadd (x0 : Bool) (x1 : Reg) (x2 : Reg) (x3 : Reg) : Statement (.fadd x0 x1 x2 x3) := by
  show _ &&& _ = _
  rw [encRRR, show (0x7F000000#32) = wordOf false 0x7F#7 0x00#8 0x00#8 0x00#8 from rfl, wordOf_and]
  simp; rfl

theorem fsub (x0 : Bool) (x1 : Reg) (x2 : Reg) (x3 : Reg) : Statement (.fsub x0 x1 x2 x3) := by
  show _ &&& _ = _
  rw [encRRR, show (0x7F000000#32) = wordOf false 0x7F#7 0x00#8 0x00#8 0x00#8 from rfl, wordOf_and]
  simp; rfl

theorem fmul (x0 : Bool) (x1 : Reg) (x2 : Reg) (x3 : Reg) : Statement (.fmul x0 x1 x2 x3) := by
  show _ &&& _ = _
  rw [encRRR, show (0x7F000000#32) = wordOf false 0x7F#7 0x00#8 0x00#8 0x00#8 from rfl, wordOf_and]
  simp; rfl

theorem fma (x0 : Bool) (x1 : Reg) (x2 : Reg) (x3 : Reg) : Statement (.fma x0 x1 x2 x3) := by
  show _ &&& _ = _
  rw [encRRR, show (0x7F000000#32) = wordOf false 0x7F#7 0x00#8 0x00#8 0x00#8 from rfl, wordOf_and]
  simp; rfl

theorem fms (x0 : Bool) (x1 : Reg) (x2 : Reg) (x3 : Reg) : Statement (.fms x0 x1 x2 x3) := by
  show _ &&& _ = _
  rw [encRRR, show (0x7F000000#32) = wordOf false 0x7F#7 0x00#8 0x00#8 0x00#8 from rfl, wordOf_and]
  simp; rfl

theorem fmin (x0 : Bool) (x1 : Reg) (x2 : Reg) (x3 : Reg) : Statement (.fmin x0 x1 x2 x3) := by
  show _ &&& _ = _
  rw [encRRR, show (0x7F000000#32) = wordOf false 0x7F#7 0x00#8 0x00#8 0x00#8 from rfl, wordOf_and]
  simp; rfl

theorem fmax (x0 : Bool) (x1 : Reg) (x2 : Reg) (x3 : Reg) : Statement (.fmax x0 x1 x2 x3) := by
  show _ &&& _ = _
  rw [encRRR, show (0x7F000000#32) = wordOf false 0x7F#7 0x00#8 0x00#8 0x00#8 from rfl, wordOf_and]
  simp; rfl

theorem div (x0 : Bool) (x1 : Reg) (x2 : Reg) (x3 : Reg) : Statement (.div x0 x1 x2 x3) := by
  show _ &&& _ = _
  rw [encRRR, show (0x7F000000#32) = wordOf false 0x7F#7 0x00#8 0x00#8 0x00#8 from rfl, wordOf_and]
  simp; rfl

theorem fneg (x0 : Bool) (x1 : Reg) (x2 : Reg) : Statement (.fneg x0 x1 x2) := by
  show _ &&& _ = _
  rw [encRRX, show (0x7F0000FF#32) = wordOf false 0x7F#7 0x00#8 0x00#8 0xFF#8 from rfl, wordOf_and]
  simp; rfl

theorem fabs (x0 : Bool) (x1 : Reg) (x2 : Reg) : Statement (.fabs x0 x1 x2) := by
  show _ &&& _ = _
  rw [encRRX, show (0x7F0000FF#32) = wordOf false 0x7F#7 0x00#8 0x00#8 0xFF#8 from rfl, wordOf_and]
  simp; rfl

theorem sqrt (x0 : Bool) (x1 : Reg) (x2 : Reg) : Statement (.sqrt x0 x1 x2) := by
  show _ &&& _ = _
  rw [encRRX, show (0x7F0000FF#32) = wordOf false 0x7F#7 0x00#8 0x00#8 0xFF#8 from rfl, wordOf_and]
  simp; rfl

theorem rcp (x0 : Bool) (x1 : Reg) (x2 : Reg) : Statement (.rcp x0 x1 x2) := by
  show _ &&& _ = _
  rw [encRRX, show (0x7F0000FF#32) = wordOf false 0x7F#7 0x00#8 0x00#8 0xFF#8 from rfl, wordOf_and]
  simp; rfl

theorem rsqrt (x0 : Bool) (x1 : Reg) (x2 : Reg) : Statement (.rsqrt x0 x1 x2) := by
  show _ &&& _ = _
  rw [encRRX, show (0x7F0000FF#32) = wordOf false 0x7F#7 0x00#8 0x00#8 0xFF#8 from rfl, wordOf_and]
  simp; rfl

theorem cvt (x0 : Bool) (x1 : Reg) (x2 : Reg) (x3 : EType) : Statement (.cvt x0 x1 x2 x3) := by
  show _ &&& _ = _
  rw [encRRX, show (0x7F0000F0#32) = wordOf false 0x7F#7 0x00#8 0x00#8 (15#4 ++ 0#4) from rfl, wordOf_and, BitVec.and_append]
  simp; rfl

theorem ceq (x0 : Bool) (x1 : Reg) (x2 : Reg) (x3 : Reg) : Statement (.ceq x0 x1 x2 x3) := by
  show _ &&& _ = _
  rw [encRRR, show (0x7F000000#32) = wordOf false 0x7F#7 0x00#8 0x00#8 0x00#8 from rfl, wordOf_and]
  simp; rfl

theorem cne (x0 : Bool) (x1 : Reg) (x2 : Reg) (x3 : Reg) : Statement (.cne x0 x1 x2 x3) := by
  show _ &&& _ = _
  rw [encRRR, show (0x7F000000#32) = wordOf false 0x7F#7 0x00#8 0x00#8 0x00#8 from rfl, wordOf_and]
  simp; rfl

theorem clt (x0 : Bool) (x1 : Reg) (x2 : Reg) (x3 : Reg) : Statement (.clt x0 x1 x2 x3) := by
  show _ &&& _ = _
  rw [encRRR, show (0x7F000000#32) = wordOf false 0x7F#7 0x00#8 0x00#8 0x00#8 from rfl, wordOf_and]
  simp; rfl

theorem cle (x0 : Bool) (x1 : Reg) (x2 : Reg) (x3 : Reg) : Statement (.cle x0 x1 x2 x3) := by
  show _ &&& _ = _
  rw [encRRR, show (0x7F000000#32) = wordOf false 0x7F#7 0x00#8 0x00#8 0x00#8 from rfl, wordOf_and]
  simp; rfl

theorem cun (x0 : Bool) (x1 : Reg) (x2 : Reg) (x3 : Reg) : Statement (.cun x0 x1 x2 x3) := by
  show _ &&& _ = _
  rw [encRRR, show (0x7F000000#32) = wordOf false 0x7F#7 0x00#8 0x00#8 0x00#8 from rfl, wordOf_and]
  simp; rfl

theorem sceq (x0 : Bool) (x1 : Reg) (x2 : Reg) (x3 : Reg) : Statement (.sceq x0 x1 x2 x3) := by
  show _ &&& _ = _
  rw [encRRR, show (0x7F000000#32) = wordOf false 0x7F#7 0x00#8 0x00#8 0x00#8 from rfl, wordOf_and]
  simp; rfl

theorem scne (x0 : Bool) (x1 : Reg) (x2 : Reg) (x3 : Reg) : Statement (.scne x0 x1 x2 x3) := by
  show _ &&& _ = _
  rw [encRRR, show (0x7F000000#32) = wordOf false 0x7F#7 0x00#8 0x00#8 0x00#8 from rfl, wordOf_and]
  simp; rfl

theorem sclt (x0 : Bool) (x1 : Reg) (x2 : Reg) (x3 : Reg) : Statement (.sclt x0 x1 x2 x3) := by
  show _ &&& _ = _
  rw [encRRR, show (0x7F000000#32) = wordOf false 0x7F#7 0x00#8 0x00#8 0x00#8 from rfl, wordOf_and]
  simp; rfl

theorem scle (x0 : Bool) (x1 : Reg) (x2 : Reg) (x3 : Reg) : Statement (.scle x0 x1 x2 x3) := by
  show _ &&& _ = _
  rw [encRRR, show (0x7F000000#32) = wordOf false 0x7F#7 0x00#8 0x00#8 0x00#8 from rfl, wordOf_and]
  simp; rfl

theorem scun (x0 : Bool) (x1 : Reg) (x2 : Reg) (x3 : Reg) : Statement (.scun x0 x1 x2 x3) := by
  show _ &&& _ = _
  rw [encRRR, show (0x7F000000#32) = wordOf false 0x7F#7 0x00#8 0x00#8 0x00#8 from rfl, wordOf_and]
  simp; rfl

theorem mand (x0 : Bool) (x1 : Reg) (x2 : Reg) (x3 : Reg) : Statement (.mand x0 x1 x2 x3) := by
  show _ &&& _ = _
  rw [encRRR, show (0x7F000000#32) = wordOf false 0x7F#7 0x00#8 0x00#8 0x00#8 from rfl, wordOf_and]
  simp; rfl

theorem mor (x0 : Bool) (x1 : Reg) (x2 : Reg) (x3 : Reg) : Statement (.mor x0 x1 x2 x3) := by
  show _ &&& _ = _
  rw [encRRR, show (0x7F000000#32) = wordOf false 0x7F#7 0x00#8 0x00#8 0x00#8 from rfl, wordOf_and]
  simp; rfl

theorem mxor (x0 : Bool) (x1 : Reg) (x2 : Reg) (x3 : Reg) : Statement (.mxor x0 x1 x2 x3) := by
  show _ &&& _ = _
  rw [encRRR, show (0x7F000000#32) = wordOf false 0x7F#7 0x00#8 0x00#8 0x00#8 from rfl, wordOf_and]
  simp; rfl

theorem mnot (x0 : Bool) (x1 : Reg) (x2 : Reg) : Statement (.mnot x0 x1 x2) := by
  show _ &&& _ = _
  rw [encRRX, show (0x7F0000FF#32) = wordOf false 0x7F#7 0x00#8 0x00#8 0xFF#8 from rfl, wordOf_and]
  simp; rfl

theorem msave (x0 : Bool) (x1 : Reg) (x2 : Reg) : Statement (.msave x0 x1 x2) := by
  show _ &&& _ = _
  rw [encRRX, show (0x7F0000FF#32) = wordOf false 0x7F#7 0x00#8 0x00#8 0xFF#8 from rfl, wordOf_and]
  simp; rfl

theorem mrest (x0 : Bool) (x1 : Reg) (x2 : Reg) : Statement (.mrest x0 x1 x2) := by
  show _ &&& _ = _
  rw [encRRX, show (0x7F0000FF#32) = wordOf false 0x7F#7 0x00#8 0x00#8 0xFF#8 from rfl, wordOf_and]
  simp; rfl

theorem mpop (x0 : Bool) (x1 : Reg) (x2 : Reg) : Statement (.mpop x0 x1 x2) := by
  show _ &&& _ = _
  rw [encRRX, show (0x7F0000FF#32) = wordOf false 0x7F#7 0x00#8 0x00#8 0xFF#8 from rfl, wordOf_and]
  simp; rfl

theorem mffs (x0 : Bool) (x1 : Reg) (x2 : Reg) : Statement (.mffs x0 x1 x2) := by
  show _ &&& _ = _
  rw [encRRX, show (0x7F0000FF#32) = wordOf false 0x7F#7 0x00#8 0x00#8 0xFF#8 from rfl, wordOf_and]
  simp; rfl

theorem redadd (x0 : Bool) (x1 : Reg) (x2 : Reg) : Statement (.redadd x0 x1 x2) := by
  show _ &&& _ = _
  rw [encRRX, show (0x7F0000FF#32) = wordOf false 0x7F#7 0x00#8 0x00#8 0xFF#8 from rfl, wordOf_and]
  simp; rfl

theorem redmin (x0 : Bool) (x1 : Reg) (x2 : Reg) : Statement (.redmin x0 x1 x2) := by
  show _ &&& _ = _
  rw [encRRX, show (0x7F0000FF#32) = wordOf false 0x7F#7 0x00#8 0x00#8 0xFF#8 from rfl, wordOf_and]
  simp; rfl

theorem redmax (x0 : Bool) (x1 : Reg) (x2 : Reg) : Statement (.redmax x0 x1 x2) := by
  show _ &&& _ = _
  rw [encRRX, show (0x7F0000FF#32) = wordOf false 0x7F#7 0x00#8 0x00#8 0xFF#8 from rfl, wordOf_and]
  simp; rfl

theorem scan (x0 : Bool) (x1 : Reg) (x2 : Reg) : Statement (.scan x0 x1 x2) := by
  show _ &&& _ = _
  rw [encRRX, show (0x7F0000FF#32) = wordOf false 0x7F#7 0x00#8 0x00#8 0xFF#8 from rfl, wordOf_and]
  simp; rfl

theorem shfl (x0 : Bool) (x1 : Reg) (x2 : Reg) (x3 : Reg) : Statement (.shfl x0 x1 x2 x3) := by
  show _ &&& _ = _
  rw [encRRR, show (0x7F000000#32) = wordOf false 0x7F#7 0x00#8 0x00#8 0x00#8 from rfl, wordOf_and]
  simp; rfl

theorem shfi (x0 : Bool) (x1 : Reg) (x2 : Reg) (x3 : LanePat) (x4 : BitVec 5) : Statement (.shfi x0 x1 x2 x3 x4) := by
  show _ &&& _ = _
  rw [encRRX, show (0x7F000000#32) = wordOf false 0x7F#7 0x00#8 0x00#8 0x00#8 from rfl, wordOf_and]
  simp; rfl

theorem lsh (x0 : Bool) (x1 : Reg) (x2 : Reg) (x3 : Reg) : Statement (.lsh x0 x1 x2 x3) := by
  show _ &&& _ = _
  rw [encRRR, show (0x7F000000#32) = wordOf false 0x7F#7 0x00#8 0x00#8 0x00#8 from rfl, wordOf_and]
  simp; rfl

theorem btl (x0 : Bool) (x1 : Reg) (x2 : Reg) (x3 : Reg) : Statement (.btl x0 x1 x2 x3) := by
  show _ &&& _ = _
  rw [encRRR, show (0x7F000000#32) = wordOf false 0x7F#7 0x00#8 0x00#8 0x00#8 from rfl, wordOf_and]
  simp; rfl

theorem btlh (x0 : Bool) (x1 : Reg) (x2 : Reg) (x3 : Reg) : Statement (.btlh x0 x1 x2 x3) := by
  show _ &&& _ = _
  rw [encRRR, show (0x7F000000#32) = wordOf false 0x7F#7 0x00#8 0x00#8 0x00#8 from rfl, wordOf_and]
  simp; rfl

theorem dot8 (x0 : Bool) (x1 : Reg) (x2 : Reg) (x3 : Reg) : Statement (.dot8 x0 x1 x2 x3) := by
  show _ &&& _ = _
  rw [encRRR, show (0x7F000000#32) = wordOf false 0x7F#7 0x00#8 0x00#8 0x00#8 from rfl, wordOf_and]
  simp; rfl

theorem dot4 (x0 : Bool) (x1 : Reg) (x2 : Reg) (x3 : Reg) : Statement (.dot4 x0 x1 x2 x3) := by
  show _ &&& _ = _
  rw [encRRR, show (0x7F000000#32) = wordOf false 0x7F#7 0x00#8 0x00#8 0x00#8 from rfl, wordOf_and]
  simp; rfl

theorem ldb (x0 : Bool) (x1 : Reg) (x2 : Reg) (x3 : Reg) : Statement (.ldb x0 x1 x2 x3) := by
  show _ &&& _ = _
  rw [encRRR, show (0x7F000000#32) = wordOf false 0x7F#7 0x00#8 0x00#8 0x00#8 from rfl, wordOf_and]
  simp; rfl

theorem ldh (x0 : Bool) (x1 : Reg) (x2 : Reg) (x3 : Reg) : Statement (.ldh x0 x1 x2 x3) := by
  show _ &&& _ = _
  rw [encRRR, show (0x7F000000#32) = wordOf false 0x7F#7 0x00#8 0x00#8 0x00#8 from rfl, wordOf_and]
  simp; rfl

theorem ldw (x0 : Bool) (x1 : Reg) (x2 : Reg) (x3 : Reg) : Statement (.ldw x0 x1 x2 x3) := by
  show _ &&& _ = _
  rw [encRRR, show (0x7F000000#32) = wordOf false 0x7F#7 0x00#8 0x00#8 0x00#8 from rfl, wordOf_and]
  simp; rfl

theorem ldd (x0 : Bool) (x1 : Reg) (x2 : Reg) (x3 : Reg) : Statement (.ldd x0 x1 x2 x3) := by
  show _ &&& _ = _
  rw [encRRR, show (0x7F000000#32) = wordOf false 0x7F#7 0x00#8 0x00#8 0x00#8 from rfl, wordOf_and]
  simp; rfl

theorem ldq (x0 : Bool) (x1 : Reg) (x2 : Reg) (x3 : Reg) : Statement (.ldq x0 x1 x2 x3) := by
  show _ &&& _ = _
  rw [encRRR, show (0x7F000000#32) = wordOf false 0x7F#7 0x00#8 0x00#8 0x00#8 from rfl, wordOf_and]
  simp; rfl

theorem stb (x0 : Bool) (x1 : Reg) (x2 : Reg) (x3 : Reg) : Statement (.stb x0 x1 x2 x3) := by
  show _ &&& _ = _
  rw [encRRR, show (0x7F000000#32) = wordOf false 0x7F#7 0x00#8 0x00#8 0x00#8 from rfl, wordOf_and]
  simp; rfl

theorem sth (x0 : Bool) (x1 : Reg) (x2 : Reg) (x3 : Reg) : Statement (.sth x0 x1 x2 x3) := by
  show _ &&& _ = _
  rw [encRRR, show (0x7F000000#32) = wordOf false 0x7F#7 0x00#8 0x00#8 0x00#8 from rfl, wordOf_and]
  simp; rfl

theorem stw (x0 : Bool) (x1 : Reg) (x2 : Reg) (x3 : Reg) : Statement (.stw x0 x1 x2 x3) := by
  show _ &&& _ = _
  rw [encRRR, show (0x7F000000#32) = wordOf false 0x7F#7 0x00#8 0x00#8 0x00#8 from rfl, wordOf_and]
  simp; rfl

theorem std (x0 : Bool) (x1 : Reg) (x2 : Reg) (x3 : Reg) : Statement (.std x0 x1 x2 x3) := by
  show _ &&& _ = _
  rw [encRRR, show (0x7F000000#32) = wordOf false 0x7F#7 0x00#8 0x00#8 0x00#8 from rfl, wordOf_and]
  simp; rfl

theorem stq (x0 : Bool) (x1 : Reg) (x2 : Reg) (x3 : Reg) : Statement (.stq x0 x1 x2 x3) := by
  show _ &&& _ = _
  rw [encRRR, show (0x7F000000#32) = wordOf false 0x7F#7 0x00#8 0x00#8 0x00#8 from rfl, wordOf_and]
  simp; rfl

theorem ldbImm (x0 : Bool) (x1 : Reg) (x2 : Reg) (x3 : BitVec 5) : Statement (.ldbImm x0 x1 x2 x3) := by
  show _ &&& _ = _
  rw [encRRX, show (0x7F0000E0#32) = wordOf false 0x7F#7 0x00#8 0x00#8 (7#3 ++ 0#5) from rfl, wordOf_and, BitVec.and_append]
  simp; rfl

theorem ldhImm (x0 : Bool) (x1 : Reg) (x2 : Reg) (x3 : BitVec 5) : Statement (.ldhImm x0 x1 x2 x3) := by
  show _ &&& _ = _
  rw [encRRX, show (0x7F0000E0#32) = wordOf false 0x7F#7 0x00#8 0x00#8 (7#3 ++ 0#5) from rfl, wordOf_and, BitVec.and_append]
  simp; rfl

theorem ldwImm (x0 : Bool) (x1 : Reg) (x2 : Reg) (x3 : BitVec 5) : Statement (.ldwImm x0 x1 x2 x3) := by
  show _ &&& _ = _
  rw [encRRX, show (0x7F0000E0#32) = wordOf false 0x7F#7 0x00#8 0x00#8 (7#3 ++ 0#5) from rfl, wordOf_and, BitVec.and_append]
  simp; rfl

theorem lddImm (x0 : Bool) (x1 : Reg) (x2 : Reg) (x3 : BitVec 5) : Statement (.lddImm x0 x1 x2 x3) := by
  show _ &&& _ = _
  rw [encRRX, show (0x7F0000E0#32) = wordOf false 0x7F#7 0x00#8 0x00#8 (7#3 ++ 0#5) from rfl, wordOf_and, BitVec.and_append]
  simp; rfl

theorem ldqImm (x0 : Bool) (x1 : Reg) (x2 : Reg) (x3 : BitVec 5) : Statement (.ldqImm x0 x1 x2 x3) := by
  show _ &&& _ = _
  rw [encRRX, show (0x7F0000E0#32) = wordOf false 0x7F#7 0x00#8 0x00#8 (7#3 ++ 0#5) from rfl, wordOf_and, BitVec.and_append]
  simp; rfl

theorem stbImm (x0 : Bool) (x1 : Reg) (x2 : Reg) (x3 : BitVec 5) : Statement (.stbImm x0 x1 x2 x3) := by
  show _ &&& _ = _
  rw [encRRX, show (0x7F0000E0#32) = wordOf false 0x7F#7 0x00#8 0x00#8 (7#3 ++ 0#5) from rfl, wordOf_and, BitVec.and_append]
  simp; rfl

theorem sthImm (x0 : Bool) (x1 : Reg) (x2 : Reg) (x3 : BitVec 5) : Statement (.sthImm x0 x1 x2 x3) := by
  show _ &&& _ = _
  rw [encRRX, show (0x7F0000E0#32) = wordOf false 0x7F#7 0x00#8 0x00#8 (7#3 ++ 0#5) from rfl, wordOf_and, BitVec.and_append]
  simp; rfl

theorem stwImm (x0 : Bool) (x1 : Reg) (x2 : Reg) (x3 : BitVec 5) : Statement (.stwImm x0 x1 x2 x3) := by
  show _ &&& _ = _
  rw [encRRX, show (0x7F0000E0#32) = wordOf false 0x7F#7 0x00#8 0x00#8 (7#3 ++ 0#5) from rfl, wordOf_and, BitVec.and_append]
  simp; rfl

theorem stdImm (x0 : Bool) (x1 : Reg) (x2 : Reg) (x3 : BitVec 5) : Statement (.stdImm x0 x1 x2 x3) := by
  show _ &&& _ = _
  rw [encRRX, show (0x7F0000E0#32) = wordOf false 0x7F#7 0x00#8 0x00#8 (7#3 ++ 0#5) from rfl, wordOf_and, BitVec.and_append]
  simp; rfl

theorem stqImm (x0 : Bool) (x1 : Reg) (x2 : Reg) (x3 : BitVec 5) : Statement (.stqImm x0 x1 x2 x3) := by
  show _ &&& _ = _
  rw [encRRX, show (0x7F0000E0#32) = wordOf false 0x7F#7 0x00#8 0x00#8 (7#3 ++ 0#5) from rfl, wordOf_and, BitVec.and_append]
  simp; rfl

theorem lds (x0 : Bool) (x1 : Reg) (x2 : Reg) (x3 : Reg) : Statement (.lds x0 x1 x2 x3) := by
  show _ &&& _ = _
  rw [encRRR, show (0x7F000000#32) = wordOf false 0x7F#7 0x00#8 0x00#8 0x00#8 from rfl, wordOf_and]
  simp; rfl

theorem sts (x0 : Bool) (x1 : Reg) (x2 : Reg) (x3 : Reg) : Statement (.sts x0 x1 x2 x3) := by
  show _ &&& _ = _
  rw [encRRR, show (0x7F000000#32) = wordOf false 0x7F#7 0x00#8 0x00#8 0x00#8 from rfl, wordOf_and]
  simp; rfl

theorem aadd (x0 : Bool) (x1 : Reg) (x2 : Reg) (x3 : Scope) : Statement (.aadd x0 x1 x2 x3) := by
  show _ &&& _ = _
  rw [encRRX, show (0x7F00008F#32) = wordOf false 0x7F#7 0x00#8 0x00#8 0x8F#8 from rfl, wordOf_and]
  cases x3 <;> simp [atomX, Scope.num] <;> rfl

theorem aaddR (x0 : Bool) (x1 : Reg) (x2 : Reg) (x3 : Scope) : Statement (.aaddR x0 x1 x2 x3) := by
  show _ &&& _ = _
  rw [encRRX, show (0x7F00008F#32) = wordOf false 0x7F#7 0x00#8 0x00#8 0x8F#8 from rfl, wordOf_and]
  cases x3 <;> simp [atomX, Scope.num] <;> rfl

theorem amin (x0 : Bool) (x1 : Reg) (x2 : Reg) (x3 : Scope) : Statement (.amin x0 x1 x2 x3) := by
  show _ &&& _ = _
  rw [encRRX, show (0x7F00008F#32) = wordOf false 0x7F#7 0x00#8 0x00#8 0x8F#8 from rfl, wordOf_and]
  cases x3 <;> simp [atomX, Scope.num] <;> rfl

theorem aminR (x0 : Bool) (x1 : Reg) (x2 : Reg) (x3 : Scope) : Statement (.aminR x0 x1 x2 x3) := by
  show _ &&& _ = _
  rw [encRRX, show (0x7F00008F#32) = wordOf false 0x7F#7 0x00#8 0x00#8 0x8F#8 from rfl, wordOf_and]
  cases x3 <;> simp [atomX, Scope.num] <;> rfl

theorem amax (x0 : Bool) (x1 : Reg) (x2 : Reg) (x3 : Scope) : Statement (.amax x0 x1 x2 x3) := by
  show _ &&& _ = _
  rw [encRRX, show (0x7F00008F#32) = wordOf false 0x7F#7 0x00#8 0x00#8 0x8F#8 from rfl, wordOf_and]
  cases x3 <;> simp [atomX, Scope.num] <;> rfl

theorem amaxR (x0 : Bool) (x1 : Reg) (x2 : Reg) (x3 : Scope) : Statement (.amaxR x0 x1 x2 x3) := by
  show _ &&& _ = _
  rw [encRRX, show (0x7F00008F#32) = wordOf false 0x7F#7 0x00#8 0x00#8 0x8F#8 from rfl, wordOf_and]
  cases x3 <;> simp [atomX, Scope.num] <;> rfl

theorem aand (x0 : Bool) (x1 : Reg) (x2 : Reg) (x3 : Scope) : Statement (.aand x0 x1 x2 x3) := by
  show _ &&& _ = _
  rw [encRRX, show (0x7F00008F#32) = wordOf false 0x7F#7 0x00#8 0x00#8 0x8F#8 from rfl, wordOf_and]
  cases x3 <;> simp [atomX, Scope.num] <;> rfl

theorem aandR (x0 : Bool) (x1 : Reg) (x2 : Reg) (x3 : Scope) : Statement (.aandR x0 x1 x2 x3) := by
  show _ &&& _ = _
  rw [encRRX, show (0x7F00008F#32) = wordOf false 0x7F#7 0x00#8 0x00#8 0x8F#8 from rfl, wordOf_and]
  cases x3 <;> simp [atomX, Scope.num] <;> rfl

theorem aor (x0 : Bool) (x1 : Reg) (x2 : Reg) (x3 : Scope) : Statement (.aor x0 x1 x2 x3) := by
  show _ &&& _ = _
  rw [encRRX, show (0x7F00008F#32) = wordOf false 0x7F#7 0x00#8 0x00#8 0x8F#8 from rfl, wordOf_and]
  cases x3 <;> simp [atomX, Scope.num] <;> rfl

theorem aorR (x0 : Bool) (x1 : Reg) (x2 : Reg) (x3 : Scope) : Statement (.aorR x0 x1 x2 x3) := by
  show _ &&& _ = _
  rw [encRRX, show (0x7F00008F#32) = wordOf false 0x7F#7 0x00#8 0x00#8 0x8F#8 from rfl, wordOf_and]
  cases x3 <;> simp [atomX, Scope.num] <;> rfl

theorem axor (x0 : Bool) (x1 : Reg) (x2 : Reg) (x3 : Scope) : Statement (.axor x0 x1 x2 x3) := by
  show _ &&& _ = _
  rw [encRRX, show (0x7F00008F#32) = wordOf false 0x7F#7 0x00#8 0x00#8 0x8F#8 from rfl, wordOf_and]
  cases x3 <;> simp [atomX, Scope.num] <;> rfl

theorem axorR (x0 : Bool) (x1 : Reg) (x2 : Reg) (x3 : Scope) : Statement (.axorR x0 x1 x2 x3) := by
  show _ &&& _ = _
  rw [encRRX, show (0x7F00008F#32) = wordOf false 0x7F#7 0x00#8 0x00#8 0x8F#8 from rfl, wordOf_and]
  cases x3 <;> simp [atomX, Scope.num] <;> rfl

theorem axch (x0 : Bool) (x1 : Reg) (x2 : Reg) (x3 : Scope) : Statement (.axch x0 x1 x2 x3) := by
  show _ &&& _ = _
  rw [encRRX, show (0x7F00008F#32) = wordOf false 0x7F#7 0x00#8 0x00#8 0x8F#8 from rfl, wordOf_and]
  cases x3 <;> simp [atomX, Scope.num] <;> rfl

theorem axchR (x0 : Bool) (x1 : Reg) (x2 : Reg) (x3 : Scope) : Statement (.axchR x0 x1 x2 x3) := by
  show _ &&& _ = _
  rw [encRRX, show (0x7F00008F#32) = wordOf false 0x7F#7 0x00#8 0x00#8 0x8F#8 from rfl, wordOf_and]
  cases x3 <;> simp [atomX, Scope.num] <;> rfl

theorem acas (x0 : Bool) (x1 : Reg) (x2 : Reg) (x3 : Scope) : Statement (.acas x0 x1 x2 x3) := by
  show _ &&& _ = _
  rw [encRRX, show (0x7F00008F#32) = wordOf false 0x7F#7 0x00#8 0x00#8 0x8F#8 from rfl, wordOf_and]
  cases x3 <;> simp [atomX, Scope.num] <;> rfl

theorem acasR (x0 : Bool) (x1 : Reg) (x2 : Reg) (x3 : Scope) : Statement (.acasR x0 x1 x2 x3) := by
  show _ &&& _ = _
  rw [encRRX, show (0x7F00008F#32) = wordOf false 0x7F#7 0x00#8 0x00#8 0x8F#8 from rfl, wordOf_and]
  cases x3 <;> simp [atomX, Scope.num] <;> rfl

theorem afadd (x0 : Bool) (x1 : Reg) (x2 : Reg) (x3 : Scope) : Statement (.afadd x0 x1 x2 x3) := by
  show _ &&& _ = _
  rw [encRRX, show (0x7F00008F#32) = wordOf false 0x7F#7 0x00#8 0x00#8 0x8F#8 from rfl, wordOf_and]
  cases x3 <;> simp [atomX, Scope.num] <;> rfl

theorem afaddR (x0 : Bool) (x1 : Reg) (x2 : Reg) (x3 : Scope) : Statement (.afaddR x0 x1 x2 x3) := by
  show _ &&& _ = _
  rw [encRRX, show (0x7F00008F#32) = wordOf false 0x7F#7 0x00#8 0x00#8 0x8F#8 from rfl, wordOf_and]
  cases x3 <;> simp [atomX, Scope.num] <;> rfl

theorem fwr (x0 : Bool) (x1 : Reg) (x2 : Reg) : Statement (.fwr x0 x1 x2) := by
  show _ &&& _ = _
  rw [encRRX, show (0x7F0000FF#32) = wordOf false 0x7F#7 0x00#8 0x00#8 0xFF#8 from rfl, wordOf_and]
  simp; rfl

theorem frd (x0 : Bool) (x1 : Reg) (x2 : Reg) : Statement (.frd x0 x1 x2) := by
  show _ &&& _ = _
  rw [encRRX, show (0x7F0000FF#32) = wordOf false 0x7F#7 0x00#8 0x00#8 0xFF#8 from rfl, wordOf_and]
  simp; rfl

theorem frdC (x0 : Bool) (x1 : Reg) (x2 : Reg) : Statement (.frdC x0 x1 x2) := by
  show _ &&& _ = _
  rw [encRRX, show (0x7F0000FF#32) = wordOf false 0x7F#7 0x00#8 0x00#8 0xFF#8 from rfl, wordOf_and]
  simp; rfl

theorem rclaim (x0 : Bool) (x1 : Reg) (x2 : Reg) : Statement (.rclaim x0 x1 x2) := by
  show _ &&& _ = _
  rw [encRRX, show (0x7F0000FF#32) = wordOf false 0x7F#7 0x00#8 0x00#8 0xFF#8 from rfl, wordOf_and]
  simp; rfl

theorem rcommit (x0 : Bool) (x1 : Reg) (x2 : Reg) : Statement (.rcommit x0 x1 x2) := by
  show _ &&& _ = _
  rw [encRRX, show (0x7F0000FF#32) = wordOf false 0x7F#7 0x00#8 0x00#8 0xFF#8 from rfl, wordOf_and]
  simp; rfl

theorem rawait (x0 : Bool) (x1 : Reg) (x2 : Reg) : Statement (.rawait x0 x1 x2) := by
  show _ &&& _ = _
  rw [encRRX, show (0x7F0000FF#32) = wordOf false 0x7F#7 0x00#8 0x00#8 0xFF#8 from rfl, wordOf_and]
  simp; rfl

theorem rretire (x0 : Bool) (x1 : Reg) (x2 : Reg) : Statement (.rretire x0 x1 x2) := by
  show _ &&& _ = _
  rw [encRRX, show (0x7F0000FF#32) = wordOf false 0x7F#7 0x00#8 0x00#8 0xFF#8 from rfl, wordOf_and]
  simp; rfl

theorem rbind (x0 : Bool) (x1 : Reg) : Statement (.rbind x0 x1) := by
  show _ &&& _ = _
  rw [show (0x7FFF00FF#32) = wordOf false 0x7F#7 0xFF#8 0x00#8 0xFF#8 from rfl, wordOf_and]
  simp; rfl

theorem bar (x0 : Bool) (x1 : Reg) (x2 : Reg) (x3 : BitVec 6) : Statement (.bar x0 x1 x2 x3) := by
  show _ &&& _ = _
  rw [encRRX, show (0x7F0000C0#32) = wordOf false 0x7F#7 0x00#8 0x00#8 (3#2 ++ 0#6) from rfl, wordOf_and, BitVec.and_append]
  simp; rfl

theorem barar (x0 : Bool) (x1 : Reg) (x2 : Reg) (x3 : BitVec 6) : Statement (.barar x0 x1 x2 x3) := by
  show _ &&& _ = _
  rw [encRRX, show (0x7F0000C0#32) = wordOf false 0x7F#7 0x00#8 0x00#8 (3#2 ++ 0#6) from rfl, wordOf_and, BitVec.and_append]
  simp; rfl

theorem barw (x0 : Bool) (x1 : BitVec 6) : Statement (.barw x0 x1) := by
  show _ &&& _ = _
  rw [show (0x7FFFFFC0#32) = wordOf false 0x7F#7 0xFF#8 0xFF#8 (3#2 ++ 0#6) from rfl, wordOf_and, BitVec.and_append]
  simp; rfl

theorem rwr (x0 : Bool) (x1 : Reg) (x2 : Reg) (x3 : Reg) : Statement (.rwr x0 x1 x2 x3) := by
  show _ &&& _ = _
  rw [encRRR, show (0x7F000000#32) = wordOf false 0x7F#7 0x00#8 0x00#8 0x00#8 from rfl, wordOf_and]
  simp; rfl

theorem rwait (x0 : Bool) (x1 : Reg) (x2 : BitVec 16) : Statement (.rwait x0 x1 x2) := by
  show _ &&& _ = _
  rw [encRI, show (0x7F000000#32) = wordOf false 0x7F#7 0x00#8 0x00#8 0x00#8 from rfl, wordOf_and]
  simp; rfl

theorem give (x0 : Bool) (x1 : BitVec 16) : Statement (.give x0 x1) := by
  show _ &&& _ = _
  rw [encSYS, show (0x7FFF0000#32) = wordOf false 0x7F#7 0xFF#8 0x00#8 0x00#8 from rfl, wordOf_and]
  simp; rfl

theorem claim (x0 : Bool) (x1 : BitVec 16) : Statement (.claim x0 x1) := by
  show _ &&& _ = _
  rw [encSYS, show (0x7FFF0000#32) = wordOf false 0x7F#7 0xFF#8 0x00#8 0x00#8 from rfl, wordOf_and]
  simp; rfl

theorem bjoin (x0 : Bool) : Statement (.bjoin x0) := by
  show _ &&& _ = _
  rw [encSYS, show (0x7FFFFFFF#32) = wordOf false 0x7F#7 0xFF#8 0xFF#8 0xFF#8 from rfl, wordOf_and]
  simp; rfl

theorem bleave (x0 : Bool) : Statement (.bleave x0) := by
  show _ &&& _ = _
  rw [encSYS, show (0x7FFFFFFF#32) = wordOf false 0x7F#7 0xFF#8 0xFF#8 0xFF#8 from rfl, wordOf_and]
  simp; rfl

theorem acq (x0 : Bool) (x1 : Scope) : Statement (.acq x0 x1) := by
  show _ &&& _ = _
  rw [encSYS, show (0x7FFFFFF8#32) = wordOf false 0x7F#7 0xFF#8 0xFF#8 0xF8#8 from rfl, wordOf_and]
  cases x1 <;> simp [Scope.num] <;> rfl

theorem rel (x0 : Bool) (x1 : Scope) : Statement (.rel x0 x1) := by
  show _ &&& _ = _
  rw [encSYS, show (0x7FFFFFF8#32) = wordOf false 0x7F#7 0xFF#8 0xFF#8 0xF8#8 from rfl, wordOf_and]
  cases x1 <;> simp [Scope.num] <;> rfl

theorem fence (x0 : Bool) (x1 : Scope) : Statement (.fence x0 x1) := by
  show _ &&& _ = _
  rw [encSYS, show (0x7FFFFFF8#32) = wordOf false 0x7F#7 0xFF#8 0xFF#8 0xF8#8 from rfl, wordOf_and]
  cases x1 <;> simp [Scope.num] <;> rfl

theorem fsc (x0 : Bool) (x1 : Bool) : Statement (.fsc x0 x1) := by
  show _ &&& _ = _
  rw [encSYS, show (0x7FFFFFF8#32) = wordOf false 0x7F#7 0xFF#8 0xFF#8 0xF8#8 from rfl, wordOf_and]
  cases x1 <;> simp [Scope.num] <;> rfl

theorem xfence (x0 : Bool) : Statement (.xfence x0) := by
  show _ &&& _ = _
  rw [encSYS, show (0x7FFFFFFF#32) = wordOf false 0x7F#7 0xFF#8 0xFF#8 0xFF#8 from rfl, wordOf_and]
  simp; rfl

theorem tcfg (x0 : Bool) (x1 : Reg) : Statement (.tcfg x0 x1) := by
  show _ &&& _ = _
  rw [show (0x7FFF00FF#32) = wordOf false 0x7F#7 0xFF#8 0x00#8 0xFF#8 from rfl, wordOf_and]
  simp; rfl

theorem mma (x0 : Bool) (x1 : Reg) (x2 : Reg) (x3 : Reg) : Statement (.mma x0 x1 x2 x3) := by
  show _ &&& _ = _
  rw [encRRR, show (0x7F000000#32) = wordOf false 0x7F#7 0x00#8 0x00#8 0x00#8 from rfl, wordOf_and]
  simp; rfl

theorem mmc (x0 : Bool) (x1 : Reg) (x2 : Reg) (x3 : Reg) : Statement (.mmc x0 x1 x2 x3) := by
  show _ &&& _ = _
  rw [encRRR, show (0x7F000000#32) = wordOf false 0x7F#7 0x00#8 0x00#8 0x00#8 from rfl, wordOf_and]
  simp; rfl

theorem mzero (x0 : Bool) (x1 : Reg) (x2 : Reg) : Statement (.mzero x0 x1 x2) := by
  show _ &&& _ = _
  rw [encRRX, show (0x7F0000FF#32) = wordOf false 0x7F#7 0x00#8 0x00#8 0xFF#8 from rfl, wordOf_and]
  simp; rfl

theorem mfin (x0 : Bool) (x1 : Reg) (x2 : Reg) : Statement (.mfin x0 x1 x2) := by
  show _ &&& _ = _
  rw [encRRX, show (0x7F0000FF#32) = wordOf false 0x7F#7 0x00#8 0x00#8 0xFF#8 from rfl, wordOf_and]
  simp; rfl

theorem tryBrace (x0 : Bool) (x1 : Reg) (x2 : BitVec 16) : Statement (.tryBrace x0 x1 x2) := by
  show _ &&& _ = _
  rw [encRI, show (0x7F000000#32) = wordOf false 0x7F#7 0x00#8 0x00#8 0x00#8 from rfl, wordOf_and]
  simp; rfl

theorem fail (x0 : Bool) : Statement (.fail x0) := by
  show _ &&& _ = _
  rw [show (0x7FFFFFFF#32) = wordOf false 0x7F#7 0xFF#8 0xFF#8 0xFF#8 from rfl, wordOf_and]
  simp; rfl

theorem resume (x0 : Bool) (x1 : Reg) : Statement (.resume x0 x1) := by
  show _ &&& _ = _
  rw [show (0x7F00FFFF#32) = wordOf false 0x7F#7 0x00#8 0xFF#8 0xFF#8 from rfl, wordOf_and]
  simp; rfl

theorem cut (x0 : Bool) (x1 : Reg) (x2 : Reg) : Statement (.cut x0 x1 x2) := by
  show _ &&& _ = _
  rw [encRRX, show (0x7F0000FF#32) = wordOf false 0x7F#7 0x00#8 0x00#8 0xFF#8 from rfl, wordOf_and]
  simp; rfl

theorem steal (x0 : Bool) : Statement (.steal x0) := by
  show _ &&& _ = _
  rw [show (0x7FFFFFFF#32) = wordOf false 0x7F#7 0xFF#8 0xFF#8 0xFF#8 from rfl, wordOf_and]
  simp; rfl

theorem bset (x0 : Bool) (x1 : Reg) : Statement (.bset x0 x1) := by
  show _ &&& _ = _
  rw [show (0x7FFF00FF#32) = wordOf false 0x7F#7 0xFF#8 0x00#8 0xFF#8 from rfl, wordOf_and]
  simp; rfl

theorem sttb (x0 : Bool) (x1 : Reg) (x2 : Reg) (x3 : BitVec 5) : Statement (.sttb x0 x1 x2 x3) := by
  show _ &&& _ = _
  rw [encRRX, show (0x7F0000E0#32) = wordOf false 0x7F#7 0x00#8 0x00#8 (7#3 ++ 0#5) from rfl, wordOf_and, BitVec.and_append]
  simp; rfl

theorem stth (x0 : Bool) (x1 : Reg) (x2 : Reg) (x3 : BitVec 5) : Statement (.stth x0 x1 x2 x3) := by
  show _ &&& _ = _
  rw [encRRX, show (0x7F0000E0#32) = wordOf false 0x7F#7 0x00#8 0x00#8 (7#3 ++ 0#5) from rfl, wordOf_and, BitVec.and_append]
  simp; rfl

theorem stt (x0 : Bool) (x1 : Reg) (x2 : Reg) (x3 : BitVec 5) : Statement (.stt x0 x1 x2 x3) := by
  show _ &&& _ = _
  rw [encRRX, show (0x7F0000E0#32) = wordOf false 0x7F#7 0x00#8 0x00#8 (7#3 ++ 0#5) from rfl, wordOf_and, BitVec.and_append]
  simp; rfl

theorem rmin (x0 : Bool) (x1 : Reg) (x2 : Reg) : Statement (.rmin x0 x1 x2) := by
  show _ &&& _ = _
  rw [encRRX, show (0x7F0000FF#32) = wordOf false 0x7F#7 0x00#8 0x00#8 0xFF#8 from rfl, wordOf_and]
  simp; rfl

theorem rmax (x0 : Bool) (x1 : Reg) (x2 : Reg) : Statement (.rmax x0 x1 x2) := by
  show _ &&& _ = _
  rw [encRRX, show (0x7F0000FF#32) = wordOf false 0x7F#7 0x00#8 0x00#8 0xFF#8 from rfl, wordOf_and]
  simp; rfl

theorem rrd (x0 : Bool) (x1 : Reg) (x2 : Reg) : Statement (.rrd x0 x1 x2) := by
  show _ &&& _ = _
  rw [encRRX, show (0x7F0000FF#32) = wordOf false 0x7F#7 0x00#8 0x00#8 0xFF#8 from rfl, wordOf_and]
  simp; rfl

theorem spawn (x0 : Bool) (x1 : Reg) : Statement (.spawn x0 x1) := by
  show _ &&& _ = _
  rw [show (0x7F00FFFF#32) = wordOf false 0x7F#7 0x00#8 0xFF#8 0xFF#8 from rfl, wordOf_and]
  simp; rfl

theorem cpy (x0 : Bool) (x1 : Reg) (x2 : Reg) (x3 : Reg) : Statement (.cpy x0 x1 x2 x3) := by
  show _ &&& _ = _
  rw [encRRR, show (0x7F000000#32) = wordOf false 0x7F#7 0x00#8 0x00#8 0x00#8 from rfl, wordOf_and]
  simp; rfl

theorem cwait (x0 : Bool) (x1 : Reg) : Statement (.cwait x0 x1) := by
  show _ &&& _ = _
  rw [show (0x7FFF00FF#32) = wordOf false 0x7F#7 0xFF#8 0x00#8 0xFF#8 from rfl, wordOf_and]
  simp; rfl

theorem qbind (x0 : Bool) (x1 : Reg) (x2 : Reg) : Statement (.qbind x0 x1 x2) := by
  show _ &&& _ = _
  rw [encRRX, show (0x7F0000FF#32) = wordOf false 0x7F#7 0x00#8 0x00#8 0xFF#8 from rfl, wordOf_and]
  simp; rfl

theorem nwait (x0 : Bool) (x1 : Reg) (x2 : Reg) : Statement (.nwait x0 x1 x2) := by
  show _ &&& _ = _
  rw [encRRX, show (0x7F0000FF#32) = wordOf false 0x7F#7 0x00#8 0x00#8 0xFF#8 from rfl, wordOf_and]
  simp; rfl

theorem watchdogExpiry : Statement (.watchdogExpiry) := trivial
theorem resultDelivery (x0 : Nat) (x1 : Nat) (x2 : Nat) : Statement (.resultDelivery x0 x1 x2) := trivial
theorem instructionFetchFault (x0 : Nat) (x1 : Nat) : Statement (.instructionFetchFault x0 x1) := trivial
theorem faultReplay (x0 : Nat) (x1 : Nat) (x2 : List PteWrite) : Statement (.faultReplay x0 x1 x2) := trivial
theorem faultDeliver (x0 : Nat) (x1 : Nat) : Statement (.faultDeliver x0 x1) := trivial
theorem syscAnswer (x0 : Nat) (x1 : Nat) (x2 : List (Fin 6 × Dword)) (x3 : Option Dword) : Statement (.syscAnswer x0 x1 x2 x3) := trivial
theorem barrierTimeout (x0 : Nat) (x1 : Nat) : Statement (.barrierTimeout x0 x1) := trivial
theorem claimServe (x0 : Nat) : Statement (.claimServe x0) := trivial
theorem storeAcknowledge (x0 : Nat) (x1 : Nat) (x2 : Nat) : Statement (.storeAcknowledge x0 x1 x2) := trivial
theorem gangRetire (x0 : Nat) : Statement (.gangRetire x0) := trivial
theorem placeGroup : Statement (.placeGroup) := trivial
theorem placeFrame : Statement (.placeFrame) := trivial
theorem waitEventTest (x0 : Nat) (x1 : Nat) (x2 : Nat) : Statement (.waitEventTest x0 x1 x2) := trivial
theorem homeLoad (x0 : Nat) (x1 : Nat) (x2 : Nat) : Statement (.homeLoad x0 x1 x2) := trivial
theorem homeStore (x0 : Nat) (x1 : Nat) (x2 : Nat) : Statement (.homeStore x0 x1 x2) := trivial
theorem homeAtomic (x0 : Nat) (x1 : Nat) (x2 : Nat) : Statement (.homeAtomic x0 x1 x2) := trivial
theorem homeFutureWrite (x0 : Nat) (x1 : Nat) (x2 : Nat) : Statement (.homeFutureWrite x0 x1 x2) := trivial
theorem homeFutureRead (x0 : Nat) (x1 : Nat) (x2 : Nat) : Statement (.homeFutureRead x0 x1 x2) := trivial
theorem homeRingClaim (x0 : Nat) (x1 : Nat) (x2 : Nat) : Statement (.homeRingClaim x0 x1 x2) := trivial
theorem homeRingCommit (x0 : Nat) (x1 : Nat) (x2 : Nat) : Statement (.homeRingCommit x0 x1 x2) := trivial
theorem ringRequestResend (x0 : Nat) (x1 : Nat) (x2 : Nat) : Statement (.ringRequestResend x0 x1 x2) := trivial
theorem homeRemoteWrite (x0 : Nat) (x1 : Nat) : Statement (.homeRemoteWrite x0 x1) := trivial
theorem homeCounterWait (x0 : Nat) (x1 : Nat) (x2 : Nat) : Statement (.homeCounterWait x0 x1 x2) := trivial
theorem quadTimeout (x0 : Nat) (x1 : Nat) : Statement (.quadTimeout x0 x1) := trivial
theorem matrixComplete (x0 : Nat) (x1 : Nat) : Statement (.matrixComplete x0 x1) := trivial
theorem fscStrikeEdge (x0 : Nat) (x1 : Nat) : Statement (.fscStrikeEdge x0 x1) := trivial
theorem copyEngineRun (x0 : Nat) (x1 : Nat) (x2 : Nat) (x3 : Nat) : Statement (.copyEngineRun x0 x1 x2 x3) := trivial
theorem copyComplete (x0 : Nat) (x1 : Nat) : Statement (.copyComplete x0 x1) := trivial
theorem gatherRun (x0 : Nat) (x1 : Nat) (x2 : Nat) : Statement (.gatherRun x0 x1 x2) := trivial
theorem gatherComplete (x0 : Nat) (x1 : Nat) : Statement (.gatherComplete x0 x1) := trivial
theorem engineFaultMap (x0 : Nat) (x1 : Nat) (x2 : List PteWrite) : Statement (.engineFaultMap x0 x1 x2) := trivial
theorem engineFaultDecline (x0 : Nat) (x1 : Nat) : Statement (.engineFaultDecline x0 x1) := trivial
theorem tableWalkComplete (x0 : Nat) (x1 : Nat) (x2 : Nat) : Statement (.tableWalkComplete x0 x1 x2) := trivial
theorem tlbInvalidate (x0 : Nat) (x1 : List PteWrite) : Statement (.tlbInvalidate x0 x1) := trivial
theorem ridgeOfferAccept (x0 : Nat) : Statement (.ridgeOfferAccept x0) := trivial
theorem ridgeCopyUpdate (x0 : Nat) : Statement (.ridgeCopyUpdate x0) := trivial
theorem ridgeConfigure (x0 : Nat) (x1 : Fin 16) (x2 : RidgeCfg) : Statement (.ridgeConfigure x0 x1 x2) := trivial
theorem taskAccept (x0 : Nat) (x1 : Nat) (x2 : Nat) : Statement (.taskAccept x0 x1 x2) := trivial
theorem taskRemoval (x0 : Nat) : Statement (.taskRemoval x0) := trivial
theorem launchQueueConfigure (x0 : Nat) (x1 : Fin 32) (x2 : Bool) (x3 : Fin 4) (x4 : Nat) : Statement (.launchQueueConfigure x0 x1 x2 x3 x4) := trivial
theorem carveOutGrant (x0 : Nat) (x1 : Nat) : Statement (.carveOutGrant x0 x1) := trivial
theorem chipStrike : Statement (.chipStrike) := trivial
theorem contextStart (x0 : Nat) : Statement (.contextStart x0) := trivial
theorem contextPreempt (x0 : Nat) : Statement (.contextPreempt x0) := trivial
theorem groupSave (x0 : Nat) : Statement (.groupSave x0) := trivial
theorem drainComplete (x0 : Nat) : Statement (.drainComplete x0) := trivial
theorem drainDeadline (x0 : Nat) : Statement (.drainDeadline x0) := trivial
theorem contextSwitchIn (x0 : Nat) : Statement (.contextSwitchIn x0) := trivial
theorem contextKill (x0 : Nat) : Statement (.contextKill x0) := trivial
theorem reclaimComplete (x0 : Nat) : Statement (.reclaimComplete x0) := trivial
theorem powerSample (x0 : Nat) (x1 : List (Nat × SensorSample)) : Statement (.powerSample x0 x1) := trivial
theorem sensorTakeBack (x0 : Nat) : Statement (.sensorTakeBack x0) := trivial
theorem drawWindowClose (x0 : Nat) : Statement (.drawWindowClose x0) := trivial
theorem functionLevelReset : Statement (.functionLevelReset) := trivial
theorem linkRetrain (x0 : Nat) (x1 : Nat) : Statement (.linkRetrain x0 x1) := trivial
theorem attachRequest : Statement (.attachRequest) := trivial
theorem detachRequest : Statement (.detachRequest) := trivial
theorem acceptWrite (x0 : BitVec 256) : Statement (.acceptWrite x0) := trivial
theorem qtailDoorbell (x0 : Nat) (x1 : Fin 32) (x2 : Word) : Statement (.qtailDoorbell x0 x1 x2) := trivial
theorem queueConfigWrite (x0 : Nat) (x1 : Fin 32) (x2 : QueueCfg) : Statement (.queueConfigWrite x0 x1 x2) := trivial
theorem completionConfigWrite (x0 : Nat) (x1 : QueueCfg) : Statement (.completionConfigWrite x0 x1) := trivial
theorem cheadWrite (x0 : Nat) (x1 : Word) : Statement (.cheadWrite x0 x1) := trivial
theorem bar0RegisterWrite (x0 : Nat) (x1 : Word) : Statement (.bar0RegisterWrite x0 x1) := trivial
theorem hostRecordTake (x0 : Nat) (x1 : Fin 32) (x2 : Bool) : Statement (.hostRecordTake x0 x1 x2) := trivial
theorem hostCopy (x0 : Nat) (x1 : Fin 32) : Statement (.hostCopy x0 x1) := trivial
theorem completionRecordWrite (x0 : Nat) : Statement (.completionRecordWrite x0) := trivial
theorem netPuti (x0 : Nat) (x1 : Nat) : Statement (.netPuti x0 x1) := trivial
theorem netPutm (x0 : Nat) (x1 : Nat) : Statement (.netPutm x0 x1) := trivial
theorem netGet (x0 : Nat) (x1 : Nat) (x2 : List FabByte) : Statement (.netGet x0 x1 x2) := trivial
theorem netExch (x0 : Nat) (x1 : Nat) (x2 : ExchOffer) : Statement (.netExch x0 x1 x2) := trivial
theorem netPacketReceive (x0 : Packet) : Statement (.netPacketReceive x0) := trivial
theorem netAckReceive (x0 : Nat) (x1 : Option (BitVec 128)) : Statement (.netAckReceive x0 x1) := trivial
theorem netRefusalReceive (x0 : Nat) (x1 : RefusalKind) : Statement (.netRefusalReceive x0 x1) := trivial
theorem netRetransmitTimeout (x0 : Nat) : Statement (.netRetransmitTimeout x0) := trivial
theorem netPacketExpiry (x0 : Nat) : Statement (.netPacketExpiry x0) := trivial
theorem roleChange (x0 : Option Profile) (x1 : Bool) : Statement (.roleChange x0 x1) := trivial
theorem roleChangeReconfigure (x0 : Findings) : Statement (.roleChangeReconfigure x0) := trivial
theorem roleChangeAbandon : Statement (.roleChangeAbandon) := trivial
theorem coolantCheck (x0 : ColdPlate) (x1 : Nat) : Statement (.coolantCheck x0 x1) := trivial
theorem coolingClassChange : Statement (.coolingClassChange) := trivial
theorem uncorrectableError (x0 : ErrSite) : Statement (.uncorrectableError x0) := trivial
theorem hbmScrub (x0 : List Nat) : Statement (.hbmScrub x0) := trivial
theorem l2Scrub (x0 : List Nat) : Statement (.l2Scrub x0) := trivial
theorem thermalTrip : Statement (.thermalTrip) := trivial
theorem moduleReset : Statement (.moduleReset) := trivial
theorem dyrokWatchdog : Statement (.dyrokWatchdog) := trivial
theorem boot (x0 : BitVec 8) : Statement (.boot x0) := trivial
theorem bootTimeout : Statement (.bootTimeout) := trivial
theorem firmwareUpdate (x0 : FlashWrite) : Statement (.firmwareUpdate x0) := trivial
theorem spdmRequest (x0 : Nat) : Statement (.spdmRequest x0) := trivial
theorem pldmMonitorRequest (x0 : PldmRequest) : Statement (.pldmMonitorRequest x0) := trivial
theorem undecodableWord (x0 : Word) : Statement (.undecodableWord x0) := trivial
theorem fabricPortLinkChange (x0 : Fin 8) (x1 : Bool) : Statement (.fabricPortLinkChange x0 x1) := trivial
theorem ptpSyncChange (x0 : Bool) (x1 : Bool) : Statement (.ptpSyncChange x0 x1) := trivial
theorem fabricJobJoin (x0 : Nat) (x1 : Option (BitVec 16)) : Statement (.fabricJobJoin x0 x1) := trivial
theorem contextCreate (x0 : Nat) (x1 : CtxParams) : Statement (.contextCreate x0 x1) := trivial

end Sys2Proof.Laws.TableWord
end

