-- ==== Sys2Proof/Laws/Walk.lean ====
section
/-! SUPPORT. One level of a page-table walk (17 R287, R288), said once. -/

namespace Sys2Proof.Machine

/-- Where no run of the table covers an entry, the entry itself translates. -/
theorem State.runIdx_alone {s : State} {table level idx : Nat} (h : s.runOver table level idx = 0) :
    s.runIdx table level idx = idx := by
  simp [State.runIdx, h]

/-- A valid entry that names a table, covered by no run, goes on to it. -/
theorem State.walkLevel_table {s : State} {va level table e : Nat}
    (hr : s.runOver table (level + 1) (va / 2 ^ (12 + 9 * (level + 1)) % 512) = 0)
    (hp : s.mem.poisoned (table + 8 * (va / 2 ^ (12 + 9 * (level + 1)) % 512)) 8 = false)
    (he : s.pte table (va / 2 ^ (12 + 9 * (level + 1)) % 512) = e) (hv : e % 2 = 1) (hl : e / 2 % 2 = 0)
    (hm : pteMalformed (level + 1) e = false) :
    s.walkLevel va (level + 1) table = s.walkLevel va level (e / 2 ^ 12 % 2 ^ 40 * 2 ^ 12) := by
  have h : s.walkEntry va (level + 1) table = .inr (e / 2 ^ 12 % 2 ^ 40 * 2 ^ 12) := by
    subst he
    simp [State.walkEntry, State.runIdx_alone hr, hp, hv, hl, hm]
  rw [State.walkLevel, h]

/-- What ends the walk ends it at every level. -/
theorem State.walkLevel_end {s : State} {va level table : Nat} {w : Walk} (h : s.walkEntry va level table = .inl w) :
    s.walkLevel va level table = w := by
  cases level <;> rw [State.walkLevel, h]

/-- A valid leaf translates: the entry of the address, or the one chosen among the differing entries of a run. -/
theorem State.walkLevel_leaf {s : State} {va level table idx e : Nat}
    (hi : s.runIdx table level (va / 2 ^ (12 + 9 * level) % 512) = idx)
    (hp : s.mem.poisoned (table + 8 * idx) 8 = false)
    (he : s.pte table idx = e) (hv : e % 2 = 1) (hl : e / 2 % 2 = 1) (hm : pteMalformed level e = false) :
    s.walkLevel va level table = .leaf (pteLeaf level e va) := by
  apply State.walkLevel_end
  simp [State.walkEntry, hi, hp, he, hv, hl, hm]

/-- An invalid entry that no run covers faults. -/
theorem State.walkLevel_invalid {s : State} {va level table : Nat}
    (hr : s.runOver table level (va / 2 ^ (12 + 9 * level) % 512) = 0)
    (hp : s.mem.poisoned (table + 8 * (va / 2 ^ (12 + 9 * level) % 512)) 8 = false)
    (hv : s.pte table (va / 2 ^ (12 + 9 * level) % 512) % 2 = 0) :
    s.walkLevel va level table = .fault causeTrans := by
  apply State.walkLevel_end
  simp [State.walkEntry, State.runIdx_alone hr, hp, hv]

end Sys2Proof.Machine
end

