-- ==== Sys2Proof/Tests/Slice0.lean ====
section
/-! SUPPORT. Tests: well-formedness, decoding, single instructions against the spec's own examples, and for each statement of
Certificates/Slice0 states that meet its hypotheses. -/

set_option Elab.async false

namespace Sys2Proof.Tests

open Sys2Proof Sys2Proof.Machine

/-! ## Well-formedness (03 R85, R72, R58, R80; 13 R233, R234) -/

/-- An ill-formed term for each check of `Instr.wf`, and the nearest well-formed one. -/
theorem test_wf_refuses :
    Instr.wf (.setm false 0x000E) = false ∧ Instr.wf (.setm false 0x000D) = true ∧
      Instr.wf (.setm false 0x0050) = false ∧ Instr.wf (.setm false 0x0040) = true ∧
      Instr.wf (.give false 0) = false ∧ Instr.wf (.give false 25) = false ∧ Instr.wf (.give false 24) = true ∧
      Instr.wf (.claim false 0) = false ∧ Instr.wf (.claim false 25) = false ∧ Instr.wf (.claim false 1) = true ∧
      Instr.wf (.rwait false (.s 0) 0) = false ∧ Instr.wf (.rwait false (.s 0) 1) = true := by decide

theorem test_wf_refuses_classes :
    Instr.wf (.ceq false (.s 1) (.s 2) (.s 3)) = false ∧ Instr.wf (.sceq false (.m 1) (.s 2) (.s 3)) = false ∧
      Instr.wf (.clt false .zr (.s 2) (.s 3)) = false ∧ Instr.wf (.sclt false .zr (.v 2) (.s 3)) = false ∧
      Instr.wf (.cne false .zr (.v 2) (.s 3)) = true ∧ Instr.wf (.scle false (.s 1) (.s 2) .zr) = true ∧
      Instr.wf (.mov false (.q 0) (.s 1)) = false ∧ Instr.wf (.mov false (.s 1) (.q 0)) = false ∧
      Instr.wf (.queuePush false (.s 0) (.s 1)) = false ∧ Instr.wf (.queuePop false (.s 1) (.s 2)) = false ∧
      Instr.wf (.queuePop false (.q 1) (.q 2)) = false ∧ Instr.wf (.queuePush false (.q 1) (.q 2)) = true := by decide

/-! ## Decoding (03 Tables 3-7 to 3-9) -/

/-- Worked encodings of the spec, in the order of its files (03, 07, 09, 11, 13, 15, 17, 19). -/
def workedWords : List (Nat × Instr) :=
  [ (0x100301C2, .add false (.v 3) (.v 1) (.s 2)),
    (0x900301C2, .add true (.v 3) (.v 1) (.s 2)),
    (0x2001FFFF, .li false (.v 1) 0xFFFF),
    (0x1E07F800, .mov false (.v 7) .zr),
    (0x42C1C2C3, .sclt false (.s 1) (.s 2) (.s 3)),
    (0x5B02C35E, .stwImm false (.v 2) (.s 3) 0x1E),
    (0x5A08C38F, .ldqImm false (.v 8) (.s 3) 15),
    (0x6E000002, .acq false .bent),
    (0xEE030003, .fsc true false),
    (0x0B0010C7, .setm false 0x10C7),
    (0x01FFFFFD, .br false 0xFFFFFD),
    (0x07C6E900, .part false (.s 6) (.m 1)),
    (0x47E9E9FF, .mxor false (.m 1) (.m 1) .live),
    (0x58C5C2C4, .std false (.s 5) (.s 2) (.s 4)),
    (0x39020106, .cvt false (.v 2) (.v 1) .e2m1),
    (0x4A070184, .shfi false (.v 7) (.v 1) .up 4),
    (0x4D0A01D4, .btlh false (.v 10) (.v 1) (.s 20)),
    (0x48C5010A, .redmax false (.s 5) (.v 1)),
    (0xE0C3C486, .axchR true (.s 3) (.s 4) .gang),
    (0x6004C2C7, .acasR false (.v 4) (.s 2) .sys),
    (0xE1C5C102, .frdC true (.s 5) (.s 1)),
    (0x6200C204, .rbind false (.s 2)),
    (0x69FFC900, .barar false .live (.s 9) 0),
    (0x6B03C5C6, .rwr false (.v 3) (.s 5) (.s 6)),
    (0x6CC60008, .rwait false (.s 6) 8),
    (0x6D010002, .claim false 2),
    (0x710010C6, .mma false (.v 0) (.v 16) (.s 6)),
    (0xF400C600, .mfin true (.v 0) (.s 6)),
    (0x7CCAC4C6, .cpy false (.s 10) (.s 4) (.s 6)),
    (0x7EF0C800, .qbind false (.q 0) (.s 8)),
    (0x7ECCCD01, .nwait false (.s 12) (.s 13)),
    (0x0B010007, .trap false 7),
    (0x0CC50010, .rdsr false (.s 5) 0x10),
    (0x0DC50001, .wrsr false (.s 5) 1),
    (0x780300FF, .tryBrace false (.v 3) 0xFF),
    (0x7905C602, .cut false (.v 5) (.s 6)),
    (0xF9000003, .steal true),
    (0x7A070642, .stt false (.v 7) (.v 6) 2),
    (0x7BC4C901, .rmax false (.s 4) (.s 9)),
    (0x7B100003, .spawn false (.v 16)) ]

theorem test_decode_worked : ∀ p ∈ workedWords, decodeTableWord 32 p.1 = some p.2 ∧ encode p.2 = some (BitVec.ofNat 32 p.1) := by
  decide +kernel

/-- Words put together field by field from the rows of the opcode table (part 1). -/
def tableWords1 : List (Nat × Instr) :=
  [ (0x80000000, .nop true),
    (0x013C6EF3, .br false 0x3C6EF3),
    (0x82FBA66D, .brz true .bnd 0xA66D),
    (0x03E8DDE6, .brnz false (.m 0) 0xDDE6),
    (0x84171560, .call true 0x171560),
    (0x05000000, .ret false),
    (0x86F98000, .jr true .lid (.v 128)),
    (0x07E7C000, .part false (.s 39) (.s 0)),
    (0x88000000, .regang true),
    (0x09002AC0, .yield false (.v 0) 0x2AC0),
    (0x8A000000, .exit true),
    (0x0B0010C7, .setm false 0x10C7),
    (0x8B01D12D, .trap true 0xD12D),
    (0x0B020000, .tret false),
    (0x8B034021, .sysc true 0x4021),
    (0x0C01779B, .rdsr false (.v 1) 0x779B),
    (0x8DFEAF14, .wrsr true .stat 0xAF14),
    (0x10EFFCD5, .add false (.m 7) .alt (.s 21)) ]

theorem test_decode_table1 : ∀ p ∈ tableWords1, decodeTableWord 32 p.1 = some p.2 ∧ p.2.wf = true := by
  decide +kernel

/-- Words put together field by field from the rows of the opcode table (part 2). -/
def tableWords2 : List (Nat × Instr) :=
  [ (0x91FAFFF8, .sub true .role .live .zr),
    (0x12FDBFFB, .mul false .mode (.v 191) .bnd),
    (0x93E8F980, .mulh true (.m 0) .lid (.v 128)),
    (0x14E7C000, .and false (.s 39) (.s 0) (.v 0)),
    (0x9501FEEF, .or true (.v 1) .stat (.m 7)),
    (0x16FCD5FA, .xor false .alt (.s 21) .role),
    (0x97FFF8FD, .shl true .live .zr .mode),
    (0x18BFFBE8, .shr false (.v 191) .bnd (.m 0)),
    (0x99F980E7, .sar true .lid (.v 128) (.s 39)),
    (0x1AC00001, .rot false (.s 0) (.v 0) (.v 1)),
    (0x9BFEEFFC, .min true .stat (.m 7) .alt),
    (0x1CD5FAFF, .max false (.s 21) .role .live),
    (0x9DF8FDBF, .sel true .zr .mode (.v 191)),
    (0x1EFBE800, .mov false .bnd (.m 0)),
    (0x9EF78000, .queuePush true (.q 7) (.v 128)),
    (0x1ED5F200, .queuePop false (.s 21) (.q 2)),
    (0x9E000101, .popc true (.v 0) (.v 1)),
    (0x1EFEEF02, .clz false .stat (.m 7)) ]

theorem test_decode_table2 : ∀ p ∈ tableWords2, decodeTableWord 32 p.1 = some p.2 ∧ p.2.wf = true := by
  decide +kernel

/-- Words put together field by field from the rows of the opcode table (part 3). -/
def tableWords3 : List (Nat × Instr) :=
  [ (0x9EFCD503, .ffs true .alt (.s 21)),
    (0x1FFAFF00, .rget false .role .live),
    (0x9FF8FD01, .rput true .zr .mode),
    (0x20BFAB03, .li false (.v 191) 0xAB03),
    (0xA1FBE27D, .lih true .bnd 0xE27D),
    (0x22E8F9F7, .addImm false (.m 0) .lid 0xF7),
    (0xA380E770, .mulImm true (.v 128) (.s 39) 0x70),
    (0x24C000EA, .andImm false (.s 0) (.v 0) 0xEA),
    (0xA501FE64, .orImm true (.v 1) .stat 0x64),
    (0x26EFFCDD, .xorImm false (.m 7) .alt 0xDD),
    (0xA7D5FA17, .shlImm true (.s 21) .role 0x17),
    (0x28FFF811, .shrImm false .live .zr 0x11),
    (0xA9FDBF0A, .sarImm true .mode (.v 191) 0xA),
    (0x2AFBE804, .rotImm false .bnd (.m 0) 0x4),
    (0xABF9803E, .minImm true .lid (.v 128) 0x3E),
    (0x2CE7C0B7, .maxImm false (.s 39) (.s 0) 0xB7),
    (0xB00001FE, .fadd true (.v 0) (.v 1) .stat),
    (0x31EFFCD5, .fsub false (.m 7) .alt (.s 21)) ]

theorem test_decode_table3 : ∀ p ∈ tableWords3, decodeTableWord 32 p.1 = some p.2 ∧ p.2.wf = true := by
  decide +kernel

/-- Words put together field by field from the rows of the opcode table (part 4). -/
def tableWords4 : List (Nat × Instr) :=
  [ (0xB2FAFFF8, .fmul true .role .live .zr),
    (0x33FDBFFB, .fma false .mode (.v 191) .bnd),
    (0xB4E8F980, .fms true (.m 0) .lid (.v 128)),
    (0x35E7C000, .fmin false (.s 39) (.s 0) (.v 0)),
    (0xB601FEEF, .fmax true (.v 1) .stat (.m 7)),
    (0x37FCD5FA, .div false .alt (.s 21) .role),
    (0xB8FFF800, .fneg true .live .zr),
    (0x38FDBF01, .fabs false .mode (.v 191)),
    (0xB8FBE802, .sqrt true .bnd (.m 0)),
    (0x38F98003, .rcp false .lid (.v 128)),
    (0xB8E7C004, .rsqrt true (.s 39) (.s 0)),
    (0x3900010A, .cvt false (.v 0) (.v 1) .i8),
    (0xC0ECEFFC, .ceq true (.m 4) (.m 7) .alt),
    (0x41ECFAFF, .cne false (.m 4) .role .live),
    (0xC2ECFDBF, .clt true (.m 4) .mode (.v 191)),
    (0x43ECE8F9, .cle false (.m 4) (.m 0) .lid),
    (0xC4ECE7C0, .cun true (.m 4) (.s 39) (.s 0)),
    (0x40CA01FE, .sceq false (.s 10) (.v 1) .stat) ]

theorem test_decode_table4 : ∀ p ∈ tableWords4, decodeTableWord 32 p.1 = some p.2 ∧ p.2.wf = true := by
  decide +kernel

/-- Words put together field by field from the rows of the opcode table (part 5). -/
def tableWords5 : List (Nat × Instr) :=
  [ (0xC1CAFCD5, .scne true (.s 10) .alt (.s 21)),
    (0x42CAFFF8, .sclt false (.s 10) .live .zr),
    (0xC3CABFFB, .scle true (.s 10) (.v 191) .bnd),
    (0x44CAF980, .scun false (.s 10) .lid (.v 128)),
    (0xC5E7C000, .mand true (.s 39) (.s 0) (.v 0)),
    (0x4601FEEF, .mor false (.v 1) .stat (.m 7)),
    (0xC7FCD5FA, .mxor true .alt (.s 21) .role),
    (0x48FFF800, .mnot false .live .zr),
    (0xC8FDBF01, .msave true .mode (.v 191)),
    (0x48FBE802, .mrest false .bnd (.m 0)),
    (0xC8F98003, .mpop true .lid (.v 128)),
    (0x48E7C004, .mffs false (.s 39) (.s 0)),
    (0xC8000108, .redadd true (.v 0) (.v 1)),
    (0x48FEEF09, .redmin false .stat (.m 7)),
    (0xC8FCD50A, .redmax true .alt (.s 21)),
    (0x48FAFF0B, .scan false .role .live),
    (0xC9F8FDBF, .shfl true .zr .mode (.v 191)),
    (0x4AFBE848, .shfi false .bnd (.m 0) .rotd 0x8) ]

theorem test_decode_table5 : ∀ p ∈ tableWords5, decodeTableWord 32 p.1 = some p.2 ∧ p.2.wf = true := by
  decide +kernel

/-- Words put together field by field from the rows of the opcode table (part 6). -/
def tableWords6 : List (Nat × Instr) :=
  [ (0xCBF980E7, .lsh true .lid (.v 128) (.s 39)),
    (0x4CC00001, .btl false (.s 0) (.v 0) (.v 1)),
    (0xCDFEEFFC, .btlh true .stat (.m 7) .alt),
    (0x4ED5FAFF, .dot8 false (.s 21) .role .live),
    (0xCFF8FDBF, .dot4 true .zr .mode (.v 191)),
    (0x50FBE8F9, .ldb false .bnd (.m 0) .lid),
    (0xD180E7C0, .ldh true (.v 128) (.s 39) (.s 0)),
    (0x520001FE, .ldw false (.v 0) (.v 1) .stat),
    (0xD3EFFCD5, .ldd true (.m 7) .alt (.s 21)),
    (0x54FAFFF8, .ldq false .role .live .zr),
    (0xD5FDBFFB, .stb true .mode (.v 191) .bnd),
    (0x56E8F980, .sth false (.m 0) .lid (.v 128)),
    (0xD7E7C000, .stw true (.s 39) (.s 0) (.v 0)),
    (0x5801FEEF, .std false (.v 1) .stat (.m 7)),
    (0xD9FCD5FA, .stq true .alt (.s 21) .role),
    (0x5AFFF803, .ldbImm false .live .zr 0x3),
    (0xDAFDBF3C, .ldhImm true .mode (.v 191) 0x1C),
    (0x5AFBE856, .ldwImm false .bnd (.m 0) 0x16) ]

theorem test_decode_table6 : ∀ p ∈ tableWords6, decodeTableWord 32 p.1 = some p.2 ∧ p.2.wf = true := by
  decide +kernel

/-- Words put together field by field from the rows of the opcode table (part 7). -/
def tableWords7 : List (Nat × Instr) :=
  [ (0xDAF98070, .lddImm true .lid (.v 128) 0x10),
    (0x5AE7C08A, .ldqImm false (.s 39) (.s 0) 0xA),
    (0xDB000103, .stbImm true (.v 0) (.v 1) 0x3),
    (0x5BFEEF3D, .sthImm false .stat (.m 7) 0x1D),
    (0xDBFCD557, .stwImm true .alt (.s 21) 0x17),
    (0x5BFAFF70, .stdImm false .role .live 0x10),
    (0xDBF8FD8A, .stqImm true .zr .mode 0xA),
    (0x5CBFFBE8, .lds false (.v 191) .bnd (.m 0)),
    (0xDDF980E7, .sts true .lid (.v 128) (.s 39)),
    (0x60C00030, .aadd false (.s 0) (.v 0) .chip),
    (0xE001FEC0, .aaddR true (.v 1) .stat .sys),
    (0x60EFFC01, .amin false (.m 7) .alt .gang),
    (0xE0D5FA91, .aminR true (.s 21) .role .core),
    (0x60FFF822, .amax false .live .zr .bent),
    (0xE0FDBFB2, .amaxR true .mode (.v 191) .chip),
    (0x60FBE843, .aand false .bnd (.m 0) .sys),
    (0xE0F98083, .aandR true .lid (.v 128) .gang),
    (0x60E7C014, .aor false (.s 39) (.s 0) .core) ]

theorem test_decode_table7 : ∀ p ∈ tableWords7, decodeTableWord 32 p.1 = some p.2 ∧ p.2.wf = true := by
  decide +kernel

/-- Words put together field by field from the rows of the opcode table (part 8). -/
def tableWords8 : List (Nat × Instr) :=
  [ (0xE00001A4, .aorR true (.v 0) (.v 1) .bent),
    (0x60FEEF35, .axor false .stat (.m 7) .chip),
    (0xE0FCD5C5, .axorR true .alt (.s 21) .sys),
    (0x60FAFF06, .axch false .role .live .gang),
    (0xE0F8FD96, .axchR true .zr .mode .core),
    (0x60BFFB27, .acas false (.v 191) .bnd .bent),
    (0xE0E8F9B7, .acasR true (.m 0) .lid .chip),
    (0x6080E748, .afadd false (.v 128) (.s 39) .sys),
    (0xE0C00088, .afaddR true (.s 0) (.v 0) .gang),
    (0x6101FE00, .fwr false (.v 1) .stat),
    (0xE1EFFC01, .frd true (.m 7) .alt),
    (0x61D5FA02, .frdC false (.s 21) .role),
    (0xE2FFF800, .rclaim true .live .zr),
    (0x62FDBF01, .rcommit false .mode (.v 191)),
    (0xE2FBE802, .rawait true .bnd (.m 0)),
    (0x62F98003, .rretire false .lid (.v 128)),
    (0xE200E704, .rbind true (.s 39)),
    (0x68C00033, .bar false (.s 0) (.v 0) 0x33) ]

theorem test_decode_table8 : ∀ p ∈ tableWords8, decodeTableWord 32 p.1 = some p.2 ∧ p.2.wf = true := by
  decide +kernel

/-- Words put together field by field from the rows of the opcode table (part 9). -/
def tableWords9 : List (Nat × Instr) :=
  [ (0xE901FE2D, .barar true (.v 1) .stat 0x2D),
    (0x6A000026, .barw false 0x26),
    (0xEBEFFCD5, .rwr true (.m 7) .alt (.s 21)),
    (0x6CFA125A, .rwait false .role 0x125A),
    (0xED000018, .give true 0x18),
    (0x6D010018, .claim false 0x18),
    (0xED020000, .bjoin true),
    (0x6D030000, .bleave false),
    (0xEE000003, .acq true .chip),
    (0x6E010004, .rel false .sys),
    (0xEE020000, .fence true .gang),
    (0x6E030004, .fsc false true),
    (0xEE040000, .xfence true),
    (0x7000FF00, .tcfg false .live),
    (0xF1F8FDBF, .mma true .zr .mode (.v 191)),
    (0x72FBE8F9, .mmc false .bnd (.m 0) .lid),
    (0xF380E700, .mzero true (.v 128) (.s 39)),
    (0x74C00000, .mfin false (.s 0) (.v 0)) ]

theorem test_decode_table9 : ∀ p ∈ tableWords9, decodeTableWord 32 p.1 = some p.2 ∧ p.2.wf = true := by
  decide +kernel

/-- Words put together field by field from the rows of the opcode table (part 10). -/
def tableWords10 : List (Nat × Instr) :=
  [ (0xF801527B, .tryBrace true (.v 1) 0x527B),
    (0x79000000, .fail false),
    (0xF9FE0001, .resume true .stat),
    (0x79EFFC02, .cut false (.m 7) .alt),
    (0xF9000003, .steal true),
    (0x7900D504, .bset false (.s 21)),
    (0xFAFAFF15, .sttb true .role .live 0x15),
    (0x7AF8FD2F, .stth false .zr .mode 0xF),
    (0xFABFFB49, .stt true (.v 191) .bnd 0x9),
    (0x7BE8F900, .rmin false (.m 0) .lid),
    (0xFB80E701, .rmax true (.v 128) (.s 39)),
    (0x7BC00002, .rrd false (.s 0) (.v 0)),
    (0xFB010003, .spawn true (.v 1)),
    (0x7CFEEFFC, .cpy false .stat (.m 7) .alt),
    (0xFD00D500, .cwait true (.s 21)),
    (0x7EFAFF00, .qbind false .role .live),
    (0xFEF8FD01, .nwait true .zr .mode) ]

theorem test_decode_table10 : ∀ p ∈ tableWords10, decodeTableWord 32 p.1 = some p.2 ∧ p.2.wf = true := by
  decide +kernel

/-! ## Small states -/

/-- A machine with one gang, READY at 0x1000, its split 0 selected. -/
def W : State := { State.reset.withGang with cur := some (0, 0) }

/-- A machine with its gang changed. -/
def withG (f : Gang → Gang) (s : State := W) : State := s.modGang 0 f

/-- A machine with scalar registers of its gang set. -/
def withS (l : List (Nat × Dword)) (s : State := W) : State := withG (fun G => l.foldl (fun G p => G.setS p.1 p.2) G) s

/-- A machine with a vector register of its gang set, lane by lane. -/
def withV (n : Nat) (f : Nat → Word) (s : State := W) : State :=
  withG (fun G => lanes32.foldl (fun G i => G.setV n i (f i)) G) s

/-- A machine with the `mode` of its gang set. -/
def withMode (m : BitVec 16) (s : State := W) : State := withG (fun G => { G with mode := m }) s

/-- The machine after an instruction or event, with split 0 selected. -/
def after (i : Instr) (s : State := W) : State :=
  match exec i s with
  | .next t => { t with cur := some (0, 0) }
  | .fault _ => s
  | .refused _ => s

/-- The machine after several. -/
def afterAll (l : List Instr) (s : State := W) : State := l.foldl (fun s i => after i s) s

/-- Split 0 of gang 0 may issue an instruction, and a condition holds. -/
def issuing (s : State) (i : Instr) (P : Gang → Split → Bool) : Bool :=
  match s.gang 0 with
  | some G =>
    (match KV.find G.splits 0 with
     | some sp => decide (s.Issuing i 0 0 G sp) && P G sp
     | none => false)
  | none => false

/-- What `issuing` evaluates, as a statement's hypotheses say it. -/
theorem issuing_of {s : State} {i : Instr} {P : Gang → Split → Prop} [∀ G sp, Decidable (P G sp)]
    (h : issuing s i (fun G sp => decide (P G sp)) = true) : ∃ G sp, s.Issuing i 0 0 G sp ∧ P G sp := by
  unfold issuing at h
  split at h
  · split at h
    · simp only [Bool.and_eq_true, decide_eq_true_eq] at h
      exact ⟨_, _, h⟩
    · cases h
  · cases h

/-! ## States that meet the hypotheses of the statements -/


theorem witness_IntegerResult : ∃ G sp, W.Issuing (.add true (.v 191) (.v 0) (.s 2)) 0 0 G sp ∧
    intForm (.v 191) (.v 0) (.s 2) ∧ G.Free (G.active sp.slices) [.v 191, .v 0, .s 2] :=
  issuing_of (by decide +kernel)

theorem witness_IntegerResult_scalar : ∃ G sp, W.Issuing (.mulh false .stat (.m 7) .zr) 0 0 G sp ∧
    intForm .stat (.m 7) .zr ∧ G.Free (G.active sp.slices) [.stat, .m 7, .zr] :=
  issuing_of (by decide +kernel)

theorem witness_IntegerResult_immediate : ∃ G sp, W.Issuing (.minImm false (.v 1) .lid 0x80) 0 0 G sp ∧
    intForm (.v 1) .lid .lid ∧ G.Free (G.active sp.slices) [.v 1, .lid] :=
  issuing_of (by decide +kernel)

theorem witness_IntegerResult_count : ∃ G sp, W.Issuing (.rotImm false (.s 39) (.s 0) 63) 0 0 G sp ∧
    intForm (.s 39) (.s 0) (.s 0) ∧ G.Free (G.active sp.slices) [.s 39, .s 0] :=
  issuing_of (by decide +kernel)

theorem witness_CountMoveImmediate_popc : ∃ G sp, W.Issuing (.popc false (.v 1) (.v 2)) 0 0 G sp ∧
    intForm (.v 1) (.v 2) (.v 2) ∧ G.Free (G.active sp.slices) [.v 1, .v 2] :=
  issuing_of (by decide +kernel)

theorem witness_CountMoveImmediate_mov : ∃ G sp, W.Issuing (.mov false (.m 0) .live) 0 0 G sp ∧
    ((Reg.m 0).isVDst = true ∧ Reg.live.vecSrc = true ∨ ((Reg.m 0).isSDst || (Reg.m 0).isMDst) = true ∧ Reg.live.scaSrc = true ∨
      Reg.m 0 = .zr ∧ (Reg.live.isV || Reg.live.scaSrc) = true) ∧ G.Free (G.active sp.slices) [.m 0, .live] :=
  issuing_of (by decide +kernel)

theorem witness_CountMoveImmediate_li : ∃ G sp, W.Issuing (.li false (.v 0) 0xFFFF) 0 0 G sp ∧
    ((Reg.v 0).isVDst || (Reg.v 0).isSDst || (Reg.v 0).isZ) = true ∧ G.Free (G.active sp.slices) [.v 0] :=
  issuing_of (by decide +kernel)

theorem witness_CountMoveImmediate_lih : ∃ G sp, W.Issuing (.lih false (.s 5) 0x8000) 0 0 G sp ∧
    ((Reg.s 5).isVDst || (Reg.s 5).isSDst || (Reg.s 5).isZ) = true ∧ G.Free (G.active sp.slices) [.s 5] :=
  issuing_of (by decide +kernel)

theorem witness_SelectResult : ∃ G sp, W.Issuing (.sel false (.v 3) (.v 4) (.s 5)) 0 0 G sp ∧ (Reg.v 4).vecSrc = true ∧
    (Reg.s 5).vecSrc = true ∧ ((Reg.v 3).isVDst || (Reg.v 3).isZ) = true ∧ G.Free (G.selActive sp.slices) [.v 3, .v 4, .s 5] :=
  issuing_of (by decide +kernel)

theorem witness_SelectResult_illreg : ∃ G sp, W.Issuing (.sel false (.m 3) (.v 4) (.s 5)) 0 0 G sp ∧ (Reg.v 4).vecSrc = true ∧
    (Reg.s 5).vecSrc = true ∧ ((Reg.m 3).isS || (Reg.m 3).isM) = true :=
  issuing_of (by decide +kernel)

theorem witness_TypedResult : ∃ G sp, (withMode 1).Issuing (.fma false (.v 8) (.v 2) (.s 4)) 0 0 G sp ∧ G.etype = some .fp64 ∧
    FOp.fma.accepts .fp64 = true ∧ typedForm true (.v 8) [(.v 2, true), (.s 4, true)] ∧
    G.Free (G.active sp.slices) (spanOf true (.v 8) ++ spanOf true (.v 2) ++ spanOf true (.s 4)) :=
  issuing_of (by decide +kernel)

theorem witness_TypedResult_sign : ∃ G sp, W.Issuing (.fabs false (.s 3) (.s 4)) 0 0 G sp ∧ G.etype = some .fp32 ∧
    arithType .fp32 = true ∧ (EType.fp32 = .cf32 → false = true) ∧ typedForm false (.s 3) [(.s 4, false)] ∧
    G.Free (G.active sp.slices) (spanOf false (.s 3) ++ spanOf false (.s 4)) :=
  issuing_of (by decide +kernel)

theorem witness_ConvertResult : ∃ G sp, (withMode 8).Issuing (.cvt false (.v 2) (.v 4) .fp64) 0 0 G sp ∧
    G.etype = some .i32 ∧ cvtLegal .fp64 .i32 = true ∧ typedForm false (.v 2) [(.v 4, true)] ∧
    G.Free (G.active sp.slices) (spanOf false (.v 2) ++ spanOf true (.v 4)) :=
  issuing_of (by decide +kernel)

theorem witness_DivideStarts : ∃ G sp, W.Issuing (.div false (.v 10) (.v 2) (.v 4)) 0 0 G sp ∧ G.etype = some .fp32 ∧
    EType.fp32.fmt = some fp32 ∧ divType .fp32 = true ∧ typedForm false (.v 10) [(.v 2, false), (.v 4, false)] ∧
    G.Free (G.active sp.slices) (spanOf false (.v 10) ++ [Reg.v 2, Reg.v 4].flatMap (spanOf false)) :=
  issuing_of (by decide +kernel)

theorem witness_DivideStarts_noLane : ∃ G sp,
    (withG fun G => G.setM 0 0).Issuing (.rsqrt false (.v 10) (.v 2)) 0 0 G sp ∧ G.etype = some .fp32 ∧
    typedForm false (.v 10) [(.v 2, false)] ∧
    G.Free (G.active sp.slices) (spanOf false (.v 10) ++ [Reg.v 2].flatMap (spanOf false)) ∧
    G.runs sp.slices (vectorWise (.v 10) [.v 2]) = [] :=
  issuing_of (by decide +kernel)

theorem witness_CompareResult : ∃ G sp, (withMode 8).Issuing (.clt false (.m 1) (.v 4) (.s 5)) 0 0 G sp ∧
    G.etype = some .i32 ∧ Cmp.lt.accepts .i32 = true ∧
    ((Reg.m 1).isMDst = true ∨ Reg.m 1 = .zr ∧ ((Reg.v 4).isV || (Reg.s 5).isV) = true) ∧
    ((Reg.v 4).vecSrc && pairOk false (.v 4)) = true ∧ ((Reg.s 5).vecSrc && pairOk false (.s 5)) = true ∧
    G.Free (G.active sp.slices) (.m 1 :: spanOf false (.v 4) ++ spanOf false (.s 5)) :=
  issuing_of (by decide +kernel)

theorem witness_CompareResult_scalar : ∃ G sp, (withMode 1).Issuing (.scun false .zr (.s 4) .zr) 0 0 G sp ∧
    G.etype = some .fp64 ∧ Cmp.un.accepts .fp64 = true ∧ (Reg.zr.isSDst || Reg.zr.isZ) = true ∧
    (Reg.s 4).scaSrc = true ∧ Reg.zr.scaSrc = true ∧ G.Free 0 [.zr, .s 4, .zr] :=
  issuing_of (by decide +kernel)

theorem witness_MaskResult : ∃ G sp, W.Issuing (.mxor false (.m 0) (.m 7) .live) 0 0 G sp ∧
    (((Reg.m 0).isMDst || (Reg.m 0).isZ) && (Reg.m 7).isM && Reg.live.isM) = true ∧ G.Free 0 [.m 0, .m 7, .live] :=
  issuing_of (by decide +kernel)

theorem witness_MaskResult_scalar : ∃ G sp, W.Issuing (.mffs false (.s 12) (.m 2)) 0 0 G sp ∧
    (((Reg.s 12).isSDst || (Reg.s 12).isZ) && (Reg.m 2).isM) = true ∧ G.Free 0 [.s 12, .m 2] :=
  issuing_of (by decide +kernel)

theorem witness_MaskResult_rest : ∃ G sp, W.Issuing (.mrest false (.m 0) (.s 10)) 0 0 G sp ∧
    ((Reg.m 0).isMDst && ((Reg.s 10).isS || (Reg.s 10).isZ)) = true ∧ G.Free 0 [.m 0, .s 10] :=
  issuing_of (by decide +kernel)

theorem witness_ExchangeResult : ∃ G sp, W.Issuing (.shfl false (.v 7) (.v 1) .zr) 0 0 G sp ∧ Reg.zr.vecSrc = true ∧
    ((Reg.v 7).isVDst || (Reg.v 7).isZ) = true ∧ ((Reg.v 1).isV || (Reg.v 1).isZ) = true ∧
    G.Free (G.active sp.slices) [.v 7, .zr] ∧ G.Free (G.liveOf sp.slices) [.v 1] :=
  issuing_of (by decide +kernel)

theorem witness_ExchangeResult_pattern : ∃ G sp, W.Issuing (.shfi false (.v 7) (.v 1) .down 31) 0 0 G sp ∧
    ((Reg.v 7).isVDst || (Reg.v 7).isZ) = true ∧ ((Reg.v 1).isV || (Reg.v 1).isZ) = true ∧
    G.Free (G.active sp.slices) [.v 7] ∧ G.Free (G.liveOf sp.slices) [.v 1] :=
  issuing_of (by decide +kernel)

theorem witness_ExchangeResult_lsh : ∃ G sp, W.Issuing (.lsh false (.v 7) (.v 1) (.s 3)) 0 0 G sp ∧
    ((Reg.s 3).isS || (Reg.s 3).isZ) = true ∧ ((Reg.v 7).isVDst || (Reg.v 7).isZ) = true ∧
    ((Reg.v 1).isV || (Reg.v 1).isZ) = true ∧
    G.Free (G.active sp.slices) [.v 7, .s 3] ∧ G.Free (G.liveOf sp.slices) [.v 1] :=
  issuing_of (by decide +kernel)

theorem witness_ExchangeResult_table : ∃ G sp, W.Issuing (.btlh false (.v 10) (.v 1) (.s 38)) 0 0 G sp ∧
    tableReg (.s 38) = true ∧ ((Reg.v 10).isVDst || (Reg.v 10).isZ) = true ∧ ((Reg.v 1).isV || (Reg.v 1).isZ) = true ∧
    G.Free (G.active sp.slices) (.v 10 :: .v 1 :: (Reg.s 38).span 2) ∧ G.Free (G.liveOf sp.slices) [] :=
  issuing_of (by decide +kernel)

theorem witness_DotAndReduction : ∃ G sp, (withMode 10).Issuing (.dot8 false (.v 12) (.v 1) (.s 2)) 0 0 G sp ∧
    G.etype = some .i8 ∧ dotType 8 .i8 = true ∧ ((Reg.v 12).isVDst || (Reg.v 12).isZ) = true ∧ (Reg.v 1).vecSrc = true ∧
    (Reg.s 2).vecSrc = true ∧ G.Free (G.active sp.slices) [.v 12, .v 1, .s 2] :=
  issuing_of (by decide +kernel)

theorem witness_DotAndReduction_reduce : ∃ G sp, (withMode 1).Issuing (.redmin false (.s 5) (.v 190)) 0 0 G sp ∧
    G.etype = some .fp64 ∧ RedOp.min.accepts .fp64 = true ∧ ((Reg.s 5).isSDst || (Reg.s 5).isZ) = true ∧
    (Reg.v 190).isV = true ∧ pairOk true (.v 190) = true ∧ G.Free (G.active sp.slices) [.s 5] ∧
    G.Free (G.liveOf sp.slices) (spanOf true (.v 190)) :=
  issuing_of (by decide +kernel)

theorem witness_DotAndReduction_scan : ∃ G sp, (withMode 8).Issuing (.scan false (.v 3) (.v 1)) 0 0 G sp ∧
    G.etype = some .i32 ∧ RedOp.add.accepts .i32 = true ∧ ((Reg.v 3).isVDst || (Reg.v 3).isZ) = true ∧
    pairOk false (.v 3) = true ∧ ((Reg.v 1).isV || (Reg.v 1).isZ) = true ∧ pairOk false (.v 1) = true ∧
    G.Free (G.active sp.slices) (spanOf false (.v 3)) ∧ G.Free (G.liveOf sp.slices) (spanOf false (.v 1)) :=
  issuing_of (by decide +kernel)

theorem witness_IndexedResult : ∃ G sp, (withV 20 fun _ => 191).Issuing (.rget false (.v 4) (.v 20)) 0 0 G sp ∧
    (Reg.v 20).vecSrc = true ∧ G.Free (G.active sp.slices) [.v 4, .v 20] ∧ ((Reg.v 4).isVDst || (Reg.v 4).isZ) = true ∧
    G.indexBound sp.slices (.v 20) = [] ∧ G.indexHazard sp.slices (.v 20) = [] :=
  issuing_of (by decide +kernel)

theorem witness_IndexedResult_put : ∃ G sp, W.Issuing (.rput false .zr (.v 20)) 0 0 G sp ∧ (Reg.v 20).vecSrc = true ∧
    G.Free (G.active sp.slices) [.zr, .v 20] ∧ Reg.zr.vecSrc = true ∧
    G.indexBound sp.slices .zr = [] ∧ G.indexHazard sp.slices .zr = [] :=
  issuing_of (by decide +kernel)


theorem witness_CountMoveImmediate_readOnly : ∃ G sp, W.Issuing (.mov false .role (.s 5)) 0 0 G sp ∧
    movSrc .role (.s 5) = true ∧ Reg.role ∈ [Reg.role, .lid, .live, .bnd, .alt, .mode] :=
  issuing_of (by decide +kernel)

theorem witness_BranchResult : ∃ G sp, W.Issuing (.br false 0x800000) 0 0 G sp ∧ G.Free 0 [] ∧
    legalPc (sp.pc + 4 * (0x800000 : BitVec 24).signExtend 64) = false ∧ G.Free 0 [.s 39] ∧
    legalPc (sp.pc + 4 * (0x7FFFFF : BitVec 24).signExtend 64) = true ∧ legalPc (G.sreg 39) = true :=
  issuing_of (by decide +kernel)

theorem witness_BranchResult_jr : ∃ G sp, (withS [(5, 0x2000)]).Issuing (.jr false (.s 5) (.s 5)) 0 0 G sp ∧
    ((Reg.s 5).isSDst || (Reg.s 5).isZ) = true ∧ ((Reg.s 5).isS || (Reg.s 5).isZ) = true ∧ G.Free 0 [.s 5, .s 5] ∧
    legalPc (G.opnd64 (.s 5)) = true :=
  issuing_of (by decide +kernel)

theorem witness_BranchResult_zero : ∃ G sp, W.Issuing (.brz false (.m 1) 0xFFFE) 0 0 G sp ∧
    ((Reg.m 1).isS || (Reg.m 1).isM || (Reg.m 1).isZ) = true ∧ G.opnd64 (.m 1) = 0 ∧ G.Free 0 [.m 1] ∧
    legalPc (sp.pc + 4 * (0xFFFE : BitVec 16).signExtend 64) = true :=
  issuing_of (by decide +kernel)

theorem witness_BranchResult_nonzero : ∃ G sp, W.Issuing (.brnz false .live 1) 0 0 G sp ∧
    (Reg.live.isS || Reg.live.isM || Reg.live.isZ) = true ∧ G.opnd64 .live ≠ 0 ∧ G.Free 0 [.live] ∧
    legalPc (sp.pc + 4 * (1 : BitVec 16).signExtend 64) = true :=
  issuing_of (by decide +kernel)

theorem witness_IssueTraps : ∃ G sp, (withS [(39, 2 ^ 63)]).Issuing (.ret false) 0 0 G sp ∧ G.isPending (.s 39) 0 = false ∧
    legalPc (G.sreg 39) = false :=
  issuing_of (by decide +kernel)

theorem witness_IssueTraps_branch : ∃ G sp, W.Issuing (.br false 0x800000) 0 0 G sp ∧
    legalPc (sp.pc + 4 * (0x800000 : BitVec 24).signExtend 64) = false :=
  issuing_of (by decide +kernel)

theorem witness_IssueTraps_illreg : ∃ G sp, W.Issuing (.add false (.v 0) (.m 0) (.s 0)) 0 0 G sp ∧
    (Reg.m 0).vecSrc = false ∧ (Reg.s 0).vecSrc = true :=
  issuing_of (by decide +kernel)

/-- A gang that holds 2 granules, so that v15 is its last register. -/
def few : State := withG fun G => { G with segs := [(256, 2)] }

theorem witness_IssueTraps_regbound : ∃ G sp, few.Issuing (.add false (.v 16) (.v 15) (.s 0)) 0 0 G sp ∧
    (Reg.v 15).vecSrc = true ∧ (Reg.s 0).vecSrc = true ∧ G.regBound ≤ 16 ∧ G.boundTest [.v 15, .s 0] = [] :=
  issuing_of (by decide +kernel)

/-- A gang whose v5 is Pending in lane 31. -/
def busy : State := withG fun G => G.setPending (.v 5) 31 0

theorem witness_IssueTraps_hazard : ∃ G sp, busy.Issuing (.add false (.v 5) (.v 1) (.s 0)) 0 0 G sp ∧
    (Reg.v 1).vecSrc = true ∧ (Reg.s 0).vecSrc = true ∧ G.boundTest [.v 5, .v 1, .s 0] = [] ∧
    G.hazardTest (G.active sp.slices) [.v 1, .s 0] = [] ∧
    (31 < 32 ∧ G.activeLane sp.slices 31 = true ∧ G.isPending (.v 5) 31 = true) :=
  issuing_of (by decide +kernel)

/-- m1 holds the condition in the lanes of slice 0, s6 the target. -/
def divides (m : Word) : State := withS [(6, 0x2000)] (withG fun G => G.setM 1 m)

theorem witness_PartAndRegang : ∃ G sp, (divides 0xF).Issuing (.part true (.s 6) (.m 1)) 0 0 G sp ∧
    (Reg.s 6).isS = true ∧ (Reg.m 1).isM = true ∧ G.Free 0 [.s 6, .m 1] ∧
    G.mixed sp.slices 0xF = 0 ∧ G.trueSlices sp.slices 0xF = 1 ∧ legalPc (G.opnd64 (.s 6)) = true ∧ 0 ≠ G.freeEntry :=
  issuing_of (by decide +kernel)

theorem witness_PartAndRegang_all : ∃ G sp, (divides 0xFFFFFFFF).Issuing (.part false (.s 6) (.m 1)) 0 0 G sp ∧
    G.mixed sp.slices 0xFFFFFFFF = 0 ∧ G.trueSlices sp.slices 0xFFFFFFFF = sp.slices ∧ legalPc (G.opnd64 (.s 6)) = true :=
  issuing_of (by decide +kernel)

theorem witness_PartAndRegang_none : ∃ G sp, (divides 0).Issuing (.part false (.s 6) (.m 1)) 0 0 G sp ∧
    G.mixed sp.slices 0 = 0 ∧ G.trueSlices sp.slices 0 = 0 :=
  issuing_of (by decide +kernel)

theorem witness_PartAndRegang_mixed : ∃ G sp, (divides 1).Issuing (.part false (.s 6) (.m 1)) 0 0 G sp ∧
    G.mixed sp.slices 1 ≠ 0 :=
  issuing_of (by decide +kernel)

/-- A gang in two splits, the second with the slices of the upper half. -/
def halves2 (f : Split → Split) : State :=
  withG fun G => { G with splits := G.splits.flatMap fun p =>
    [(0, { p.2 with slices := 0x0F }), (1, f { p.2 with slices := 0xF0, pc := 0x3000 })] }

theorem witness_PartAndRegang_waits : ∃ G sp, (halves2 id).Issuing (.regang false) 0 0 G sp ∧ G.otherRegang sp.pc = [] ∧
    (∃ p ∈ G.splits, p.1 ≠ 0 ∧ p.2.st ≠ .regang) :=
  issuing_of (by decide +kernel)

theorem witness_PartAndRegang_mix : ∃ G sp,
    (halves2 fun x => { x with st := .regang, wait := .regang, ipc := 0x3000 }).Issuing (.regang false) 0 0 G sp ∧
    G.otherRegang sp.pc = [0x3000] :=
  issuing_of (by decide +kernel)

theorem witness_PartAndRegang_last : ∃ G sp, W.Issuing (.regang false) 0 0 G sp ∧ KV.sorted G.splits = true ∧
    G.splits.head? = some (0, sp) ∧ G.st = .resident ∧ G.ops = [] ∧ W.binding G = none ∧
    (∀ p ∈ G.splits, p.1 ≠ 0 → p.2.st = .regang ∧ p.2.ipc = sp.pc) :=
  issuing_of (by decide +kernel)

theorem witness_YieldExit : ∃ G sp, W.Issuing (.yield false (.s 7) 3) 0 0 G sp ∧ ((Reg.s 7).isS || (Reg.s 7).isZ) = true ∧
    G.Free 0 [.s 7] ∧ legalPc (sp.pc + 4 * (3 : BitVec 16).signExtend 64) = true ∧ G.splits = [(0, sp)] ∧ sp.st = .ready ∧
    sp.seg = false ∧ G.st = .resident ∧ G.ops = [] ∧ G.copies = [] :=
  issuing_of (by decide +kernel)

theorem witness_YieldExit_exit : ∃ G sp, W.Issuing (.exit false) 0 0 G sp ∧ G.splits = [(0, sp)] ∧ sp.st = .ready ∧
    G.st = .resident ∧ G.ops = [] ∧ ((W.group G.group).map fun gr => gr.claims) = some [] :=
  issuing_of (by decide +kernel)

theorem witness_SystemRegisters : ∃ G sp, W.Issuing (.setm false 0x10C7) 0 0 G sp ∧ G.Free 0 [.mode] ∧ G.st ≠ .trap :=
  issuing_of (by decide +kernel)

theorem witness_SystemRegisters_read : ∃ G sp, W.Issuing (.rdsr false (.s 5) 0x10) 0 0 G sp ∧
    SysReg.ofNum 0x10 = some .strike ∧ ((Reg.s 5).isSDst || (Reg.s 5).isZ) = true ∧ G.Free 0 [.s 5] :=
  issuing_of (by decide +kernel)

/-- A gang in TRAP, by `trap 7` at 0x1000. -/
def trapped : State := after (.trap false 7)

theorem witness_SystemRegisters_write : ∃ G sp, (withS [(5, 0x2000)] trapped).Issuing (.wrsr false (.s 5) 1) 0 0 G sp ∧
    SysReg.ofNum 1 = some .tpc ∧ SysReg.tpc.writable = true ∧ G.st = .trap ∧ (G.trap.isSome = true) ∧
    ((Reg.s 5).isS || (Reg.s 5).isZ) = true ∧ G.Free 0 [.s 5] :=
  issuing_of (by decide +kernel)

theorem witness_SystemRegisters_write_tmode : ∃ G sp,
    (withS [(5, 0xFF0D)] trapped).Issuing (.wrsr false (.s 5) 2) 0 0 G sp ∧
    SysReg.ofNum 2 = some .tmode ∧ SysReg.tmode.writable = true ∧
    Instr.setmLegal ((G.opnd64 (.s 5)).setWidth 16) = true ∧ G.st = .trap :=
  issuing_of (by decide +kernel)

theorem witness_SystemRegisters_sysc : ∃ G sp, W.Issuing (.sysc false 0x21) 0 0 G sp ∧
    G.Free 0 [.s 32, .s 33, .s 34, .s 35, .s 36, .s 37, .stat] ∧ G.splits = [(0, sp)] ∧ G.st = .resident ∧ G.ops = [] :=
  issuing_of (by decide +kernel)

theorem witness_TrapEntry : ∃ G sp, W.Issuing (.trap true 0xFFFF) 0 0 G sp ∧ G.st ≠ .trap ∧ G.binds = [] :=
  issuing_of (by decide +kernel)

theorem witness_TrapEntry_double : ∃ G sp, trapped.Issuing (.trap false 7) 0 0 G sp ∧ G.st = .trap ∧
    G.trapSplit = some 0 :=
  issuing_of (by decide +kernel)

theorem witness_UndecodableTraps : ∃ G sp, W.Issuing (.undecodableWord 0x7F000000) 0 0 G sp ∧ G.st ≠ .trap ∧ G.binds = [] :=
  issuing_of (by decide +kernel)

theorem witness_TrapReturn : ∃ G sp, trapped.Issuing (.tret false) 0 0 G sp ∧ G.st = .trap ∧
    (G.trap.map fun t => (t.cause, t.again, legalPc t.tpc)) = some (13, .none, true) ∧ G.held = [] :=
  issuing_of (by decide +kernel)

theorem witness_TrapReturn_outside : ∃ G sp, W.Issuing (.tret false) 0 0 G sp ∧ G.st ≠ .trap :=
  issuing_of (by decide +kernel)


/-- Global memory of the entry's page in s1, the private window in s2, the register window in s3. -/
def addrs : State := withS [(1, 0x1100), (2, 0x8000000000000000), (3, 0x9000000000000000), (4, 0x8000000000000401), (5, 0x1101)]

/-- Per-lane addresses 4 bytes apart in v1. -/
def lanesAt (b : Nat) : State := withV 1 (fun i => BitVec.ofNat 32 (b + 4 * i)) addrs

theorem witness_LoadResult : ∃ G sp, (lanesAt 0).Issuing (.ldw false (.v 5) (.s 1) (.v 1)) 0 0 G sp ∧
    (plainIdx true 4 (.v 5) (.s 1) (.v 1)).Passes false (lanesAt 0) G sp ∧ G.runs sp.slices true ≠ [] ∧
    (plainIdx true 4 (.v 5) (.s 1) (.v 1)).vec = true :=
  issuing_of (by decide +kernel)

theorem witness_LoadResult_noLane : ∃ G sp, (withG (fun G => G.setM 0 0) addrs).Issuing (.ldb false (.v 5) (.s 1) .zr) 0 0 G sp ∧
    (plainIdx true 1 (.v 5) (.s 1) .zr).Passes false (withG (fun G => G.setM 0 0) addrs) G sp ∧ G.runs sp.slices true = [] :=
  issuing_of (by decide +kernel)

theorem witness_LoadResult_misaligned : ∃ G sp, addrs.Issuing (.lddImm false (.s 6) (.s 5) 0) 0 0 G sp ∧
    (plainImm true 8 (.s 6) (.s 5) 0).Passes false addrs G sp ∧
    ((plainImm true 8 (.s 6) (.s 5) 0).ea G 32).toNat % 8 ≠ 0 :=
  issuing_of (by decide +kernel)

theorem witness_LoadResult_private : ∃ G sp, (lanesAt 0).Issuing (.ldq false (.v 8) (.s 2) .zr) 0 0 G sp ∧
    (plainIdx true 16 (.v 8) (.s 2) .zr).Passes false (lanesAt 0) G sp ∧
    ((plainIdx true 16 (.v 8) (.s 2) .zr).privAt 0 G 31 (1, 0x8000000000000008, 8)).isSome = true :=
  issuing_of (by decide +kernel)

theorem witness_LoadResult_register : ∃ G sp, (lanesAt 0).Issuing (.lds false (.v 8) (.s 3) (.s 1)) 0 0 G sp ∧
    (plainStride true (.v 8) (.s 3) (.s 1)).size = 4 ∧ localWindow (G.sreg 3) = some 1 :=
  issuing_of (by decide +kernel)

theorem witness_StoreResult : ∃ G sp, (lanesAt 0).Issuing (.stw false (.v 5) (.s 1) (.v 1)) 0 0 G sp ∧
    (plainIdx false 4 (.v 5) (.s 1) (.v 1)).Passes false (lanesAt 0) G sp ∧ G.runs sp.slices true ≠ [] :=
  issuing_of (by decide +kernel)

theorem witness_StoreResult_private : ∃ G sp, (lanesAt 992).Issuing (.stb false (.v 5) (.s 2) (.v 1)) 0 0 G sp ∧
    (plainIdx false 1 (.v 5) (.s 2) (.v 1)).Passes false (lanesAt 992) G sp ∧
    ((plainIdx false 1 (.v 5) (.s 2) (.v 1)).privAt 0 G 7 (0, 0x80000000000003FC, 1)).isSome = true ∧
    ((plainIdx false 1 (.v 5) (.s 2) (.v 1)).privAt 0 G 8 (0, 0x8000000000000400, 1)) = none :=
  issuing_of (by decide +kernel)

theorem witness_StoreResult_register : ∃ G sp, (lanesAt 0).Issuing (.stw false (.v 5) (.s 3) (.v 1)) 0 0 G sp ∧
    (plainIdx false 4 (.v 5) (.s 3) (.v 1)).Passes false (lanesAt 0) G sp ∧
    localWindow ((plainIdx false 4 (.v 5) (.s 3) (.v 1)).ea G 0) = some 1 :=
  issuing_of (by decide +kernel)

theorem witness_StoreResult_strided : ∃ G sp, (withS [(6, 4)] (lanesAt 0)).Issuing (.sts false (.v 5) (.s 1) (.s 6)) 0 0 G sp ∧
    (plainStride false (.v 5) (.s 1) (.s 6)).Passes true (withS [(6, 4)] (lanesAt 0)) G sp :=
  issuing_of (by decide +kernel)

theorem witness_AtomicResult : ∃ G sp, (withMode 8 (lanesAt 0x1100)).Issuing (.amaxR false (.v 5) (.v 1) .sys) 0 0 G sp ∧
    G.etype = some .i32 ∧ ((Reg.v 5).isVDst || (Reg.v 5).isSDst || (Reg.v 5).isZ) = true ∧ (Reg.v 1).vecSrc = true ∧
    G.Free (G.active sp.slices) ([.v 5] ++ [.v 1]) ∧
    (withMode 8 (lanesAt 0x1100)).clampTest G true ((G.runs sp.slices true).map fun l => (G.base (.v 1) l, 4)) = none ∧
    (withMode 8 (lanesAt 0x1100)).MemRoom G sp ((G.runs sp.slices true).map fun l => G.base (.v 1) l) ∧
    G.runs sp.slices true ≠ [] :=
  issuing_of (by decide +kernel)

theorem witness_AtomicResult_cas : ∃ G sp, (withMode 9 addrs).Issuing (.acas false (.s 8) (.s 1) .gang) 0 0 G sp ∧
    G.etype = some .n32 ∧ ((Reg.s 8).isV || (Reg.s 8).isS || (Reg.s 8).isZ) = true ∧ (Reg.s 8).aligned 2 = true ∧
    Reg.s 8 ≠ .zr ∧ ((Reg.s 1).isS || (Reg.s 1).isZ) = true ∧ G.Free (G.active sp.slices) ((Reg.s 8).span 2 ++ [.s 1]) ∧
    (withMode 9 addrs).clampTest G true ((G.runs sp.slices false).map fun l => (G.base (.s 1) l, 8)) = none ∧
    (withMode 9 addrs).MemRoom G sp ((G.runs sp.slices false).map fun l => G.base (.s 1) l) :=
  issuing_of (by decide +kernel)

theorem witness_AtomicResult_fadd : ∃ G sp, (withMode 1 addrs).Issuing (.afadd false (.s 8) (.s 1) .chip) 0 0 G sp ∧
    G.etype = some .fp64 ∧ G.Free (G.active sp.slices) ([.s 8] ++ [.s 1]) :=
  issuing_of (by decide +kernel)

theorem witness_RequestResult : ∃ G sp, addrs.Issuing (.frdC false (.s 6) (.s 1)) 0 0 G sp ∧
    ((Reg.s 6).isSDst || (Reg.s 6).isZ) = true ∧ ((Reg.s 1).isS || (Reg.s 1).isZ) = true ∧ G.Free 0 [.s 6, .s 1, .stat] ∧
    addrs.clampTest G true [(G.opnd64 (.s 1), 8)] = none ∧ addrs.MemRoom G sp [G.opnd64 (.s 1)] :=
  issuing_of (by decide +kernel)

theorem witness_RequestResult_ring : ∃ G sp, addrs.Issuing (.rclaim false (.s 6) (.s 1)) 0 0 G sp ∧
    G.Free 0 [.s 6, .s 1, .stat] ∧ addrs.clampTest G true [(G.opnd64 (.s 1), 64)] = none ∧
    addrs.MemRoom G sp [G.opnd64 (.s 1)] :=
  issuing_of (by decide +kernel)

theorem witness_RequestResult_rwait : ∃ G sp, addrs.Issuing (.rwait false (.s 1) 0xFFFF) 0 0 G sp ∧
    ((Reg.s 1).isS || (Reg.s 1).isZ) = true ∧ G.Free 0 [.s 1, .stat] ∧
    addrs.clampTest G true [(G.opnd64 (.s 1), 8)] = none ∧ addrs.MemRoom G sp [G.opnd64 (.s 1)] :=
  issuing_of (by decide +kernel)

theorem witness_BindAndRemoteWrite : ∃ G sp, addrs.Issuing (.rbind false (.s 1)) 0 0 G sp ∧
    ((Reg.s 1).isS || (Reg.s 1).isZ) = true ∧ G.Free 0 [.s 1] ∧ addrs.clampTest G true [(G.opnd64 (.s 1), 64)] = none ∧
    addrs.MemRoom G sp [G.opnd64 (.s 1)] ∧ ∀ x ∈ G.binds, x.1 ≠ G.opnd64 (.s 1) :=
  issuing_of (by decide +kernel)

/-- A gang that has bound four rings, one of them at 0x1100. -/
def bound4 : State :=
  withG (fun G => { G with binds := [(0x1100, none), (0x1140, none), (0x1180, none), (0x11C0, none)] }) addrs

theorem witness_BindAndRemoteWrite_bound : ∃ G sp, bound4.Issuing (.rbind false (.s 1)) 0 0 G sp ∧
    (bound4.ringAcc 0 G sp (.s 1) 0).st.isFault = false ∧ (∃ x ∈ G.binds, x.1 = G.opnd64 (.s 1)) :=
  issuing_of (by decide +kernel)

theorem witness_BindAndRemoteWrite_fifth : ∃ G sp, (withS [(1, 0x1200)] bound4).Issuing (.rbind false (.s 1)) 0 0 G sp ∧
    4 ≤ G.binds.length ∧ (∀ x ∈ G.binds, x.1 ≠ G.opnd64 (.s 1)) :=
  issuing_of (by decide +kernel)

theorem witness_BindAndRemoteWrite_rwr : ∃ G sp, (withS [(6, 0x1200)] addrs).Issuing (.rwr false (.v 3) (.s 1) (.s 6)) 0 0 G sp ∧
    ((Reg.v 3).isV || (Reg.v 3).isS || (Reg.v 3).isZ) = true ∧ ((Reg.s 1).isS || (Reg.s 1).isZ) = true ∧
    ((Reg.s 6).isS || (Reg.s 6).isZ) = true ∧ G.Free (G.active sp.slices) [.v 3, .s 1, .s 6] ∧
    (withS [(6, 0x1200)] addrs).clampTest G true
      ((G.opnd64 (.s 6), 8) :: (lanesOf (G.active sp.slices)).map fun l => (G.opnd64 (.s 1) + BitVec.ofNat 64 (4 * l), 4)) = none ∧
    (withS [(6, 0x1200)] addrs).MemRoom G sp
      (G.opnd64 (.s 6) :: (lanesOf (G.active sp.slices)).map fun l => G.opnd64 (.s 1) + BitVec.ofNat 64 (4 * l)) ∧
    nodeOf addrs.node (G.opnd64 (.s 1)) = nodeOf addrs.node (G.opnd64 (.s 6)) :=
  issuing_of (by decide +kernel)

theorem witness_BindAndRemoteWrite_twoModules : ∃ G sp,
    (withS [(6, 0x1000000001200)] addrs).Issuing (.rwr false (.s 3) (.s 1) (.s 6)) 0 0 G sp ∧
    nodeOf addrs.node (G.opnd64 (.s 1)) ≠ nodeOf addrs.node (G.opnd64 (.s 6)) :=
  issuing_of (by decide +kernel)

theorem witness_OrderResult : ∃ G sp, W.Issuing (.fsc false true) 0 0 G sp ∧ G.Alone 0 sp :=
  issuing_of (by decide +kernel)

theorem witness_OrderResult_acq : ∃ G sp, W.Issuing (.acq false .bent) 0 0 G sp ∧ G.Alone 0 sp :=
  issuing_of (by decide +kernel)

/-- m1 is lane 0, s9 the count 2. -/
def arriving : State := withS [(9, 2)] (withG fun G => G.setM 1 1)

theorem witness_BarrierResult : ∃ G sp, arriving.Issuing (.barar false (.m 1) (.s 9) 0) 0 0 G sp ∧
    (0 : BitVec 6).toNat < arriving.barriersOf G ∧ ((Reg.m 1).isM || (Reg.m 1).isS) = true ∧ (Reg.s 9).isS = true ∧
    G.Free 0 [.m 1, .s 9, .stat] ∧ G.Alone 0 sp ∧ arriving.isAbandoned G = false ∧
    G.mismatch 0 (arriving.barrierOf G 0) sp.slices 1 2 = false ∧
    ((arriving.group G.group).map fun gr => (gr.gangs, decide (popcount ((1 : Word) &&& G.liveOf sp.slices) +
      (gr.barrier 0).count < 2 * popcount 1), KV.find (gr.barrier 0).arrived 0)) = some ([0], true, none) :=
  issuing_of (by decide +kernel)

theorem witness_BarrierResult_mismatch : ∃ G sp, arriving.Issuing (.bar false (.m 2) (.s 9) 0) 0 0 G sp ∧
    arriving.isAbandoned G = false ∧ G.mismatch 0 (arriving.barrierOf G 0) sp.slices 0 2 = true :=
  issuing_of (by decide +kernel)

/-- Its group has been abandoned. -/
def abandoned : State := arriving.modGroup 0 fun gr => { gr with abandoned := true }

theorem witness_BarrierResult_abandoned : ∃ G sp, abandoned.Issuing (.bar false (.m 1) (.s 9) 0) 0 0 G sp ∧
    abandoned.isAbandoned G = true :=
  issuing_of (by decide +kernel)

theorem witness_BarrierResult_barw : ∃ G sp, W.Issuing (.barw false 0) 0 0 G sp ∧ G.Free 0 [.stat] ∧
    W.isAbandoned G = false ∧ G.arrivals sp.slices 0 = [] :=
  issuing_of (by decide +kernel)

theorem witness_BarrierResult_barw_waits : ∃ G sp,
    (after (.barar false (.m 1) (.s 9) 0) arriving).Issuing (.barw false 0) 0 0 G sp ∧
    (∀ r ∈ G.arrivals sp.slices 0, r.discarded = false) ∧
    (∃ r ∈ G.arrivals sp.slices 0, r.phase = ((after (.barar false (.m 1) (.s 9) 0) arriving).barrierOf G 0).phase) :=
  issuing_of (by decide +kernel)

/-- Slice 0 has arrived in a phase that is past, or whose arrival was discarded. -/
def arrived (discarded : Bool) : State :=
  (withG fun G => { G with arrs := [(arrKey 0 0, { phase := 0, discarded := discarded })] }).modGroup 0 fun gr =>
    { gr with barriers := [(0, { phase := 1, m := 0, n := 0, arrived := [], strikes := 0 })] }

theorem witness_BarrierResult_barw_past : ∃ G sp, (arrived false).Issuing (.barw false 0) 0 0 G sp ∧
    G.arrivals sp.slices 0 ≠ [] ∧ (∀ r ∈ G.arrivals sp.slices 0, r.discarded = false) ∧
    (∀ r ∈ G.arrivals sp.slices 0, r.phase ≠ ((arrived false).barrierOf G 0).phase) :=
  issuing_of (by decide +kernel)

theorem witness_BarrierResult_barw_timeout : ∃ G sp, (arrived true).Issuing (.barw false 0) 0 0 G sp ∧
    (∃ r ∈ G.arrivals sp.slices 0, r.discarded = true) ∧ G.st ≠ .trap ∧ G.binds = [] :=
  issuing_of (by decide +kernel)

/-- A gang of 2 granules. -/
def small : State := withG fun G => { G with segs := [(256, 2)] }

/-- A gang that has given 22 of its 24 granules to its group's pool. -/
def given : State := after (.give false 22)

theorem witness_PoolAndMembership_claim : ∃ G sp, given.Issuing (.claim false 20) 0 0 G sp ∧ G.Alone 0 sp ∧
    ((given.group G.group).any fun gr => gr.claims.isEmpty && given.claimRun gr 20 == some 260 && gr.gangs == [0]) = true ∧
    G.Free 0 [.stat] ∧ G.segs.length < 4 ∧ G.granules + (20 : BitVec 16).toNat ≤ 24 :=
  issuing_of (by decide +kernel)

theorem witness_PoolAndMembership_nopool : ∃ G sp, small.Issuing (.claim false 1) 0 0 G sp ∧ G.Alone 0 sp ∧
    ((small.group G.group).any fun gr => gr.claims.isEmpty && (small.claimRun gr 1).isNone && gr.gangs == [0]) = true :=
  issuing_of (by decide +kernel)

theorem witness_PoolAndMembership_limit : ∃ G sp, W.Issuing (.claim false 1) 0 0 G sp ∧ G.Alone 0 sp ∧
    24 < G.granules + (1 : BitVec 16).toNat :=
  issuing_of (by decide +kernel)

theorem witness_PoolAndMembership_give : ∃ G sp, W.Issuing (.give false 24) 0 0 G sp ∧ G.Alone 0 sp ∧ G.pend = [] ∧
    G.segs = [] ++ [(256, 24)] ∧ (24 : BitVec 16).toNat ≤ 24 :=
  issuing_of (by decide +kernel)

theorem witness_PoolAndMembership_giveLimit : ∃ G sp, small.Issuing (.give false 3) 0 0 G sp ∧
    G.topGranules < (3 : BitVec 16).toNat :=
  issuing_of (by decide +kernel)

theorem witness_PoolAndMembership_join : ∃ G sp, W.Issuing (.bjoin false) 0 0 G sp ∧ G.Alone 0 sp :=
  issuing_of (by decide +kernel)

theorem witness_PoolAndMembership_leave : ∃ G sp, W.Issuing (.bleave false) 0 0 G sp ∧ G.Alone 0 sp :=
  issuing_of (by decide +kernel)


/-- A tile descriptor in s4: M, N, K. -/
def tileIn (m n k : Nat) : State := withS [(4, BitVec.ofNat 64 (m + 256 * n + 65536 * k))]

theorem witness_TileConfiguration : ∃ G sp, (tileIn 32 64 1).Issuing (.tcfg false (.s 4)) 0 0 G sp ∧ G.etype = some .fp32 ∧
    EType.fp32.int = none ∧ G.prot = false ∧ (Reg.s 4).isS = true ∧ G.Free 0 [.s 4] ∧ G.Alone 0 sp ∧
    (let x := G.opnd64 (.s 4)
     x.extractLsb' 32 32 = 0 ∧ (x.extractLsb' 0 8).toNat = 32 ∧ (x.extractLsb' 8 8).toNat = 64 ∧
       (x.extractLsb' 16 16).toNat % EType.fp32.kStep = 0) :=
  issuing_of (by decide +kernel)

theorem witness_TileConfiguration_bad : ∃ G sp, (tileIn 33 64 1).Issuing (.tcfg false (.s 4)) 0 0 G sp ∧
    G.etype = some .fp32 ∧ G.Free 0 [.s 4] ∧ ((G.opnd64 (.s 4)).extractLsb' 0 8).toNat = 33 :=
  issuing_of (by decide +kernel)

/-- What `State.Holds` asks of a page in a TLB. -/
def holds (s : State) (g : Nat) (G : Gang) (sl : BitVec 8) (va : Dword) (n key : Nat) : Bool :=
  va.toNat % n == 0 && G.pageFault sl G.nextOp va == none && (match s.locate g G 32 va n with | .translate => true | _ => false) &&
    (match s.tlbHit G.core G.ctx (vpnOf va) with
     | some lf => lf.r && key == lf.base + (va.extractLsb' 0 12).toNat
     | none => false) && !s.mem.poisoned key n

theorem holds_of {s : State} {g : Nat} {G : Gang} {sl : BitVec 8} {va : Dword} {n key : Nat}
    (h : holds s g G sl va n key = true) : s.Holds g G sl va n ((List.range n).map fun j => s.mem.byte (key + j)) := by
  unfold holds at h
  simp only [Bool.and_eq_true, Bool.not_eq_true', beq_iff_eq] at h
  obtain ⟨⟨⟨⟨h1, h0⟩, h2⟩, h3⟩, h4⟩ := h
  refine ⟨h1, h0, key, Or.inr ⟨?_, ?_⟩, h4, rfl⟩
  · split at h2
    · assumption
    · cases h2
  · split at h3
    · next lf hlf => exact ⟨lf, hlf, by simpa using h3⟩
    · cases h3

/-- A gang with M = N = K = 4 and, at 0x1100, the block of FP32 operands with B at v32, in quad mode or not; s6 holds its
address. -/
def tiled (quad : Bool) : State :=
  let s := withS [(6, 0x1100)] (withG fun G => { G with tile := some { m := 4, n := 4, k := 4 } })
  { s with mem := (s.mem.write 0x1103 1 32).write 0x1102 1 (if quad then 1 else 0) }

/-- The bytes of that block. -/
def block (quad : Bool) : List Byte := (List.range 32).map fun j => (tiled quad).mem.byte (0x1100 + j)

/-- What the issue of `mma v0, v16, s6` there asks. -/
def mayMultiply (s : State) (quad : Bool) (G : Gang) (sp : Split) : Bool :=
  decide (G.prot = false ∧ (Reg.s 6).isS = true ∧ G.boundTest [.v 0, .v 16] = [] ∧
    G.accHazard (G.active sp.slices) (.v 0) = [] ∧ G.hazardTest (G.active sp.slices) [.v 16, .s 6] = [] ∧
    G.opnd64 (.s 6) = 0x1100 ∧ s.clampTest G false [(0x1100, 32)] = none ∧ G.opHold sp.slices = false ∧
    G.storePending 0x1100 32 = false ∧ G.tile = some { m := 4, n := 4, k := 4 }) &&
  holds s 0 G sp.slices 0x1100 32 0x1100 && ((List.range 32).map fun j => s.mem.byte (0x1100 + j)) == block quad &&
  match Fb.ofBytes (block quad) with
  | some f =>
    let x : MatArgs :=
      { kind := .mma, vC := 0, vA := 16, tile := { m := 4, n := 4, k := 4 }, fb := f, fbVa := 0x1100, comp := G.comp,
        rows := maskOf fun i => G.activeLane sp.slices i && decide (i < 4) }
    (x.tests s G).isEmpty && (x.sideList G.idx).isEmpty && f.quad == quad
  | none => false

theorem witness_MatrixIssues : ∃ G sp, (tiled false).Issuing (.mma false (.v 0) (.v 16) (.s 6)) 0 0 G sp ∧
    mayMultiply (tiled false) false G sp = true :=
  issuing_of (by decide +kernel)

theorem witness_MatrixIssues_zero : ∃ G sp, (tiled false).Issuing (.mzero false .zr (.s 6)) 0 0 G sp ∧ G.prot = false ∧
    G.boundTest [.zr] = [] ∧ G.accHazard (G.active sp.slices) .zr = [] ∧ G.hazardTest (G.active sp.slices) [.s 6] = [] ∧
    (tiled false).clampTest G false [(0x1100, 32)] = none ∧ G.opHold sp.slices = false ∧
    (match Fb.ofBytes (block false) with
     | some f =>
       let x : MatArgs :=
         { kind := .mzero, vC := noBase, vA := 0, tile := { m := 4, n := 4, k := 4 }, fb := f, fbVa := 0x1100, comp := G.comp,
           rows := 0 }
       (x.tests (tiled false) G).isEmpty && (x.sideList G.idx).isEmpty
     | none => false) = true :=
  issuing_of (by decide +kernel)

/-- Four gangs of one quad slot. -/
def quad4 : State :=
  match (tiled true).gang 0 with
  | some G =>
    (((tiled true).setGang 1 { G with idx := 1 }).setGang 2 { G with idx := 2 }).setGang 3 { G with idx := 3 }
      |>.modGroup 0 fun gr => { gr with gangs := [0, 1, 2, 3] }
  | none => tiled true

theorem witness_MatrixIssues_quad : ∃ G sp, quad4.Issuing (.mma false (.v 0) (.v 16) (.s 6)) 0 0 G sp ∧
    mayMultiply quad4 true G sp = true ∧ (quad4.quadGangs G).length = 4 ∧
    (∀ h ∈ quad4.quadGangs G, (quad4.gang h).any (fun H => H.st == .resident) = true) ∧
    (∃ h ∈ quad4.quadGangs G, h ≠ 0 ∧ (quad4.gang h).any (fun H => H.quadOp == none) = true) :=
  issuing_of (by decide +kernel)

/-- A block whose B register base is 192. -/
def badBlock : State := { tiled false with mem := (tiled false).mem.write 0x1103 1 192 }

theorem witness_MatrixIssues_malformed : ∃ G sp, badBlock.Issuing (.mzero false (.v 0) (.s 6)) 0 0 G sp ∧
    G.boundTest [.v 0] = [] ∧ G.accHazard (G.active sp.slices) (.v 0) = [] ∧
    holds badBlock 0 G sp.slices 0x1100 32 0x1100 = true ∧
    (Fb.ofBytes ((List.range 32).map fun j => badBlock.mem.byte (0x1100 + j))).isNone = true :=
  issuing_of (by decide +kernel)

theorem witness_TrailedStore : ∃ G sp, W.Issuing (.stt false (.v 5) .zr 15) 0 0 G sp ∧ G.prot = false ∧
    (Reg.v 5).vecSrc = true ∧ Reg.zr.vecSrc = true ∧ G.Free (G.active sp.slices) [.v 5, .zr] ∧ W.MemRoom G sp [] ∧
    (∀ i ∈ lanesOf (G.active sp.slices), G.ttOf i + 16 ≤ G.btOf i) ∧
    (∀ i ∈ lanesOf (G.active sp.slices), G.btOf i ≤ 2 ^ 52 ∧ 16 * (G.privBytes / 32) ≤ G.ttOf i) :=
  issuing_of (by decide +kernel)

/-- Lane 3 has no room left for a trail entry or a brace. -/
def fullLane : State := withG fun G => { G with tt := [(3, 1024)] }

theorem witness_TrailedStore_overflow : ∃ G sp, fullLane.Issuing (.sttb false (.v 5) .zr 0) 0 0 G sp ∧
    (∃ i ∈ lanesOf (G.active sp.slices), G.btOf i < G.ttOf i + 16) ∧ fullLane.MemRoom G sp [] :=
  issuing_of (by decide +kernel)

/-- Lane 0 alone active; v3 holds n in every lane. -/
def lane0 (n : Word) : State := withV 3 (fun _ => n) (withG fun G => G.setM 0 1)

theorem witness_TryAndFail : ∃ G sp, (withV 3 (fun i => BitVec.ofNat 32 i)).Issuing (.tryBrace false (.v 3) 0x8001) 0 0 G sp ∧
    G.prot = false ∧ (Reg.v 3).vecSrc = true ∧ G.Free (G.active sp.slices) (.v 3 :: braceRegs 0x8001 ++ [.bnd, .alt]) ∧
    (∀ i ∈ lanesOf (G.active sp.slices), (G.opnd32 (.v 3) i).toNat = 0 → G.btOf i = G.privBytes) ∧
    (∀ i ∈ lanesOf (G.active sp.slices), 2 ≤ (G.opnd32 (.v 3) i).toNat → G.ttOf i + 96 ≤ G.btOf i) ∧
    (∀ i ∈ lanesOf (G.active sp.slices), G.btOf i ≤ 2 ^ 52) :=
  issuing_of (by decide +kernel)

theorem witness_TryAndFail_overflow : ∃ G sp, (withV 3 (fun _ => 2) fullLane).Issuing (.tryBrace false (.v 3) 1) 0 0 G sp ∧
    (∃ i ∈ lanesOf (G.active sp.slices), 2 ≤ (G.opnd32 (.v 3) i).toNat ∧ G.btOf i < G.ttOf i + 96) ∧
    (∀ i ∈ lanesOf (G.active sp.slices), (G.opnd32 (.v 3) i).toNat = 0 → G.btOf i = G.privBytes) :=
  issuing_of (by decide +kernel)

theorem witness_TryAndFail_fail : ∃ G sp, W.Issuing (.fail false) 0 0 G sp ∧ G.prot = false ∧ G.ops = [] ∧ G.pend = [] ∧
    W.binding G = none ∧ (∀ i ∈ lanesOf (G.active sp.slices), G.btOf i = G.privBytes) :=
  issuing_of (by decide +kernel)

/-- Lane 0 has pushed a brace of two remaining alternatives and then trailed a store at 4. -/
def searched : State := afterAll [.tryBrace false (.v 3) 1, .stt false (.v 3) .zr 1] (lane0 3)

theorem witness_TryAndFail_back : ∃ G sp, searched.Issuing (.fail false) 0 0 G sp ∧ G.prot = false ∧ G.ops = [] ∧ G.pend = [] ∧
    searched.binding G = none ∧ lanesOf (G.active sp.slices) = [0] ∧ G.btOf 0 + 96 ≤ G.privBytes ∧ G.ttOf 0 ≤ G.btOf 0 ∧
    G.tb + 16 ≤ G.ttOf 0 ∧ (searched.brace 0 0 (G.btOf 0)).malformed G.tb (G.btOf 0) = false ∧
    0 < (searched.brace 0 0 (G.btOf 0)).remaining ∧ (searched.brace 0 0 (G.btOf 0)).mark + 16 = G.ttOf 0 ∧
    (let top := ((0 * 32 + 0) * 8 + 4) * 2 ^ 52 + (G.ttOf 0 - 16)
     searched.mem.read top 8 = 2 ^ 63 + 4 ∧ searched.mem.read (top + 8) 4 = 0 ∧ searched.mem.read (top + 12) 4 = 2) ∧
    4 + 2 ^ 2 ≤ G.tb :=
  issuing_of (by decide +kernel)

theorem witness_ResumeCutBound : ∃ G sp,
    (withG fun G => { G with search := [(31, .pend)] }).Issuing (.resume false (.m 0)) 0 0 G sp ∧ G.prot = false ∧
    ((Reg.m 0).isMDst || (Reg.m 0).isZ) = true :=
  issuing_of (by decide +kernel)

theorem witness_ResumeCutBound_cut : ∃ G sp, searched.Issuing (.cut false (.v 5) .zr) 0 0 G sp ∧ G.prot = false ∧
    ((Reg.v 5).isVDst || (Reg.v 5).isZ) = true ∧ Reg.zr.vecSrc = true ∧ G.Free (G.active sp.slices) [.v 5, .zr] :=
  issuing_of (by decide +kernel)

theorem witness_ResumeCutBound_bset : ∃ G sp, W.Issuing (.bset false (.v 4)) 0 0 G sp ∧ (Reg.v 4).vecSrc = true ∧
    G.Free (G.active sp.slices) [.v 4, .bnd] :=
  issuing_of (by decide +kernel)

theorem witness_StealSpawn : ∃ G sp, W.Issuing (.steal false) 0 0 G sp ∧ G.prot = false ∧ G.hazardTest 0 stealRegs = [] ∧
    G.Free 0 [.stat] ∧ (∀ i ∈ lanesOf (G.liveOf sp.slices), G.btOf i = G.privBytes) :=
  issuing_of (by decide +kernel)

/-- Lane 0 has a brace, lane 1 is IDLE. -/
def robbed : State := withG (fun G => { G with search := [(0, .run), (1, .idle)] }) (after (.tryBrace false (.v 3) 1) (lane0 3))

theorem witness_StealSpawn_work : ∃ G sp, robbed.Issuing (.steal false) 0 0 G sp ∧ G.prot = false ∧
    (lanesOf (G.liveOf sp.slices)).filter (fun i => G.searchOf i == .idle) = [1] ∧ 0 ∈ lanesOf (G.liveOf sp.slices) ∧
    (∀ i ∈ lanesOf (G.liveOf sp.slices), i ≠ 0 → G.btOf i = G.privBytes) ∧ 96 ≤ G.privBytes ∧ G.btOf 0 + 96 = G.privBytes ∧
    G.ttOf 0 ≤ G.btOf 0 ∧ (robbed.brace 0 0 (G.btOf 0)).malformed G.tb (G.btOf 0) = false ∧
    0 < (robbed.brace 0 0 (G.btOf 0)).remaining ∧ (robbed.brace 0 0 (G.btOf 0)).mark = G.ttOf 0 :=
  issuing_of (by decide +kernel)

theorem witness_StealSpawn_spawn : ∃ G sp, (withG fun G => G.setM 0 0).Issuing (.spawn false (.v 176)) 0 0 G sp ∧
    (176 : Fin 192).val % 16 = 0 ∧ G.prot = false ∧ G.Free (G.active sp.slices) ((Reg.v 176).span 16 ++ [.stat]) ∧
    G.Alone 0 sp ∧ G.active sp.slices = 0 :=
  issuing_of (by decide +kernel)

/-- Ridge register 2 of context 0 is enabled, a minimum. -/
def ridged : State :=
  let cfg : RidgeCfg := { enable := true, isMax := false, system := false, start := 100 }
  W.setCtx 0 { W.ctx 0 with ridges := [(2, { cfg := cfg, val := 100 })] }

theorem witness_RidgeResult : ∃ G sp, (withS [(4, 2)] ridged).Issuing (.rmin false (.s 4) (.v 14)) 0 0 G sp ∧
    (G.opnd64 (.s 4)).toNat % 16 = 2 ∧ ((Reg.s 4).isS || (Reg.s 4).isZ) = true ∧ (Reg.v 14).vecSrc = true ∧
    G.Free (G.active sp.slices) [.s 4, .v 14] ∧
    (let cfg := (((withS [(4, 2)] ridged).ctx G.ctx).ridge 2).cfg
     (cfg.enable && cfg.isMax == false) = true) ∧ lanesOf (G.active sp.slices) ≠ [] :=
  issuing_of (by decide +kernel)

theorem witness_RidgeResult_off : ∃ G sp, W.Issuing (.rmax false .zr (.s 9)) 0 0 G sp ∧ (G.opnd64 .zr).toNat % 16 = 0 ∧
    G.Free (G.active sp.slices) [.zr, .s 9] ∧
    (let cfg := ((W.ctx G.ctx).ridge 0).cfg
     (cfg.enable && cfg.isMax == true) = false) :=
  issuing_of (by decide +kernel)

theorem witness_RidgeResult_read : ∃ G sp, ridged.Issuing (.rrd false (.v 10) (.s 4)) 0 0 G sp ∧
    ((Reg.v 10).isVDst || (Reg.v 10).isSDst || (Reg.v 10).isZ) = true ∧ ((Reg.s 4).isS || (Reg.s 4).isZ) = true ∧
    G.Free (G.active sp.slices) [.v 10, .s 4] ∧ G.runs sp.slices true ≠ [] :=
  issuing_of (by decide +kernel)

/-- s4 the destination, s5 the source, s6 the length of a copy. -/
def copying (dst src len : Dword) : State := withS [(4, dst), (5, src), (6, len)]

/-- What the issue of `cpy s10, s4, s6` asks. -/
abbrev mayCopy (s : State) (G : Gang) (sp : Split) : Prop :=
  ((Reg.s 10).isSDst || (Reg.s 10).isZ) = true ∧ (Reg.s 4).sNum = some 4 ∧ 4 % 2 = 0 ∧ ((Reg.s 6).isS || (Reg.s 6).isZ) = true ∧
    G.Free 0 [.s 10, .s 4, (Reg.s 4).plus 1, .s 6] ∧ G.live &&& ~~~G.active sp.slices = 0 ∧ G.copies.length < 16 ∧
    2 ≤ s.clampRoom G.core

theorem witness_CopyResult : ∃ G sp, (copying 0x1100 0x1200 16).Issuing (.cpy false (.s 10) (.s 4) (.s 6)) 0 0 G sp ∧
    mayCopy (copying 0x1100 0x1200 16) G sp ∧
    (copying 0x1100 0x1200 16).copyRefused 0 G (G.opnd64 (.s 4)) (G.opnd64 ((Reg.s 4).plus 1)) (G.opnd64 (.s 6)) = none ∧
    G.opnd64 (.s 6) ≠ 0 :=
  issuing_of (by decide +kernel)

theorem witness_CopyResult_refused : ∃ G sp,
    (copying 0x8000000000000000 0x1200 16).Issuing (.cpy false (.s 10) (.s 4) (.s 6)) 0 0 G sp ∧
    mayCopy (copying 0x8000000000000000 0x1200 16) G sp ∧
    ((copying 0x8000000000000000 0x1200 16).copyRefused 0 G (G.opnd64 (.s 4)) (G.opnd64 ((Reg.s 4).plus 1))
      (G.opnd64 (.s 6))).isSome = true :=
  issuing_of (by decide +kernel)

theorem witness_CopyResult_empty : ∃ G sp, (copying 0x1100 0x1200 0).Issuing (.cpy false (.s 10) (.s 4) (.s 6)) 0 0 G sp ∧
    mayCopy (copying 0x1100 0x1200 0) G sp ∧
    (copying 0x1100 0x1200 0).copyRefused 0 G (G.opnd64 (.s 4)) (G.opnd64 ((Reg.s 4).plus 1)) (G.opnd64 (.s 6)) = none ∧
    G.released sp.slices .chip G.nextOp = true :=
  issuing_of (by decide +kernel)

theorem witness_CopyResult_partial : ∃ G sp, (lane0 0).Issuing (.cpy false (.s 10) (.s 4) (.s 6)) 0 0 G sp ∧
    G.Free 0 [.s 10, .s 4, (Reg.s 4).plus 1, .s 6] ∧ G.live &&& ~~~G.active sp.slices ≠ 0 :=
  issuing_of (by decide +kernel)

theorem witness_CopyResult_cwait : ∃ G sp, W.Issuing (.cwait false .zr) 0 0 G sp ∧ (Reg.zr.isS || Reg.zr.isZ) = true ∧
    G.Free 0 [.zr] ∧ G.Alone 0 sp ∧ G.copies = [] :=
  issuing_of (by decide +kernel)

theorem witness_QueueResult : ∃ G sp, (withS [(8, 1), (9, 0x1000)]).Issuing (.qbind false (.q 0) (.s 8)) 0 0 G sp ∧
    (Reg.s 8).sNum = some 8 ∧ 8 % 2 = 0 ∧ G.Free 0 [.s 8, Reg.second (.s 8)] ∧
    (withS [(8, 1), (9, 0x1000)]).bindBad 0 G (G.opnd64 (.s 8)) (G.opnd64 (Reg.second (.s 8))) = false ∧ G.Alone 0 sp ∧
    (∀ r ∈ (G.queue 0).reqs, r.st = .done ∧ r.pops = false ∧ ((G.queue 0).engine = 2 → r.fault = none)) :=
  issuing_of (by decide +kernel)

theorem witness_QueueResult_bad : ∃ G sp, (withS [(8, 3)]).Issuing (.qbind false (.q 7) (.s 8)) 0 0 G sp ∧
    (withS [(8, 3)]).bindBad 0 G (G.opnd64 (.s 8)) (G.opnd64 (Reg.second (.s 8))) = true :=
  issuing_of (by decide +kernel)

/-- Queue register 0 bound to an engine, its counters at 0x1200, with the requests given. -/
def bound (engine : Nat) (reqs : List Req) : State :=
  withS [(20, 0x0000000800000001)] (withG fun G => { G with queues := [(0, { engine := engine, base := 0x1200, frame := [], reqs := reqs })] })

theorem witness_QueueResult_push : ∃ G sp, (bound 2 []).Issuing (.queuePush false (.q 0) (.s 20)) 0 0 G sp ∧
    (Reg.s 20).isS = true ∧ (G.queue 0).engine = 2 ∧ G.Free 0 [.s 20] ∧ G.Alone 0 sp ∧ (G.queue 0).queued < 16 ∧
    ((G.queue 0).frame ++ [G.opnd64 (.s 20)]).length < 1 + netFollow (((G.queue 0).frame ++ [G.opnd64 (.s 20)]).getD 0 0) :=
  issuing_of (by decide +kernel)

theorem witness_QueueResult_pop : ∃ G sp, (bound 1 []).Issuing (.queuePop false (.s 6) (.q 0)) 0 0 G sp ∧
    (Reg.s 6).isSDst = true ∧ (G.queue 0).engine ≠ 0 ∧ G.Free 0 [.s 6, .stat] ∧ (G.queue 0).reqs = [] :=
  issuing_of (by decide +kernel)

theorem witness_QueueResult_zero : ∃ G sp, (bound 1 []).Issuing (.queuePop false .zr (.q 0)) 0 0 G sp ∧
    (Reg.zr.isSDst || Reg.zr.isZ) = true ∧ (G.queue 0).engine ≠ 0 ∧ G.Free 0 [.zr, .stat] ∧ (G.queue 0).reqs = [] :=
  issuing_of (by decide +kernel)

/-- A request with a tag and words, queued and not yet moved. -/
def req (tag : Dword) (words : List Dword) (pops : Bool) : Req :=
  { id := 5, tag := tag, words := words, st := .queued, malformed := false, refused := false, pops := pops, pc := 0x1000,
    word := 0, slices := 0xFF, before := 0, moved := [], stopped := [], declined := [], fault := none }

theorem witness_QueueResult_popWaits : ∃ G sp, (bound 1 [req 0x1300 [] true]).Issuing (.queuePop false (.s 6) (.q 0)) 0 0 G sp ∧
    (G.queue 0).reqs = [req 0x1300 [] true] ∧ (req 0x1300 [] true).pops = true ∧ G.ops = [] ∧ G.Free 0 [.s 6, .stat] :=
  issuing_of (by decide +kernel)

theorem witness_QueueResult_nwait : ∃ G sp, (withS [(12, 0x1201)]).Issuing (.nwait false (.s 12) .zr) 0 0 G sp ∧
    (Reg.s 12).isS = true ∧ (Reg.zr.isS || Reg.zr.isZ) = true ∧ G.Free 0 [.s 12, .zr] ∧
    (withS [(12, 0x1201)]).MemRoom G sp [G.opnd64 (.s 12)] ∧ (G.opnd64 (.s 12)).toNat % 8 ≠ 0 :=
  issuing_of (by decide +kernel)


/-- Access k of instruction o of gang 0 may be dealt with at its home, and a condition holds. -/
def atHome (s : State) (o k : Nat) (P : Gang → Op → Acc → Nat → Bool) : Bool :=
  match s.gang 0 with
  | some G =>
    match KV.find G.ops o with
    | some op =>
      match KV.find op.accs k with
      | some a =>
        match a.place.bind Place.key with
        | some key => decide (a.st = .ready) && G.leaves o op a && P G op a key
        | none => false
      | none => false
    | none => false
  | none => false

theorem atHome_of {s : State} {o k : Nat} {P : Gang → Op → Acc → Nat → Prop} [∀ G op a key, Decidable (P G op a key)]
    (h : atHome s o k (fun G op a key => decide (P G op a key)) = true) :
    ∃ G op a key, s.Arrives 0 o k G op a key ∧ P G op a key := by
  unfold atHome at h
  split at h
  · split at h
    · split at h
      · split at h
        · simp only [Bool.and_eq_true, decide_eq_true_eq] at h
          exact ⟨_, _, _, _, ⟨‹_›, ‹_›, ‹_›, h.1.1, h.1.2, ‹_›⟩, h.2⟩
        · cases h
      · cases h
    · cases h
  · cases h

/-- Lane 0 alone active, s1 = 0x1100. -/
def one : State := withG (fun G => G.setM 0 1) addrs

/-- A machine with n bytes at k. -/
def withMem (k v n : Nat) (s : State) : State := { s with mem := s.mem.write k n v }

theorem witness_HomeAccess_load : ∃ G op a key, (after (.ldw false (.v 4) (.s 1) .zr) one).Arrives 0 0 0 G op a key ∧
    op.kind = .load ∧ G.ownBefore 0 a = false ∧ a.place = some (.hbm 0x1100) ∧
    (((after (.ldw false (.v 4) (.s 1) .zr) one).core G.core).l1.length < 2048) ∧
    (∀ d ∈ (after (.ldw false (.v 4) (.s 1) .zr) one).deferred, d.ext = none) :=
  atHome_of (by decide +kernel)

theorem witness_HomeAccess_store : ∃ G op a key,
    (after (.stw false (.v 4) (.s 1) .zr) one).Arrives 0 0 0 G op a key ∧ op.kind = .store ∧ key = 0x1100 :=
  atHome_of (by decide +kernel)

theorem witness_HomeAccess_atomic : ∃ G op a key,
    (after (.amaxR false (.v 4) (.s 1) .chip) (withMem 0x1100 7 4 one)).Arrives 0 0 0 G op a key ∧
    op.kind = .atomic .max true true ∧ (a.size = 4 ∨ a.size = 8) ∧
    (after (.amaxR false (.v 4) (.s 1) .chip) (withMem 0x1100 7 4 one)).mem.poisoned key a.size = false :=
  atHome_of (by decide +kernel)

/-- The same with a poison mark on the block. -/
def marked : State := after (.amaxR false (.v 4) (.s 1) .chip) { one with mem := { one.mem with poison := [0x88] } }

theorem witness_HomeAccess_poison : ∃ G op a key, marked.Arrives 0 0 0 G op a key ∧ op.kind = .atomic .max true true ∧
    marked.mem.poisoned key a.size = true :=
  atHome_of (by decide +kernel)

/-- An access of gang 0 is performed, and a condition holds. -/
def answered (s : State) (o k : Nat) (P : Gang → Op → Acc → Bool) : Bool :=
  match s.gang 0 with
  | some G =>
    match KV.find G.ops o with
    | some op =>
      match KV.find op.accs k with
      | some a => decide (a.st = .performed) && P G op a
      | none => false
    | none => false
  | none => false

theorem answered_of {s : State} {o k : Nat} {P : Gang → Op → Acc → Prop} [∀ G op a, Decidable (P G op a)]
    (h : answered s o k (fun G op a => decide (P G op a)) = true) :
    ∃ G op a, s.gang 0 = some G ∧ KV.find G.ops o = some op ∧ KV.find op.accs k = some a ∧ a.st = .performed ∧ P G op a := by
  unfold answered at h
  split at h
  · split at h
    · split at h
      · simp only [Bool.and_eq_true, decide_eq_true_eq] at h
        exact ⟨_, _, _, ‹_›, ‹_›, ‹_›, h.1, h.2⟩
      · cases h
    · cases h
  · cases h

/-- A machine in which a read or write of the future cell at 0x1100 has been answered. -/
def futureDone (i : Instr) (e : Instr) (full : Bool) : State :=
  afterAll [i, e] { one with mem := one.mem.setFull 0x1100 full }

theorem witness_ResultDelivery_load : ∃ G op a,
    (let s := afterAll [.ldw false (.v 4) (.s 1) .zr, .homeLoad 0 0 0] one
     s.gang 0 = some G ∧ KV.find G.ops 0 = some op ∧ KV.find op.accs 0 = some a ∧ a.st = .performed ∧
    (a.orphan = false ∧ a.code < 256 ∧ op.kind = .load ∧ op.dest = .v 4 ∧ a.lane < 32 ∧ a.size ≤ 4 ∧
      op.instr = .ldw false (.v 4) (.s 1) .zr ∧ KV.find G.pend (pendKey (.v 4) a.lane) = some 0)) :=
  answered_of (by decide +kernel)

theorem witness_ResultDelivery_scalar : ∃ G op a,
    (let s := afterAll [.ldd false (.s 4) (.s 1) .zr, .homeLoad 0 0 64] one
     s.gang 0 = some G ∧ KV.find G.ops 0 = some op ∧ KV.find op.accs 64 = some a ∧ a.st = .performed ∧
    (a.orphan = false ∧ a.code < 256 ∧ op.kind = .load ∧ op.dest = .s 4 ∧ a.lane = 32 ∧
      KV.find G.pend (pendKey (.s 4) 0) = some 0)) :=
  answered_of (by decide +kernel)

theorem witness_ResultDelivery_atomic : ∃ G op a,
    (let s := afterAll [.amaxR false (.v 4) (.s 1) .chip, .homeAtomic 0 0 0] one
     s.gang 0 = some G ∧ KV.find G.ops 0 = some op ∧ KV.find op.accs 0 = some a ∧ a.st = .performed ∧
    (a.orphan = false ∧ a.code < 256 ∧ op.kind = .atomic .max true true ∧ op.dest = .v 4 ∧ a.lane < 32 ∧ op.acq = some .chip)) :=
  answered_of (by decide +kernel)

theorem witness_ResultDelivery_store : ∃ G op a,
    (let s := afterAll [.stw false (.v 4) (.s 1) .zr, .homeStore 0 0 0] one
     s.gang 0 = some G ∧ KV.find G.ops 0 = some op ∧ KV.find op.accs 0 = some a ∧ a.st = .performed ∧
    (op.kind.writes = true ∧ op.kind.varLat = false ∧ (a.code < 256 ∨ a.orphan = true))) :=
  answered_of (by decide +kernel)

theorem witness_ResultDelivery_orphan : ∃ G op a,
    (let s := withG (fun G => match G.acc 0 0 with | some p => G.setAcc 0 0 { p.2 with orphan := true } | none => G)
       (afterAll [.ldw false (.v 4) (.s 1) .zr, .homeLoad 0 0 0] one)
     s.gang 0 = some G ∧ KV.find G.ops 0 = some op ∧ KV.find op.accs 0 = some a ∧ a.st = .performed ∧
    (op.kind.varLat = true ∧ a.orphan = true)) :=
  answered_of (by decide +kernel)

theorem witness_ResultDelivery_fwr : ∃ G op a,
    (let s := futureDone (.fwr false (.s 2) (.s 1)) (.homeFutureWrite 0 0 64) false
     s.gang 0 = some G ∧ KV.find G.ops 0 = some op ∧ KV.find op.accs 64 = some a ∧ a.st = .performed ∧
    (a.orphan = false ∧ a.code < 256 ∧ op.kind = .fwr ∧ KV.find G.pend (pendKey .stat 0) = some 0)) :=
  answered_of (by decide +kernel)

theorem witness_ResultDelivery_frd : ∃ G op a,
    (let s := futureDone (.frdC false (.s 6) (.s 1)) (.homeFutureRead 0 0 64) true
     s.gang 0 = some G ∧ KV.find G.ops 0 = some op ∧ KV.find op.accs 64 = some a ∧ a.st = .performed ∧
    (a.orphan = false ∧ a.code = 0 ∧ op.kind = .frd true ∧ op.dest = .s 6 ∧ KV.find G.pend (pendKey (.s 6) 0) = some 0 ∧
      KV.find G.pend (pendKey .stat 0) = some 0)) :=
  answered_of (by decide +kernel)

theorem witness_ResultDelivery_rwait : ∃ G op a,
    (let s := afterAll [.rwait false (.s 1) 3, .homeCounterWait 0 0 64] (withMem 0x1100 3 8 one)
     s.gang 0 = some G ∧ KV.find G.ops 0 = some op ∧ KV.find op.accs 64 = some a ∧ a.st = .performed ∧
    (a.orphan = false ∧ a.code < 256 ∧ op.kind = .rwait)) :=
  answered_of (by decide +kernel)

/-- The cell at 0x1100 FULL or EMPTY, and a read or a write of it on its way. -/
def future (i : Instr) (full : Bool) : State := after i { one with mem := one.mem.setFull 0x1100 full }

theorem witness_FutureAtHome_write : ∃ G op a key, (future (.fwr false (.s 2) (.s 1)) false).Arrives 0 0 64 G op a key ∧
    op.kind = .fwr ∧ (future (.fwr false (.s 2) (.s 1)) false).deferred = [] ∧
    (future (.fwr false (.s 2) (.s 1)) false).mem.isFull key = false :=
  atHome_of (by decide +kernel)

theorem witness_FutureAtHome_writeFull : ∃ G op a key, (future (.fwr false (.s 2) (.s 1)) true).Arrives 0 0 64 G op a key ∧
    op.kind = .fwr ∧ (future (.fwr false (.s 2) (.s 1)) true).mem.isFull key = true :=
  atHome_of (by decide +kernel)

theorem witness_FutureAtHome_read : ∃ G op a key, (future (.frdC false (.s 6) (.s 1)) true).Arrives 0 0 64 G op a key ∧
    G.st ≠ .killed ∧ op.kind = .frd true ∧ risingNat (future (.frdC false (.s 6) (.s 1)) true).mem.full = true ∧
    (future (.frdC false (.s 6) (.s 1)) true).mem.isFull key = true :=
  atHome_of (by decide +kernel)

theorem witness_FutureAtHome_readEmpty : (∃ G op a key, (future (.frd false (.s 6) (.s 1)) false).Arrives 0 0 64 G op a key ∧
    G.st ≠ .killed ∧ op.kind = .frd false ∧ (future (.frd false (.s 6) (.s 1)) false).mem.isFull key = false) ∧
    ∀ key, (future (.frd false (.s 6) (.s 1)) false).bufferRoom key = true :=
  ⟨atHome_of (by decide +kernel), fun key => by
    have h : (future (.frd false (.s 6) (.s 1)) false).deferred = [] := by decide +kernel
    unfold State.bufferRoom; rw [h]; rfl⟩

/-- A machine in whose slice of the home of `key` 64 requests are held. -/
def crowded (key : Nat) (s : State) : State :=
  { s with deferred := List.replicate 64 { g := 9, o := 0, k := 0, key := 8, slice := s.sliceOf key, kind := .frd false, n := 0, ext := none } }

theorem crowded_full (key : Nat) (s : State) : (crowded key s).bufferRoom key = false := by
  simp [State.bufferRoom, crowded, State.sliceOf]

theorem crowded_own (key : Nat) (s : State) : ∀ d ∈ (crowded key s).deferred, d.ext = none ∧ d.key = 8 := by
  intro d h
  cases List.eq_of_mem_replicate h
  exact ⟨rfl, rfl⟩

theorem witness_FutureAtHome_readCrowded :
    (∃ G op a key, (crowded 0x1100 (future (.frd false (.s 6) (.s 1)) false)).Arrives 0 0 64 G op a key ∧
      G.st ≠ .killed ∧ op.kind = .frd false ∧ key = 0x1100) ∧
    (crowded 0x1100 (future (.frd false (.s 6) (.s 1)) false)).mem.isFull 0x1100 = false ∧
    (crowded 0x1100 (future (.frd false (.s 6) (.s 1)) false)).bufferRoom 0x1100 = false ∧
    ∀ d ∈ (crowded 0x1100 (future (.frd false (.s 6) (.s 1)) false)).deferred, d.ext = none :=
  ⟨atHome_of (by decide +kernel), by decide +kernel, crowded_full _ _, fun d h => (crowded_own _ _ d h).1⟩

/-- A control block of a ring of 4 granules at 0x1100, of which 2 are claimed, and s2 = n. -/
def ring (n : Dword) (prod : List RingClaim) (i : Instr) : State :=
  let s := withS [(2, n)] (withMem 0x1108 4 4 (withMem 0x1110 2 8 one))
  after i { s with rings := [(0x1100, { prod := prod, cons := [] })] }

/-- What a request at a whole ring asks. -/
abbrev wholeRing (s : State) (key : Nat) : Prop :=
  (∀ d ∈ s.deferred, d.ext = none ∧ d.key ≠ key) ∧ s.mem.poisoned key 64 = false ∧ s.ringBad key = false ∧
    s.ringBroken key = false

theorem witness_RingAndCounterAtHome_claim :
    ∃ G op a key, (ring 2 [] (.rclaim false (.s 2) (.s 1))).Arrives 0 0 64 G op a key ∧
    G.st ≠ .killed ∧ wholeRing (ring 2 [] (.rclaim false (.s 2) (.s 1))) key ∧ op.kind = .rclaim ∧ a.data.toNat % 2 ^ 64 = 2 ∧
    2 ≤ (ring 2 [] (.rclaim false (.s 2) (.s 1))).mem.read (key + 8) 4 ∧
    (ring 2 [] (.rclaim false (.s 2) (.s 1))).mem.read (key + 0x10) 8 + 2 ≤
      (ring 2 [] (.rclaim false (.s 2) (.s 1))).mem.read (key + 0x28) 8 + 4 ∧
    ((ring 2 [] (.rclaim false (.s 2) (.s 1))).ringHome key).prod.length < 32 :=
  atHome_of (by decide +kernel)

theorem witness_RingAndCounterAtHome_claimWaits :
    (∃ G op a key, (ring 3 [] (.rclaim false (.s 2) (.s 1))).Arrives 0 0 64 G op a key ∧
      G.st ≠ .killed ∧ wholeRing (ring 3 [] (.rclaim false (.s 2) (.s 1))) key ∧ op.kind = .rclaim ∧
      (ring 3 [] (.rclaim false (.s 2) (.s 1))).mem.read (key + 0x28) 8 + 4 <
        (ring 3 [] (.rclaim false (.s 2) (.s 1))).mem.read (key + 0x10) 8 + a.data.toNat % 2 ^ 64) ∧
    ∀ key, (ring 3 [] (.rclaim false (.s 2) (.s 1))).bufferRoom key = true :=
  ⟨atHome_of (by decide +kernel), fun key => by
    have h : (ring 3 [] (.rclaim false (.s 2) (.s 1))).deferred = [] := by decide +kernel
    unfold State.bufferRoom; rw [h]; rfl⟩

theorem witness_RingAndCounterAtHome_claimRefused :
    (∃ G op a key, (crowded 0x1100 (ring 3 [] (.rclaim false (.s 2) (.s 1)))).Arrives 0 0 64 G op a key ∧
      G.st ≠ .killed ∧ op.kind = .rclaim ∧ key = 0x1100) ∧
    wholeRing (crowded 0x1100 (ring 3 [] (.rclaim false (.s 2) (.s 1)))) 0x1100 ∧
    (crowded 0x1100 (ring 3 [] (.rclaim false (.s 2) (.s 1)))).bufferRoom 0x1100 = false :=
  ⟨atHome_of (by decide +kernel),
    ⟨fun d h => ⟨(crowded_own _ _ d h).1, by rw [(crowded_own _ _ d h).2]; decide⟩, by decide +kernel, by decide +kernel,
      by decide +kernel⟩, crowded_full _ _⟩

/-- An await of ticket 0 on a ring of which 1 granule is committed. -/
def awaited : State :=
  afterAll [.rawait false (.s 6) (.s 1), .homeRingClaim 0 0 64] <| withS [(6, 1)] (withMem 0x1118 1 8 (withMem 0x1108 4 4 (withMem 0x1110 2 8 one)))

theorem witness_ResultDelivery_rawait : ∃ G op a,
    (awaited.gang 0 = some G ∧ KV.find G.ops 0 = some op ∧ KV.find op.accs 64 = some a ∧ a.st = .performed ∧
    (a.orphan = false ∧ a.code = 0 ∧ op.kind = .rawait ∧ op.dest = .s 6 ∧ KV.find G.pend (pendKey (.s 6) 0) = some 0 ∧
      KV.find G.pend (pendKey .stat 0) = some 0)) :=
  answered_of (by decide +kernel)

/-- A claim of 2 granules with ticket 0. -/
def claim0 : List RingClaim := [{ t := 0, n := 2, mark := false, gang := 0, sender := none }]

theorem witness_RingAndCounterAtHome_commit :
    ∃ G op a key, (ring 0 claim0 (.rcommit false (.s 2) (.s 1))).Arrives 0 0 64 G op a key ∧
    G.st ≠ .killed ∧ wholeRing (ring 0 claim0 (.rcommit false (.s 2) (.s 1))) key ∧ op.kind = .rcommit ∧ a.data.toNat % 2 ^ 64 = 0 ∧
    ((ring 0 claim0 (.rcommit false (.s 2) (.s 1))).ringHome key).prod = claim0 :=
  atHome_of (by decide +kernel)

theorem witness_RingAndCounterAtHome_resend :
    let s := withG (fun G => match G.acc 0 64 with | some p => G.setAcc 0 64 { p.2 with st := .refused } | none => G)
      (ring 3 [] (.rclaim false (.s 2) (.s 1)))
    ((s.gang 0).bind fun G => (G.acc 0 64).map fun p => p.2.st) = some .refused ∧ s.saving 0 = false := by decide +kernel

/-- `rwr` by lane 0 alone, to 0x1100, with its counter at 0x1200. -/
def remote : State := after (.rwr false (.v 3) (.s 1) (.s 6)) (withS [(6, 0x1200)] one)

theorem witness_RingAndCounterAtHome_rwr :
    ∃ G op a key, remote.Arrives 0 0 0 G op a key ∧ G.ops.length = 1 ∧ op.kind = .rwr ∧
    op.accs.map Prod.fst = [0, counterKey] ∧ (∀ p ∈ op.accs, p.2.st = .ready) ∧
    op.accs.map (fun p => p.2.place) = [some (.hbm 0x1100), some (.hbm 0x1200)] ∧
    (key + a.size ≤ 0x1200 ∨ 0x1200 + 8 ≤ key) ∧ remote.mem.poisoned 0x1200 8 = false ∧ remote.deferred = [] :=
  atHome_of (by decide +kernel)

theorem witness_RingAndCounterAtHome_rwait :
    ∃ G op a key, (after (.rwait false (.s 1) 3) (withMem 0x1100 3 8 one)).Arrives 0 0 64 G op a key ∧ op.kind = .rwait ∧
    G.st ≠ .saved ∧ G.st ≠ .killed ∧ (after (.rwait false (.s 1) 3) (withMem 0x1100 3 8 one)).mem.poisoned key 8 = false ∧
    a.data.toNat % 2 ^ 16 ≤ (after (.rwait false (.s 1) 3) (withMem 0x1100 3 8 one)).mem.read key 8 :=
  atHome_of (by decide +kernel)

theorem witness_RingAndCounterAtHome_rwaitWaits :
    ∃ G op a key, (after (.rwait false (.s 1) 3) (withMem 0x1100 2 8 one)).Arrives 0 0 64 G op a key ∧ op.kind = .rwait ∧
    G.st ≠ .saved ∧ G.st ≠ .killed ∧ (after (.rwait false (.s 1) 3) (withMem 0x1100 2 8 one)).mem.read key 8 < a.data.toNat % 2 ^ 16 ∧
    (after (.rwait false (.s 1) 3) (withMem 0x1100 2 8 one)).deferred = [] :=
  atHome_of (by decide +kernel)

theorem witness_RingAndCounterAtHome_nwait :
    ∃ G op a key, (after (.nwait false (.s 1) .zr) one).Arrives 0 0 64 G op a key ∧ op.kind = .nwait ∧ G.st ≠ .saved ∧
    G.queues = [] ∧ (∀ p ∈ G.ops, p.2.held = false) ∧ a.data.toNat % 2 ^ 64 ≤ (after (.nwait false (.s 1) .zr) one).mem.read key 8 :=
  atHome_of (by decide +kernel)

/-! ## Translation and held faults -/

/-- Context 0's tables at 0x10000 give the first 2 MiB of local addresses the flags `rwx` of a level 1 leaf with base 0. -/
def paged (rwx : Byte) (s : State := one) : State :=
  let s := s.setCtx 0 { s.ctx 0 with root := 0x10000 }
  { s with mem := { s.mem with bytes :=
      [(0x10000, 0x01), (0x10001, 0x10), (0x10002, 0x01), (0x11000, 0x01), (0x11001, 0x20), (0x11002, 0x01),
       (0x12000, 3 + rwx)] } }

theorem witness_TranslationEvents : (paged 28).walk 0 (pageAddr 2) =
      .leaf { base := 0x2000, noL1 := false, r := true, w := true, x := true, bits := 21 } ∧
    (paged 28).tlbHit 0 0 2 = none ∧ ((paged 28).core 0).tlb.length < 64 ∧ ((paged 28).bent (bentOf 0)).tlb.length < 2048 ∧
    (paged 28).waitersOf 0 0 2 = [] := by decide +kernel

/-- A load of an address in page 2 that its core has no entry for. -/
def missing (s : State) : State := after (.ldw false (.v 4) (.s 8) .zr) (withS [(8, 0x2100)] s)

theorem witness_TranslationEvents_waiter : (missing (paged 4)).walk 0 (pageAddr 2) =
      .leaf { base := 0x2000, noL1 := false, r := true, w := false, x := false, bits := 21 } ∧
    (missing (paged 4)).tlbHit 0 0 2 = none ∧ (missing (paged 4)).waitersOf 0 0 2 = [(0, 0, 0)] ∧
    (((missing (paged 4)).gang 0).bind fun G => (G.acc 0 0).map fun p => (p.1.kind, G.pageFault p.1.slices 0 p.2.va)) =
      some (.load, none) := by decide +kernel

theorem witness_TranslationEvents_perm : (missing (paged 8)).walk 0 (pageAddr 2) =
      .leaf { base := 0x2000, noL1 := false, r := false, w := true, x := false, bits := 21 } ∧
    (missing (paged 8)).waitersOf 0 0 2 = [(0, 0, 0)] := by decide +kernel

theorem witness_TranslationEvents_fault : (missing one).walk 0 (pageAddr 2) = .fault causeTrans ∧
    (missing one).waitersOf 0 0 2 = [(0, 0, 0)] := by decide +kernel

theorem witness_TranslationEvents_invalidate : 0x12000 % 8 = 0 ∧ 0x12000 < 2 ^ 52 := by decide

/-- Its split is at an address that nothing maps. -/
def lost : State := withG (fun G => { G with splits := G.splits.map fun p => (p.1, { p.2 with pc := 0x5000 }) }) one

/-- Its split has parked on the fault of a load, reported to the device OS. -/
def parked : State := afterAll [.ldw true (.v 4) (.s 8) .zr, .tableWalkComplete 0 0 2] (withS [(8, 0x2100)] one)

/-- Gang 0 and its split 0, and a condition on them. -/
def splitIn (s : State) (P : Gang → Split → Bool) : Bool :=
  match s.gang 0 with
  | some G =>
    match KV.find G.splits 0 with
    | some sp => P G sp
    | none => false
  | none => false

theorem splitIn_of {s : State} {P : Gang → Split → Prop} [∀ G sp, Decidable (P G sp)]
    (h : splitIn s (fun G sp => decide (P G sp)) = true) :
    ∃ G sp, s.gang 0 = some G ∧ KV.find G.splits 0 = some sp ∧ P G sp := by
  unfold splitIn at h
  split at h
  · split at h
    · exact ⟨_, _, ‹_›, ‹_›, of_decide_eq_true h⟩
    · cases h
  · cases h

theorem witness_FaultService_fetch : ∃ G sp, lost.gang 0 = some G ∧ KV.find G.splits 0 = some sp ∧ G.mayIssue 0 sp = true ∧
    lost.fetch G sp.pc = .miss ∧ lost.walk G.ctx sp.pc = .fault causeTrans :=
  splitIn_of (by decide +kernel)

theorem witness_FaultService_park : ∃ G sp, parked.gang 0 = some G ∧ KV.find G.splits 0 = some sp ∧ G.st = .resident ∧
    sp.st = .faultpark ∧ sp.toOs = true ∧ (parked.ctx G.ctx).st ≠ .draining ∧
    G.ops.length = 1 ∧ (∀ p ∈ G.ops, p.2.kind = .load ∧ p.2.mat = none ∧ p.2.held = false ∧ p.2.slices = sp.slices ∧
      p.2.accs.length = 1 ∧ ∀ a ∈ p.2.accs, a.2.st = .fault causeTrans ∧ a.2.va = 0x2100) ∧ sp.slices ≠ 0 ∧
    (∀ p ∈ G.ops, ∀ a ∈ p.2.accs, G.owns sp.slices a.2 = true) ∧ G.trap = none ∧ sp.wait = .marker ∧
    localWindow 0x2100 = none ∧ (0x2100 : Dword).extractLsb' 60 3 = 0 ∧ (0x2100 : Dword).extractLsb' 48 12 = parked.node :=
  splitIn_of (by decide +kernel)

theorem witness_FaultService_mapped : ∃ G sp,
    (let s := parked.setCore 0 { parked.core 0 with tlb := KV.set (parked.core 0).tlb (tlbKey 0 2) fetchLeaf }
     s.gang 0 = some G ∧ KV.find G.splits 0 = some sp ∧
     ((s.tlbHit G.core G.ctx (vpnOf 0x2100)).map Leaf.r) = some true) :=
  splitIn_of (by decide +kernel)

/-! ## Timed events -/

/-- Its split waits at barrier 0, 40,000 strikes after the first arrival. -/
def late : State :=
  (after (.bar false (.m 1) (.s 9) 0) arriving).modGroup 0 fun gr =>
    { gr with barriers := gr.barriers.map fun p => (p.1, { p.2 with strikes := 40000 }) }

theorem witness_TimedEvents_barrier : ∃ G sp, late.gang 0 = some G ∧ KV.find G.splits 0 = some sp ∧
    ((late.group 0).any fun Gr => (KV.find late.launches Gr.launch).any fun L =>
      (Gr.barrier 0).arrived ≠ [] && decide (L.params.timeout < (Gr.barrier 0).strikes) && Gr.gangs == [0]) = true ∧
    G.splits = [(0, sp)] ∧ sp.st = .barwait ∧ sp.wait = .bar 0 ∧ G.st = .resident :=
  splitIn_of (by decide +kernel)

/-- A machine whose split 0 stands as given. -/
def withSplit (st : SplitState) (w : Wait) (s : State := W) : State :=
  withG (fun G => { G with splits := G.splits.map fun p => (p.1, { p.2 with st := st, wait := w }) }) s

/-- The claim of 20 granules of a pool of 22 waits. -/
def claiming : State := (withSplit .claimwait (.claim 20) given).modGroup 0 fun gr => { gr with claims := [(0, 0)] }

theorem witness_TimedEvents_claim : ∃ G sp, claiming.gang 0 = some G ∧ KV.find G.splits 0 = some sp ∧
    ((claiming.group 0).any fun Gr => Gr.claims == [(0, 0)] && claiming.claimRun Gr 20 == some 260) = true ∧
    G.claimOver 20 = false ∧ sp.wait = .claim 20 :=
  splitIn_of (by decide +kernel)

theorem witness_TimedEvents_fsc : ∃ G sp,
    (withSplit .segwait (.fscEdge true true)).gang 0 = some G ∧ KV.find G.splits 0 = some sp ∧ sp.wait = .fscEdge true true :=
  splitIn_of (by decide +kernel)

theorem witness_TimedEvents_sysc : (∃ G sp,
    (withSplit .evwait (.sysc 7 true)).gang 0 = some G ∧ KV.find G.splits 0 = some sp ∧ sp.wait = .sysc 7 true) ∧
    ([((0 : Fin 6), (5 : Dword)), (5, 6)].map Prod.fst).Nodup :=
  ⟨splitIn_of (by decide +kernel), by decide⟩

/-- Split 1 waits in REGANG and the watchdog is at its limit. -/
def overdue : State :=
  { (withG fun G => { G with
      limit := 5, wd := 5
      splits := G.splits.flatMap fun p =>
        [(0, { p.2 with slices := 0x0F }), (1, { p.2 with slices := 0xF0, st := .regang, wait := .regang })] }) with
    mem := (State.withFetchWord State.reset 32 0x03E90002).mem }

set_option maxRecDepth 4000 in
theorem witness_TimedEvents_watchdog : (∃ G sp, overdue.gang 0 = some G ∧ KV.find G.splits 0 = some sp ∧
    overdue.cur = some (0, 0) ∧ overdue.fetch G sp.pc = .word 0x03E90002 ∧ G.mayIssue 0 sp = true ∧
    G.watchdogDue (.brnz false (.m 1) 2) = true) ∧ decode 0x03E90002 = .ok (.brnz false (.m 1) 2) :=
  ⟨splitIn_of (by decide +kernel), rfl⟩

/-- Launch 0 is the head unit of queue 3 of context 0 and waits for a counter at 0x1100 to reach 4. -/
def awaiting : State :=
  let s : State := { W with launches := W.launches.map fun p => (p.1, { p.2 with events := [{ key := 0x1100, thr := 4, sat := false }] }) }
  s.setCtx 0 { s.ctx 0 with queues := [(3, { enable := true, cls := 0, quantum := 1024, deficit := 0, units := [0] })] }

theorem witness_TimedEvents_wait : awaiting.headUnit 0 3 = some 0 ∧
    ((KV.find awaiting.launches 0).bind fun L => L.events[0]?) = some { key := 0x1100, thr := 4, sat := false } := by
  decide +kernel

theorem witness_TimedEvents_strike :
    ((W.group 0).map fun Gr => (Gr.retired, Gr.saved)) = some (false, false) := by decide +kernel

/-! ## Retirement, placement, tasks, ridge registers -/

/-- Two gangs of one group, the first RETIRING. -/
def pairOf : State :=
  match W.gang 0 with
  | some G =>
    ((W.setGang 1 { G with idx := 1 }).setGang 0 { G with st := .retiring }).modGroup 0 fun gr => { gr with gangs := [0, 1] }
  | none => W

/-- What a gang that can retire has left. -/
def mayRetire (s : State) (P : Gang → Group → Bool) : Bool :=
  match s.gang 0 with
  | some G =>
    match s.group G.group with
    | some gr => decide (G.st = .retiring ∧ G.unacked = 0 ∧ G.engineIdle = true ∧ gr.saved = false ∧ gr.claims = []) && P G gr
    | none => false
  | none => false

theorem mayRetire_of {s : State} {P : Gang → Group → Prop} [∀ G gr, Decidable (P G gr)]
    (h : mayRetire s (fun G gr => decide (P G gr)) = true) :
    ∃ G gr, s.gang 0 = some G ∧ s.group G.group = some gr ∧
      (G.st = .retiring ∧ G.unacked = 0 ∧ G.engineIdle = true ∧ gr.saved = false ∧ gr.claims = []) ∧ P G gr := by
  unfold mayRetire at h
  split at h
  · split at h
    · simp only [Bool.and_eq_true, decide_eq_true_eq] at h
      exact ⟨_, _, ‹_›, ‹_›, h⟩
    · cases h
  · cases h

theorem witness_RetireAndPlace_gang : ∃ G gr, pairOf.gang 0 = some G ∧ pairOf.group G.group = some gr ∧
    (G.st = .retiring ∧ G.unacked = 0 ∧ G.engineIdle = true ∧ gr.saved = false ∧ gr.claims = []) ∧
    gr.gangs = [0, 1] ∧ (∀ h ∈ gr.gangs, (pairOf.gang h).all (fun H => H.quadOp == none) = true) ∧
    (pairOf.gang 1).any (fun H => H.st != .retired) = true :=
  mayRetire_of (by decide +kernel)

/-- Its only gang is RETIRING. -/
def leaving : State := withG fun G => { G with st := .retiring }

theorem witness_RetireAndPlace_group : ∃ G gr, leaving.gang 0 = some G ∧ leaving.group G.group = some gr ∧
    (G.st = .retiring ∧ G.unacked = 0 ∧ G.engineIdle = true ∧ gr.saved = false ∧ gr.claims = []) ∧
    gr.gangs = [0] ∧ leaving.groups = [(G.group, gr)] ∧ (KV.find leaving.launches gr.launch).any (fun L => !L.task) = true :=
  mayRetire_of (by decide +kernel)

/-- A launch of one group, or of frames of two groups, waits in queue 0 of context 0, and nothing is placed. -/
def queued (frame : Bool) : State :=
  let L := fetchLaunch 0
  let levels := if frame then L.params.levels ++ [{ domain := 4, scope := .bent, extent := 2 }] else L.params.levels
  let s := { State.reset with launches := [(0, { L with placed := 0, params := { L.params with levels := levels } })], nextLaunch := 1 }
  s.setCtx 0 { s.ctx 0 with
    created := true, st := .live, deficit := 10
    queues := [(0, { enable := true, cls := 0, quantum := 1024, deficit := 10, units := [0] })] }

/-- What the placement of its next unit asks. -/
def mayPlace (s : State) (n : Nat) : Bool :=
  (s.mgmt.role == none) && s.ctxs.length == 1 && s.ctxs.all (fun p => p.1 == 0 && p.2.st == .live && decide (0 < p.2.deficit) &&
    p.2.queues.length == 1 && p.2.queues.all fun q => q.1 == 0 && decide (0 < q.2.deficit)) && (s.savedOf 0).isEmpty &&
    match s.eligibleHead 0 0 with
    | some (l, L) => l == 0 && L.ctx == 0 && L.params.queue == 0 && (s.unitFit L).any fun cores => cores.length == n
    | none => false

theorem witness_RetireAndPlace_place : mayPlace (queued false) 1 = true ∧ mayPlace (queued true) 2 = true := by decide +kernel

/-- A spawn of lane 0 with its record in v16 and on: the entry, and the flags. -/
def spawning (entry flags : Word) : State :=
  withV 16 (fun _ => entry) (withV 27 (fun _ => flags) (withSplit .evwait (.spawn 16 1 0 0)))

/-- What an answer to its record asks. -/
theorem witness_TaskAndRidgeEvents_malformed : ∃ G sp, (spawning 0x1000 0x10).gang 0 = some G ∧ KV.find G.splits 0 = some sp ∧
    sp.wait = .spawn 16 1 0 0 ∧ (1 : Word).getLsbD 0 = true ∧ G.released sp.slices .chip G.nextOp = true ∧ G.st ≠ .saved ∧
    (G.taskRec 16 0).malformed = true :=
  splitIn_of (by decide +kernel)

theorem witness_TaskAndRidgeEvents_disabled : ∃ G sp, (spawning 0x1000 0x300).gang 0 = some G ∧ KV.find G.splits 0 = some sp ∧
    sp.wait = .spawn 16 1 0 0 ∧ G.released sp.slices .chip G.nextOp = true ∧ (G.taskRec 16 0).malformed = false ∧
    (((spawning 0x1000 0x300).ctx G.ctx).queue (G.taskRec 16 0).queue).enable = false :=
  splitIn_of (by decide +kernel)

/-- Queue 3 is enabled. -/
def opened : State :=
  let s := spawning 0x1000 0x300
  s.setCtx 0 { s.ctx 0 with queues := [(3, { enable := true, cls := 0, quantum := 1024, deficit := 0, units := [] })] }

theorem witness_TaskAndRidgeEvents_accept : ∃ G sp, opened.gang 0 = some G ∧ KV.find G.splits 0 = some sp ∧
    sp.wait = .spawn 16 1 0 0 ∧ G.released sp.slices .chip G.nextOp = true ∧ (G.taskRec 16 0).malformed = false ∧
    ((opened.ctx G.ctx).queue (G.taskRec 16 0).queue).enable = true ∧ opened.queuedTasks G.ctx < 8192 ∧
    (opened.newTask 0 G 0 (G.taskRec 16 0)).isSome = true :=
  splitIn_of (by decide +kernel)

/-- A task of tag 7 stands in a queue, and its removal is on its way. -/
def removing : State :=
  { opened with
    launches := opened.launches ++ [(1, { fetchLaunch 0 with task := true, tag := some 7, placed := 0 })]
    removals := [{ ctx := 0, tag := 7 }] }

theorem witness_TaskAndRidgeEvents_removal : removing.removals[0]? = some { ctx := 0, tag := 7 } ∧
    KV.sorted removing.launches = true ∧
    (KV.find removing.launches 1).map (fun L => (L.task, L.ctx, L.placed, L.tag)) = some (true, 0, 0, some 7) := by
  decide +kernel

/-- A value for ridge register 2, a minimum at 100, on its way; core 0 has a copy of it. -/
def offered (v : Word) (d : RidgeDest) : State :=
  { ridged.setCore 0 { ridged.core 0 with ridge := [(2, 100)] } with ridgeMsgs := [{ ctx := 0, k := 2, val := v, dest := d }] }

theorem witness_TaskAndRidgeEvents_ridge :
    (offered 100 .offer).ridgeMsgs[0]? = some { ctx := 0, k := 2, val := 100, dest := .offer } ∧
    decide ((100 : Word).toInt < (((offered 100 .offer).ctx 0).ridge 2).val.toInt) = false ∧
    decide ((99 : Word).toInt < (((offered 99 .offer).ctx 0).ridge 2).val.toInt) = true ∧
    (((offered 99 .offer).ctx 0).ridge 2).cfg.enable = true ∧ (((offered 99 .offer).ctx 0).ridge 2).cfg.isMax = false ∧
    (((offered 99 .offer).ctx 0).ridge 2).cfg.system = false ∧
    KV.find ((offered 99 (.copy 0)).core 0).ridge (0 * 16 + 2) = some 100 := by decide +kernel

theorem witness_TaskAndRidgeEvents_configure : ((queued false).ctx 0).created = true ∧ (queued false).groups = [] := by
  decide +kernel

/-! ## Matrix pipe and engines -/

/-- The one outstanding instruction of gang 0 is a matrix instruction, and a condition holds. -/
def multiplying (s : State) (P : Gang → Op → Mat → Bool) : Bool :=
  match s.gang 0 with
  | some G =>
    match G.ops with
    | [(0, op)] =>
      match op.mat with
      | some m => !m.done && P G op m
      | none => false
    | _ => false
  | none => false

theorem multiplying_of {s : State} {P : Gang → Op → Mat → Prop} [∀ G op m, Decidable (P G op m)]
    (h : multiplying s (fun G op m => decide (P G op m)) = true) :
    ∃ G op m, s.gang 0 = some G ∧ G.ops = [(0, op)] ∧ op.mat = some m ∧ m.done = false ∧ P G op m := by
  unfold multiplying at h
  split at h
  · split at h
    · split at h
      · simp only [Bool.and_eq_true, Bool.not_eq_true', decide_eq_true_eq] at h
        exact ⟨_, _, _, ‹_›, ‹_›, ‹_›, h.1, h.2⟩
      · cases h
    · cases h
  · cases h

/-- A matrix instruction in the pipe, its block not of type FP64 or CF32, uncompensated. -/
abbrev inPipe (op : Op) (m : Mat) (kind : MatKind) : Prop :=
  op.accs = [] ∧ m.waited = none ∧ m.kind = kind ∧
    (Fb.ofBytes m.fb).any (fun f => !f.hasLo m.comp && f.wC == 1 && f.a.t != .cf32 && f.a.t != .fp64) = true

theorem witness_MatrixEvents_zero : ∃ G op m, (after (.mzero false (.v 0) (.s 6)) (tiled false)).gang 0 = some G ∧
    G.ops = [(0, op)] ∧ op.mat = some m ∧ m.done = false ∧ inPipe op m .mzero ∧ m.rows.getLsbD 0 = true ∧
    m.rows.getLsbD 31 = false :=
  multiplying_of (by decide +kernel)

theorem witness_MatrixEvents_multiply : ∃ G op m,
    (after (.mma false (.v 0) (.v 16) (.s 6)) (tiled false)).gang 0 = some G ∧
    G.ops = [(0, op)] ∧ op.mat = some m ∧ m.done = false ∧ inPipe op m .mma ∧ m.rows.getLsbD 0 = true ∧ 0 < m.n :=
  multiplying_of (by decide +kernel)

/-- A quad instruction has waited 40,000 strike edges for its partners. -/
def lonely : State :=
  withG (fun G => { G with ops := G.ops.map fun p =>
      (p.1, { p.2 with mat := p.2.mat.map fun m => { m with waited := some 40000 } }) })
    (after (.mma false (.v 0) (.v 16) (.s 6)) quad4)

theorem witness_MatrixEvents_timeout : ∃ G op m, lonely.gang 0 = some G ∧ G.ops = [(0, op)] ∧ op.mat = some m ∧ m.done = false ∧
    op.accs = [] ∧ m.waited = some 40000 ∧ (lonely.params G).any (fun p => decide (p.timeout < 40000)) = true ∧
    G.splits.map (fun p => (p.1, p.2.wait, p.2.st)) = [(0, .quad, .evwait)] :=
  multiplying_of (by decide +kernel)

/-- A copy of 16 bytes from 0x1200 to 0x1100 runs, with what is given moved, stopped, declined. -/
def copyRuns (moved stopped declined : List (Nat × Nat)) : State :=
  withG (fun G => { G with copies := G.copies.map fun p =>
      (p.1, { p.2 with moved := moved, stopped := stopped, declined := declined }) })
    (after (.cpy false (.s 10) (.s 4) (.s 6)) (copying 0x1100 0x1200 16))

/-- `finds` of the statement, for n bytes from key b and to key c, in order. -/
def findsAt (s : State) (G : Gang) (n : Nat) (src dst : Dword) (b c : Nat) : Bool :=
  (List.range n).all fun i =>
    decide (s.engineByte 0 G (src + BitVec.ofNat 64 i) false = (.inl (b + i), s)) &&
      decide (s.engineByte 0 G (dst + BitVec.ofNat 64 i) true = (.inl (c + i), s)) && !s.mem.poisoned (b + i) 1

/-- A copy of gang 0, and a condition. -/
def copyIn (s : State) (h : Nat) (P : Gang → Copy → Bool) : Bool :=
  match s.gang 0 with
  | some G =>
    match KV.find G.copies h with
    | some c => P G c
    | none => false
  | none => false

theorem copyIn_of {s : State} {h : Nat} {P : Gang → Copy → Prop} [∀ G c, Decidable (P G c)]
    (e : copyIn s h (fun G c => decide (P G c)) = true) : ∃ G c, s.gang 0 = some G ∧ KV.find G.copies h = some c ∧ P G c := by
  unfold copyIn at e
  split at e
  · split at e
    · exact ⟨_, _, ‹_›, ‹_›, of_decide_eq_true e⟩
    · cases e
  · cases e

theorem witness_EngineEvents_copy : ∃ G c, (copyRuns [] [] []).gang 0 = some G ∧ KV.find G.copies 1 = some c ∧ G.st ≠ .saved ∧
    4 + 4 ≤ c.len ∧ c.dst.toNat + c.len ≤ 2 ^ 64 ∧ G.released c.slices .chip c.before = true ∧
    findsAt (copyRuns [] [] []) G 4 (c.src + 4) (c.dst + 4) 0x1204 0x1104 = true ∧
    c.moved = [] ∧ c.stopped = [] ∧ c.declined = [] :=
  copyIn_of (by decide +kernel)

theorem witness_EngineEvents_complete : ∃ G c, (copyRuns [(0, 16)] [] []).gang 0 = some G ∧ KV.find G.copies 1 = some c ∧
    c.moved = [(0, c.len)] ∧ c.declined = [] ∧ G.released c.slices .chip c.before = true :=
  copyIn_of (by decide +kernel)

theorem witness_EngineEvents_declined : ∃ G c, (copyRuns [] [] [(0, 16)]).gang 0 = some G ∧ KV.find G.copies 1 = some c ∧
    c.moved = [] ∧ c.declined = [(0, c.len)] ∧ G.released c.slices .chip c.before = true ∧
    (copyRuns [] [] [(0, 16)]).deferred = [] :=
  copyIn_of (by decide +kernel)

theorem witness_EngineEvents_stopped : ∃ G c, (copyRuns [] [(0, 16)] []).gang 0 = some G ∧ KV.find G.copies 1 = some c ∧
    c.stopped ≠ [] :=
  copyIn_of (by decide +kernel)

/-- A gather of two 4-byte elements, indices at 0x1300, destination 0x1400, from a table at 0x1200. -/
def gathers (moved : List (Nat × Nat)) : State :=
  bound 1 [{ req 0x1500 [0x1300, 0x1400, 0x200000002, 0] true with moved := moved }]

theorem witness_EngineEvents_gather :
    (((gathers []).gang 0).any fun G =>
      (G.queue 0).engine == 1 && ((G.queue 0).running[0]?).any fun r =>
        let t := gatherOf r.tag r.words
        decide (1 < t.count) && t.size == 4 && r.moved.isEmpty && r.stopped.isEmpty && r.declined.isEmpty &&
          G.released r.slices .chip r.before &&
          decide ((gathers []).engineRead 0 G (t.index + BitVec.ofNat 64 (4 * 1)) 4 = (.inl [0, 0, 0, 0], gathers [])) &&
          findsAt (gathers []) G 4 ((G.queue 0).base + BitVec.ofNat 64 (t.size * leNat [0, 0, 0, 0]))
            (t.dst + BitVec.ofNat 64 (t.size * 1)) 0x1200 0x1404) = true := by decide +kernel

theorem witness_EngineEvents_gatherComplete :
    (((gathers [(0, 2)]).gang 0).any fun G =>
      (G.queue 0).engine == 1 && match (G.queue 0).reqs with
      | [r] => r.st == .queued && r.declined.isEmpty && r.moved == [(0, (gatherOf r.tag r.words).count)]
      | _ => false) = true := by decide +kernel

/-! ## Contexts -/

/-- Context 0 in a state, created. -/
def inState (st : CtxState) (s : State := State.reset) : State := s.setCtx 0 { s.ctx 0 with created := true, st := st, deadline := 3 }

theorem witness_ContextEvents_create : (0 : Nat) < 64 ∧
    (let p : CtxParams := { root := 0x1000, threshold := 64, deadline := 2 ^ 32 - 1, saveAddr := 0, saveSize := 0, quantum := 1024 }
     p.root % 4096 = 0 ∧ 1 ≤ p.threshold ∧ p.threshold ≤ 64 ∧ p.deadline < 2 ^ 32 ∧ 1024 ≤ p.quantum ∧ p.quantum < 2 ^ 32) := by
  decide +kernel

theorem witness_ContextEvents_states :
    (((inState .free).ctx 0).created = true ∧ ((inState .free).ctx 0).st = .free) ∧ ((inState .live).ctx 0).st = .live ∧
      ((inState .draining).ctx 0).st = .draining ∧ (inState .draining).groups = [] ∧ ((inState .out).ctx 0).st = .out ∧
      (inState .out).mgmt.role = none ∧ (inState .out).savedOf 0 = [] ∧ ((inState .killing).ctx 0).st = .killing ∧
      (inState .killing).gangs = [] ∧ (inState .killing).deferred = [] ∧ (inState .killing).fabric.packets = [] ∧
      (inState .killing).fabric.held = [] ∧ (inState .killing).ridgeMsgs = [] ∧ (inState .killing).removals = [] := by decide +kernel

/-- Context 0 has drained for 3 strikes with a gang of its own. -/
def overtime : State := { inState .draining W with strike := 3 }

theorem witness_ContextEvents_kill : (overtime.ctx 0).st = .draining ∧ (overtime.ctx 0).deadline ≠ 0 ∧
    (overtime.ctx 0).drainAt + (overtime.ctx 0).deadline ≤ overtime.strike.toNat ∧ KV.sorted overtime.gangs = true ∧
    overtime.gangs ≠ [] ∧ ∀ p ∈ overtime.gangs, p.2.ctx = 0 := by decide +kernel

/-- Its gang has parked, or its group is being saved and its gang has nothing outstanding. -/
def saving (now : Bool) : State :=
  (inState .draining (if now then W else parked)).modGroup 0 fun gr => { gr with saving := now }

/-- What the two steps of its saving ask. -/
def maySave (s : State) (P : Group → Gang → Bool) : Bool :=
  (s.ctx 0).st == .draining && match s.group 0 with
  | some Gr => Gr.ctx == 0 && !Gr.retired && !Gr.saved && Gr.frame.isNone && Gr.gangs == [0] && (s.gang 0).any (P Gr)
  | none => false

theorem witness_ContextEvents_save :
    maySave (saving false) (fun Gr G => !Gr.saving && G.splits.any fun p => p.2.st == .faultpark) = true ∧
      maySave (saving true) (fun Gr G => Gr.saving && G.ops.isEmpty && G.copies.isEmpty && G.queues.isEmpty &&
        G.st == .resident) = true ∧
      (saving false).deferred = [] ∧ (saving true).deferred = [] := by decide +kernel

theorem witness_ContextEvents_configure : ((inState .free).ctx 0).created = true ∧
    (((inState .free).ctx 0).queue (3 : Fin 32).val).units = [] ∧ (inState .free).groups = [] ∧
    ((inState .free).ctxs.map fun p => if p.1 = 0 then 0 else p.2.carve).sum + 256 + 512 ≤
      (match (inState .free).profile with | .c2m2 => 960 | .c3m1 => 864 | .c1m3 => 1056) := by decide +kernel

/-! ## The host link -/

/-- A booted device, attached or not. -/
def booted (attached : Bool) : State :=
  { State.reset with hostif := { State.reset.hostif with ready := true, attached := attached, accept := 0xF, feat := if attached then 0xF else 0 } }

theorem witness_HostEvents_attach : (booted false).hostif.ready = true ∧ (booted false).hostif.attached = false ∧
    (booted false).fabric.ports = 0 ∧ (booted false).hostif.accept &&& ~~~0x4F#256 = 0 ∧
    (booted false).hostif.accept.getLsbD 2 = true ∧ State.reset.hostif.ready = false ∧ (0x10#256 &&& ~~~0x4F#256 ≠ 0) := by decide +kernel

theorem witness_HostEvents_detach : (booted true).hostif.ready = true ∧ (booted true).hostif.attached = true ∧
    (booted true).ctxs = [] ∧ ∃ p ∈ (inState .out (booted true)).ctxs, p.2.st = .out := by
  refine ⟨by decide +kernel, by decide +kernel, by decide +kernel, ?_⟩
  exact ⟨(0, (inState .out (booted true)).ctx 0), by decide +kernel, by decide +kernel⟩

/-- Completion ring 0 of 4 records with one waiting. -/
def completing : State :=
  (booted true).setCompRing 0
    { base := 0x1000, size := 4, tail := 3, head := 0, vec := 5
      waiting := [{ head := 7, queue := 2, status := 0, inc := 0, strike := 9 }] }

theorem witness_HostEvents_completion : completing.hostif.ready = true ∧ completing.hostif.attached = true ∧
    (completing.compRing 0).waiting ≠ [] ∧ (completing.compRing 0).tail - (completing.compRing 0).head < (completing.compRing 0).size ∧
    (completing.compRing 0).tail ≠ (completing.compRing 0).head ∧ ((booted true).compRing 0).tail = ((booted true).compRing 0).head := by
  decide +kernel

/-- Host memory as bytes that are not 0. -/
def hosting (l : List Host.Cell) (head tail : Word) (s : State) : State :=
  { s.setHostQueue 0 0 { HostQueue.init with base := 0, size := 4, head := head, tail := tail } with host := { Memory.empty with bytes := l } }

/-- A launch record of version 3 with one gang of one slice in slot 0: levels 0 to 3, entry and handler, 16 registers. -/
def record : List Host.Cell :=
  [(0, 3), (6, 4), (0x09, 0x10), (0x11, 0x20), (0x18, 16), (0x1D, 1), (0x40, 1), (0x48, 4), (0x4C, 1), (0x50, 1), (0x54, 2),
   (0x58, 1), (0x5C, 3), (0x5D, 1), (0x80, 1), (0x84, 1), (0x88, 1), (0x8C, 1)]

/-- Queue 0 of context 0 is enabled and holds a host queue with one record. -/
def submitting (l : List Host.Cell) : State :=
  let s := inState .live (hosting l 0 1 (booted true))
  s.setCtx 0 { s.ctx 0 with queues := [(0, { enable := true, cls := 0, quantum := 1024, deficit := 0, units := [] })] }

/-- What the taking of a record asks. -/
abbrev takes (s : State) : Prop :=
  s.hostif.ready = true ∧ s.hostif.attached = true ∧ (s.hostQueue 0 0).stopped = false ∧
    (s.hostQueue 0 0).head ≠ (s.hostQueue 0 0).tail ∧ (s.hostQueue 0 0).copy = none ∧ (s.ctx 0).st ≠ .free ∧ (s.ctx 0).st ≠ .killing

theorem witness_HostEvents_take : takes (submitting record) ∧ takes (submitting []) ∧ (submitting []).host.read 0 2 = 0 ∧
    (match (submitting record).tick.judgeRecord 0 0 0 { num := (submitting record).host.read 0 256 } with
     | .launch L => L.ctx == 0 && L.params.queue == 0
     | _ => false) = true := by decide +kernel

theorem witness_HostEvents_doorbell :
    let Q := (submitting []).hostQueue 0 0
    (submitting []).hostif.attached = true ∧ Q.size < (5 : Word) - Q.head ∧ ¬(Q.size < (4 : Word) - Q.head) ∧
      Q.head ≠ Q.tail ∧ ((booted true).hostQueue 0 0).head = ((booted true).hostQueue 0 0).tail := by decide +kernel

/-- A host copy of 16 bytes between 0x40 of host memory and address 0x2100 is under way. -/
def transferring (toHost : Bool) : State :=
  let bytes : List Byte := (List.range 256).map fun j =>
    if j = 1 then 1 else if j = 2 ∧ toHost then 1 else if j = 8 then 0x40 else if j = 0x11 then 0x21 else if j = 0x18 then 16 else 0
  let s := inState .live (paged 28 (hosting [] 1 1 (booted true)))
  s.setHostQueue 0 0 { s.hostQueue 0 0 with copy := some (bytes, 1) }

theorem witness_HostEvents_copy :
    (∀ b : Bool, ((transferring b).hostQueue 0 0).copy.any (fun c => c.2 == ((transferring b).hostQueue 0 0).head &&
      field c.1 0x10 8 == 0x2100 && field c.1 8 8 == 0x40 && field c.1 0x18 8 == 16 && (field c.1 2 2 % 2 == 1) == b) = true ∧
      (transferring b).launches = [] ∧ (transferring b).deferred = [] ∧
      (transferring b).tick.walk 0 0x2100 = .leaf { base := 0x2000, noL1 := false, r := true, w := true, x := true, bits := 21 } ∧
      (transferring b).mem.poisoned 0x2100 16 = false) ∧ 16 ≤ 32 - ((0x2100 : Dword).extractLsb' 0 5).toNat := by decide +kernel

/-! ## The network -/

/-- A network request on queue register 0, its local counter at 0x1200. -/
def sends (words : List Dword) (s : State → State := id) : State := s (bound 2 [req 0 words false])

/-- What the performing of its request asks, for n bytes from key b and to key c. -/
def maySend (s : State) (n : Nat) (src dst : Dword) (b c : Nat) : Bool :=
  s.deferred.isEmpty && (s.gang 0).any fun G =>
    (G.queue 0).engine == 2 && (match (G.queue 0).reqs with
      | [r] => r.st == .queued && !r.refused && !r.pops && r.fault.isNone && r.moved.isEmpty && r.stopped.isEmpty &&
          r.declined.isEmpty && (s.flying 0 0 r.id).isEmpty && G.released r.slices .sys r.before && !(r.words.getD 0 0).getLsbD 24
      | _ => false) &&
      decide (s.engineByte 0 G ((G.queue 0).base + 0) true = (.inl 0x1200, s)) && !s.mem.poisoned 0x1200 8 &&
      findsAt s G n src dst b c && decide (c + n ≤ 0x1200)

theorem witness_NetworkRequests_own :
    maySend (sends [0, 0x1100, 0x1122334455667788]) 8 0x1300 0x1100 0x1300 0x1100 = true ∧
      maySend (sends [0x400000001, 0x1100, 0x1300]) 4 0x1300 0x1100 0x1300 0x1100 = true ∧
      maySend (sends [0x400000002, 0x1300, 0x1100]) 4 0x1300 0x1100 0x1300 0x1100 = true := by decide +kernel

/-- Module 1 is present and the fabric is up. -/
def linked (s : State) : State :=
  { s with
    fabric := { s.fabric with ports := 1, present := [1], aligned := true }
    hostif := { s.hostif with feat := 0x14 } }

/-- An exchange of one element of 4 bytes with module 1, in a job: its own credit has not gone, has gone, or everything is
acknowledged. -/
def exchanging (st : ReqSt) (moved : List (Nat × Nat)) : State :=
  let s := linked (bound 2 [{ req 0 [3, 0x1100, 0x200000001] false with st := st, moved := moved }])
  s.setCtx 0 { s.ctx 0 with job := some 9 }

/-- What its next event asks. -/
def mayExchange (s : State) (st : ReqSt) (moved : List (Nat × Nat)) : Bool :=
  s.deferred.isEmpty && ((s.ctx 0).job == some 9) && s.reachable 1 && (s.gang 0).any fun G =>
    (G.queue 0).engine == 2 && G.ctx == 0 && (match (G.queue 0).reqs with
      | [r] => r.st == st && !r.refused && !r.pops && r.fault.isNone && r.moved == moved && r.stopped.isEmpty &&
          r.declined.isEmpty && (s.flying 0 0 r.id).isEmpty && G.released r.slices .sys r.before && !(r.words.getD 0 0).getLsbD 24
      | _ => false) &&
      decide (s.engineByte 0 G ((G.queue 0).base + 0) true = (.inl 0x1200, s)) && !s.mem.poisoned 0x1200 8

theorem witness_NetworkRequests_exchange :
    mayExchange (exchanging .queued []) .queued [] = true ∧ mayExchange (exchanging .sent []) .sent [] = true ∧
      mayExchange (exchanging .sent [(0, 1), (2 ^ 48, 2 ^ 48 + 1)]) .sent [(0, 1), (2 ^ 48, 2 ^ 48 + 1)] = true ∧
      (((exchanging .sent []).gang 0).any fun G => findsAt (exchanging .sent []) G 4 0x1104 0x1104 0x1104 0x1104) = true ∧
      (0x200000001 : Dword).extractLsb' 0 6 = 1#6 ∧ (0x200000001 : Dword).extractLsb' 6 6 = 0#6 ∧ 0 + (0 ^^^ 2 ^ 0) = 1 ∧
      onNode (exchanging .sent []).node 0x1100 + BitVec.ofNat 64 (4 * 1) = 0x1104 ∧ (0x200000001 : Dword) ≠ 0x200000002 := by
  decide +kernel

/-- A PUTI to module 1 leaves with its payload word, least significant byte first (23 R356). -/
theorem test_netPuti_packet :
    (let s := sends [0, 0x0001000000001100, 0x1122334455667788] fun s => (linked s).setCtx 0 { s.ctx 0 with job := some 9 }
     match exec (.netPuti 0 0) s with
     | .next t => t.fabric.packets.map (fun p => (p.2.dest, p.2.op)) ==
         [(1, .write [(0x0001000000001100, [0x88, 0x77, 0x66, 0x55, 0x44, 0x33, 0x22, 0x11].map some)] none)]
     | _ => false) = true := by decide +kernel

/-- The element that an exchange takes out of its slot leaves for the partner's slot of the same number (23 R358). -/
theorem test_netExch_element :
    (match exec (.netExch 0 0 { sender := 1, job := 9, target := 0x1100, param := 0x200000001, elems := [some 9] })
       (withMem 0x1104 7 4 (exchanging .sent [])) with
     | .next t => t.mem.read 0x1104 4 == 9 && t.fabric.packets.map (fun p => (p.2.dest, p.2.op)) ==
         [(1, .exchange 0x1100 0x200000001 0 [some 7, some 0, some 0, some 0])]
     | _ => false) = true := by decide +kernel

/-- Module 5 asks for job 9, which names context 0. -/
def asked : State :=
  let s := linked (paged 28)
  s.setCtx 0 { s.ctx 0 with job := some 9 }

theorem witness_NetworkPackets_receive : asked.fabric.aligned = true ∧ asked.fabric.ports ≠ 0 ∧ (5 : BitVec 12) ≠ asked.node ∧
    asked.mgmt.role = none ∧ asked.sstrike.toNat ≤ 0 + 500 ∧ asked.jobCtx 9 = some 0 ∧ (asked.ctx 0).st ≠ .killing ∧
    asked.hasSeen { job := 9, sender := 5, stamp := 0, op := .load 0x2100 8 } = false ∧
    asked.tick.walk 0 0x2100 = .leaf { base := 0x2000, noL1 := false, r := true, w := true, x := true, bits := 21 } ∧
    asked.mem.poisoned 0x2100 8 = false ∧ asked.deferred = [] := by decide +kernel

/-- Its packet has been received and answered. -/
def heard : State :=
  { asked with fabric := { asked.fabric with seen := [(5, 0, 0)] }, out := [.answer 5 0 true 7] }

theorem witness_NetworkPackets_again : heard.hasSeen { job := 9, sender := 5, stamp := 0, op := .load 0x2100 8 } = true ∧
    heard.out.reverse.find? (fun y => y.answers { job := 9, sender := 5, stamp := 0, op := .load 0x2100 8 }) = some (.answer 5 0 true 7) ∧
    heard.fabric.aligned = true ∧ heard.jobCtx 9 = some 0 ∧ heard.mgmt.role = none := by decide +kernel

/-- A packet of a load of gang 0 has been sent at system strike 0, and it is strike t. -/
def sent (t : Dword) : State :=
  let s := withG (fun G => match G.acc 0 0 with | some p => G.setAcc 0 0 { p.2 with st := .sent 3 } | none => G)
    (after (.ldw false (.v 4) (.s 1) .zr) one)
  { s with
    sstrike := t
    fabric := { s.fabric with packets := [(3, { job := 9, dest := 1, stamp := 0, what := .acc 0 0 0, op := .load 0 4, again := 0 })] } }

/-- Whether a load of lane 0 is in that packet. -/
def carried (s : State) : Bool :=
  ((KV.find s.fabric.packets 3).any fun p => p.what == .acc 0 0 0) && (s.gang 0).any fun G => (KV.find G.ops 0).any fun op =>
    op.accs.length == 1 && op.accs.all fun a => a.1 == 0 && a.2.st == .sent 3 && !a.2.orphan

/-- The fabric is aligned. -/
def alignedNow (s : State) : State := { s with fabric := { s.fabric with aligned := true } }

theorem witness_NetworkPackets_answer : carried (alignedNow (sent 0)) = true ∧ (alignedNow (sent 0)).fabric.aligned = true ∧
    (((alignedNow (sent 0)).gang 0).any fun G => (KV.find G.ops 0).any fun op => op.kind != .rbind) = true ∧
    (alignedNow (sent 0)).sstrike.toNat ≤ 0 + 500 := by decide +kernel

theorem witness_NetworkPackets_expiry : carried (sent 501) = true ∧ 0 + 500 < (sent 501).sstrike.toNat ∧
    ((sent 501).ctx 0).st ≠ .killing ∧ carried ((sent 501).setCtx 0 { (sent 501).ctx 0 with st := .killing }) = true := by
  decide +kernel

/-! ## Power and management -/

theorem witness_PowerEvents : (1800 : Nat) < 1801 ∧ (State.reset.sensor 3).voted = false ∧ (600 : Int) < 601 ∧ (-1 : Int) < 0 ∧
    (let s := State.reset.setSensor 3 { Sensor.init with voted := true, inBand := 50000 }
     (s.sensor 3).voted = true ∧ 50000 ≤ (s.sensor 3).inBand) ∧
    (let m : Mgmt := { State.reset.mgmt with cls := .b, outB := 10, fruClass := .b }
     m.cls = .b ∧ m.fruClass = .b ∧ 10 ≤ m.outB ∧ m.outA < 10) ∧
    (let s := State.reset.setBent 3 { State.reset.bent 3 with cycle := 64 }
     64 ≤ (s.bent 3).cycle) := by decide +kernel

/-- A role change to C3M1 is in progress, with groups or with none resident. -/
def changing (s : State := State.reset) : State :=
  { inState .draining s with mgmt := { State.reset.mgmt with role := some { target := .c3m1, old := .c2m2 } } }

/-- The module, READY, runs in class B, or has fallen to one that does not allow its profile. -/
def inClass (c : CoolClass) : State :=
  { inState .live with
    mgmt := { State.reset.mgmt with cls := c, fruClass := .b }, hostif := { State.reset.hostif with ready := true } }

theorem witness_RoleChanges : Profile.c3m1 ≠ (inClass .b).profile ∧ allowed .c3m1 (inClass .b).mgmt.cls = true ∧
    (¬∃ k ∈ newLayers (inClass .b).profile .c3m1, (inClass .b).layerBad k = true) ∧
    ((inClass .b).ctxs.map fun c => c.2.carve).sum + 512 ≤ 864 ∧ (inClass .b).mgmt.role = none ∧
    (inClass .b).mgmt.resetPending = false ∧ KV.sorted (inClass .b).ctxs = true := by decide +kernel

theorem witness_RoleChanges_called : allowed (inClass .degraded).profile (inClass .degraded).mgmt.cls = false ∧
    (inClass .degraded).mgmt.role = none ∧ KV.sorted (inClass .degraded).ctxs = true := by decide +kernel

theorem witness_RoleChanges_refused : allowed .c3m1 (inClass .a).mgmt.cls = false ∧ changing.mgmt.role ≠ none ∧
    (let s := changing.setBent 17 { changing.bent 17 with hot := some 0 }
     s.layerBad 4 = true) ∧ 4 ∈ newLayers changing.profile .c3m1 ∧
    (let s := changing.setCtx 0 { changing.ctx 0 with carve := 353 }
     864 < (s.ctxs.map fun c => c.2.carve).sum + 512) := by decide +kernel

theorem witness_RoleChanges_reconfigure : changing.mgmt.role = some { target := .c3m1, old := .c2m2 } ∧ changing.groups = [] ∧
    changing.fabric.held = [] ∧ newLayers .c2m2 .c3m1 = [4, 5] := by decide +kernel

theorem witness_RoleChanges_abandon : (changing W).mgmt.role = some { target := .c3m1, old := .c2m2 } ∧
    ((changing W).groups.any fun p => !p.2.retired && !p.2.saved) = true := by decide +kernel

theorem witness_ErrorsAndResets : (let m : Mgmt := { State.reset.mgmt with trip := true }
     m.trip = true ∧ m.dead = false) ∧ State.reset.mgmt.dead = false ∧
    (let m : Mgmt := { State.reset.mgmt with dead := true, sensors := [(3, Sensor.init)] }
     m.dead = true ∧ ∀ p ∈ m.sensors, p.2.reading < 240) := by decide +kernel

/-- A protected gang whose copies differ, or do not. -/
def twice (d : Bool) : State := withG fun G => { G with prot := true, differs := d }

theorem witness_ErrorsAndResets_gang :
    ((twice false).gang 0).any (fun G => G.st == .resident && G.prot) = true ∧ (twice true).cur = some (0, 0) ∧
    ((twice true).gang 0).any (fun G => G.differs && !(twice true).gateClosed G.core &&
      !G.watchdogDue (.add false (.s 3) (.s 4) (.m 1)) && decide (G.Free (G.active 0xFF) [.s 3, .s 4, .m 1]) &&
      (KV.find G.splits 0).any fun sp => sp.slices == 0xFF && (twice true).unsettled G sp.slices == 0) = true ∧
    (Reg.s 3).isSDst = true ∧ (Reg.s 4).scaSrc = true ∧ (Reg.m 1).scaSrc = true ∧
    W.contextsOn 0 = [0] ∧ W.contextsOn 1 = [] := by decide +kernel

/-- 17 R293, R294: a load compares nothing and goes on; a store halts the gang before it leaves. -/
theorem test_copies_differ :
    (((after (.ldw false (.v 4) (.s 1) .zr) (twice true)).gang 0).any fun G => G.st == .resident && G.ops.length == 1) = true ∧
    (((after (.stw false (.v 4) (.s 1) .zr) (twice true)).gang 0).any fun G => G.st != .resident && G.ops.isEmpty) = true := by
  decide +kernel

theorem witness_ErrorsAndResets_held :
    (crowded 0x1100 W).deferred[63]? = some { g := 9, o := 0, k := 0, key := 8, slice := W.sliceOf 0x1100,
                                              kind := .frd false, n := 0, ext := none } := rfl

theorem witness_BootAndRequests : State.reset.hostif.ready = false ∧ State.reset.mgmt.dead = false ∧
    State.reset.mgmt.chosen = none ∧ State.reset.mgmt.flash.marks = 0 ∧ (booted true).hostif.ready = true ∧
    State.reset.mgmt.running = none ∧
    ({ State.reset.mgmt with running := some true } : Mgmt).running = some true := by decide +kernel

/-- Slot A alone holds an image; the floor has no record. -/
def flashed (x : SlotImage) (marks : BitVec 8) : Mgmt :=
  { State.reset.mgmt with flash := { State.reset.mgmt.flash with slotA := some x, marks := marks } }

/-- An image that verifies is chosen; that one does is beyond a proof, for the signature scheme is opaque here (log 6). -/
theorem witness_BootAndRequests_slot (x : SlotImage) (h : SlotImage.bootable x 0 = true) (marks : BitVec 8) :
    (flashed x marks).chosen = some (false, x) ∧ (flashed x marks).flash.marks = marks ∧ (flashed x marks).dead = false := by
  have e : (flashed x marks).flash.floorOf = none := rfl
  refine ⟨?_, rfl, rfl⟩
  unfold Mgmt.chosen
  rw [e]
  simp [flashed, h, State.reset]

/-! ## The machine as a whole -/

/-- The program `sub.s v2, v1, v3` where the first step fetches. -/
def placed : State := State.reset.withFetchWord 32 0x91020103

theorem witness_StepKeepsMemory : placed.memOk = true ∧
    (match step placed with | .next _ => true | .fault _ => false | .refused _ => false) = true := by decide +kernel

theorem witness_StepRuns : placed.agenda = .issue 0 0 :: [] ∧ (∃ G sp, placed.gang 0 = some G ∧ KV.find G.splits 0 = some sp ∧
    G.mayIssue 0 sp = true ∧ placed.saving 0 = false ∧ sp.pc.extractLsb' 60 3 = 0 ∧ sp.pc.extractLsb' 48 12 = placed.node ∧
    placed.tlbHit G.core G.ctx (vpnOf sp.pc) = some fetchLeaf ∧ placed.mem.poisoned (fetchLeaf.pa sp.pc) 4 = false ∧
    (List.range 4).map (fun j => placed.mem.byte (fetchLeaf.pa sp.pc + j)) = [0x03, 0x01, 0x02, 0x91]) ∧
    decodeBytes [0x03, 0x01, 0x02, 0x91] = .ok (.sub true (.v 2) (.v 1) (.v 3), []) :=
  ⟨by decide +kernel, splitIn_of (by decide +kernel), rfl⟩

theorem witness_StepRuns_undecodable :
    (((State.reset.withFetchWord 32 0x7F000000).gang 0).any fun _ =>
      (List.range 4).map (fun j => (State.reset.withFetchWord 32 0x7F000000).mem.byte (0x1000 + j)) == [0, 0, 0, 0x7F]) = true ∧
    decodeBytes [0, 0, 0, 0x7F] = .error .unassignedMajor := ⟨by decide +kernel, rfl⟩

theorem witness_StepRuns_event : ({ State.reset with agenda := [.event .chipStrike] } : State).agenda = [.event .chipStrike] := rfl

theorem witness_DecodeEncode : (Instr.sub true (.v 2) (.v 1) (.v 3)).wf = true ∧
    encode (.sub true (.v 2) (.v 1) (.v 3)) = some 0x91020103 := by decide +kernel

/-! ## Single instructions against the spec's own worked examples -/

/-- A vector register of gang 0 after an instruction, in one lane. -/
def lane (i : Instr) (s : State) (r : Nat) (l : Nat := 0) : Word := (((after i s).gang 0).map fun G => G.vreg r l).getD 0

/-- A scalar register of gang 0 after an instruction. -/
def scalar (i : Instr) (s : State) (r : Nat) : Dword := (((after i s).gang 0).map fun G => G.sreg r).getD 0

/-- v1 and v2 in every lane, under a mode. -/
def under (m : BitVec 16) (a b c : Word) : State := withV 1 (fun _ => a) (withV 2 (fun _ => b) (withV 12 (fun _ => c) (withMode m)))

/-- 09 R170: the examples of `dot8` under i8 and of `dot4` under i4. -/
theorem test_dot : lane (.dot8 false (.v 12) (.v 1) (.v 2)) (under 10 0x02FF0380 0x01010201 1000) 12 = 879 ∧
    lane (.dot4 false (.v 12) (.v 1) (.v 2)) (under 12 0x02FF0380 0x01010201 1000) 12 = 1007 := by decide +kernel

/-- 09 R169: the examples of the lookups. -/
theorem test_lookup :
    lane (.btl false (.v 9) (.v 1) (.s 20)) (withS [(20, 0x0706050403020100), (21, 0x8080808080808080)] (under 0 0x41E2 0 0)) 9 = 0x0102 ∧
      lane (.btlh false (.v 10) (.v 1) (.s 20)) (withS [(20, 0x0706050403020100), (21, 0x8080808080808080)] (under 0 0x41E2 0 0)) 10 =
        0x0480 := by decide +kernel

/-- 09 R171, R172: the values of its example, in lanes 0 to 7. -/
def listed (m : Word) : State :=
  withG (fun G => G.setM 0 m) (withV 1 (fun i => ([3, -2, 5, 0, 7, -1, 4, 2] : List Word).getD i 99) (withMode 8))

theorem test_reduce : scalar (.redadd false (.s 5) (.v 1)) (listed 0xFF) 5 = 18 ∧
    scalar (.redmax false (.s 5) (.v 1)) (listed 0xA) 5 = 0 := by decide +kernel

theorem test_scan : (List.range 8).map (fun l => lane (.scan false (.v 3) (.v 1)) (listed 0xFF) 3 l) = [3, 1, 6, 6, 13, 12, 16, 18] ∧
    (List.range 4).map (fun l => lane (.scan false (.v 3) (.v 1)) (listed 0xA) 3 l) = [0, -2, 0, -2] := by decide +kernel

/-- 06, conversions: FP32 464 to E4M3 by RNE and by RNA with and without SAT, 2^-10 by RNE and RUP. -/
theorem test_cvt_narrow :
    [lane (.cvt false (.v 2) (.v 1) .fp32) (under 0x04 0x43E80000 0 0) 2, lane (.cvt false (.v 2) (.v 1) .fp32) (under 0x44 0x43E80000 0 0) 2,
      lane (.cvt false (.v 2) (.v 1) .fp32) (under 0xC4 0x43E80000 0 0) 2, lane (.cvt false (.v 2) (.v 1) .fp32) (under 0x04 0x3A800000 0 0) 2,
      lane (.cvt false (.v 2) (.v 1) .fp32) (under 0x34 0x3A800000 0 0) 2] = [0x7E, 0x7F, 0x7E, 0x00, 0x01] := by decide +kernel

/-- 06, conversions: FP32 2.5 to i32, -3.7 to n8, 300 to i8, and n32 300 to n8. -/
theorem test_cvt_int :
    [lane (.cvt false (.v 2) (.v 1) .fp32) (under 0x08 0x40200000 0 0) 2, lane (.cvt false (.v 2) (.v 1) .fp32) (under 0x48 0x40200000 0 0) 2,
      lane (.cvt false (.v 2) (.v 1) .fp32) (under 0x0B 0xC06CCCCD 0 0) 2, lane (.cvt false (.v 2) (.v 1) .fp32) (under 0x8B 0xC06CCCCD 0 0) 2,
      lane (.cvt false (.v 2) (.v 1) .fp32) (under 0x0A 0x43960000 0 0) 2, lane (.cvt false (.v 2) (.v 1) .n32) (under 0x0B 300 0 0) 2] =
      [2, 3, 0xFF, 0x00, 0xFFFFFF80, 0x2C] := by decide +kernel

/-- 13 R216: `afadd` of 2^-24 to 1.0 is lost to a tie; 2^-23 is not. -/
theorem test_afadd :
    ((after (.homeAtomic 0 0 0) (after (.afadd false (.v 2) (.s 1) .chip) (withMem 0x1100 0x3F800000 4 (withV 2 (fun _ => 0x33800000) one)))).mem.read
      0x1100 4) = 0x3F800000 ∧
    ((after (.homeAtomic 0 0 0) (after (.afadd false (.v 2) (.s 1) .chip) (withMem 0x1100 0x3F800000 4 (withV 2 (fun _ => 0x34000000) one)))).mem.read
      0x1100 4) = 0x3F800001 := by decide +kernel

/-- 06, keys of FP32: two shifts and an exclusive-or order -2.0 below -1.0 below -0. -/
theorem test_shift_by_width : lane (.sarImm false (.v 2) (.v 1) 31) (under 0 0xC0000000 0 0) 2 = 0xFFFFFFFF ∧
    lane (.shrImm false (.v 2) (.v 1) 1) (under 0 0xFFFFFFFF 0 0) 2 = 0x7FFFFFFF ∧
    lane (.xor false (.v 1) (.v 1) (.v 2)) (under 0 0xC0000000 0x7FFFFFFF 0) 1 = 0xBFFFFFFF := by decide +kernel

/-! ## More clauses of the statements -/

theorem witness_PartAndRegang_illreg : ∃ G sp, (divides 0xF).Issuing (.part false .zr (.m 1)) 0 0 G sp ∧
    (Reg.m 1).isM = true ∧ Reg.zr.isS = false :=
  issuing_of (by decide +kernel)

/-- Split 1 waits at the `regang` at 0x1000 that split 0 is at. -/
def meeting : State := halves2 fun x => { x with st := .regang, wait := .regang, ipc := 0x1000 }

theorem witness_PartAndRegang_merge : ∃ G sp, meeting.Issuing (.regang true) 0 0 G sp ∧ KV.sorted G.splits = true ∧
    G.splits.head? = some (0, sp) ∧ G.st = .resident ∧ G.ops = [] ∧ meeting.binding G = none ∧
    (∀ p ∈ G.splits, p.1 ≠ 0 → p.2.st = .regang ∧ p.2.ipc = sp.pc) :=
  issuing_of (by decide +kernel)

/-- Where no ridge register binds the gang no lane of it is cancelled. -/
theorem unsettled_of_unbound {s : State} {G : Gang} (h : s.binding G = none) (sl : BitVec 8) : s.unsettled G sl = 0 := by
  have e : (fun i => s.cancels G sl i) = fun _ => false := by funext i; simp [State.cancels, h]
  unfold State.unsettled
  rw [e]
  decide

/-- A gang in TRAP by the fault of its load in lane 0, whose handler has set TREPLAY or cleared it. -/
def faulted (replay : Bool) (s : State := parked) : State :=
  withG (fun G => { G with trap := G.trap.map fun t => { t with replay := replay } }) (after (.faultDeliver 0 0) s)

/-- What a return from its MEMFAULT asks. -/
def mayReturn (s : State) (replay : Bool) (G : Gang) (sp : Split) : Bool :=
  G.st == .trap && G.held.isEmpty && G.trap.any fun t =>
    t.cause == 14 && t.again == .marker && t.tslice == sp.slices && legalPc t.tpc && t.replay == replay &&
      match t.recs, G.ops with
      | [r], [(o, op)] => r.op == o && op.kind == .load && op.mat.isNone && !op.isStt && (match op.accs with
        | [(_, a)] => decide (a.lane < 32) && a.st == .fault causeTrans && G.owns sp.slices a && localWindow a.va == none &&
            a.va.extractLsb' 60 3 == 0 && a.va.extractLsb' 48 12 == s.node && a.va == 0x2100
        | _ => false)
      | _, _ => false

theorem witness_TrapReturn_memfault :
    (∃ G sp, (faulted false).Issuing (.tret false) 0 0 G sp ∧ mayReturn (faulted false) false G sp = true) ∧
      ∃ G sp, (faulted true).Issuing (.tret true) 0 0 G sp ∧ mayReturn (faulted true) true G sp = true ∧
        (faulted true).tlbHit G.core G.ctx (vpnOf 0x2100) = none :=
  ⟨issuing_of (by decide +kernel), issuing_of (by decide +kernel)⟩

/-- The page that faulted has been mapped. -/
def remapped (s : State) : State := s.setCore 0 { s.core 0 with tlb := KV.set (s.core 0).tlb (tlbKey 0 2) fetchLeaf }

theorem witness_TrapReturn_mapped : ∃ G sp, (remapped (faulted true)).Issuing (.tret false) 0 0 G sp ∧
    mayReturn (remapped (faulted true)) true G sp = true ∧
    ((remapped (faulted true)).tlbHit G.core G.ctx (vpnOf 0x2100)).map Leaf.r = some true :=
  issuing_of (by decide +kernel)

/-- Every lane active; the upper half's words would lie on the next module. -/
def crossing : State := withS [(1, 0x0000FFFFFFFFFFC0), (6, 0x1200)]

theorem witness_BindAndRemoteWrite_lanes : ∃ G sp, crossing.Issuing (.rwr false (.v 3) (.s 1) (.s 6)) 0 0 G sp ∧
    G.Free (G.active sp.slices) [.v 3, .s 1, .s 6] ∧
    crossing.clampTest G true ((G.opnd64 (.s 6), 8) :: (lanesOf (G.active sp.slices)).map fun l =>
      (G.opnd64 (.s 1) + BitVec.ofNat 64 (4 * l), 4)) = none ∧
    crossing.MemRoom G sp (G.opnd64 (.s 6) :: (lanesOf (G.active sp.slices)).map fun l =>
      G.opnd64 (.s 1) + BitVec.ofNat 64 (4 * l)) ∧
    (∃ l ∈ lanesOf (G.active sp.slices), nodeOf crossing.node (G.opnd64 (.s 1) + BitVec.ofNat 64 (4 * l)) ≠
      nodeOf crossing.node (G.opnd64 (.s 6))) ∧
    nodeOf crossing.node (G.opnd64 (.s 1)) = nodeOf crossing.node (G.opnd64 (.s 6)) :=
  issuing_of (by decide +kernel)

/-- No wait of a gang with no split waiting can end; and what the second clause on `wake` asks of a gang. -/
theorem witness_OrderResult_wake : ((W.gang 0).any fun G => G.splits.all fun p => p.2.st == .ready) = true ∧
    (((withSplit .segwait .marker).gang 0).any fun G => G.ops.isEmpty && (W.binding G).isNone &&
      G.splits.all fun p => p.2.wait == .marker) = true := by decide +kernel

/-- The gang of `arriving` is the last of two: gang 1 waits at barrier 0. -/
def lastIn : State :=
  match arriving.gang 0 with
  | some G =>
    (arriving.setGang 1 { G with
        idx := 1, scope := .chip
        splits := G.splits.map fun p => (p.1, { p.2 with st := .barwait, wait := .bar 0, pc := 0x1010 }) }).modGroup 0 fun gr =>
      { gr with gangs := [0, 1], barriers := [(0, { phase := 0, m := 1, n := 2, arrived := [(1, 1)], strikes := 0 })] }
  | none => arriving

theorem witness_BarrierResult_completes : ∃ G sp, lastIn.Issuing (.bar false (.m 1) (.s 9) 0) 0 0 G sp ∧
    (0 : BitVec 6).toNat < lastIn.barriersOf G ∧ G.Free 0 [.m 1, .s 9, .stat] ∧ G.Alone 0 sp ∧ lastIn.isAbandoned G = false ∧
    G.mismatch 0 (lastIn.barrierOf G 0) sp.slices 1 2 = false ∧
    ((lastIn.group G.group).map fun gr => (gr.gangs, decide (2 * popcount 1 ≤ popcount ((1 : Word) &&& G.liveOf sp.slices) +
      (gr.barrier 0).count), KV.find (gr.barrier 0).arrived 0)) = some ([0, 1], true, none) ∧
    (lastIn.gang 1).any (fun X => X.st == .resident && X.ops.isEmpty && X.scope == .chip && X.splits.length == 1 &&
      X.splits.all fun p => p.2.st == .barwait && p.2.wait == .bar 0 && !p.2.seg) = true :=
  issuing_of (by decide +kernel)

/-- Ridge register 2, a minimum, binds the gang; its bound of lane 3 is dominated. -/
def dominated : State :=
  withG (fun G => { G with ridge := some 2, bnd := [(3, 200)] })
    (ridged.setCore 0 { ridged.core 0 with ridge := [(2, 100)] })

theorem witness_ResumeCutBound_settle : ∃ G sp, dominated.gang 0 = some G ∧ KV.find G.splits 0 = some sp ∧
    dominated.cancels G sp.slices 3 = true ∧ (∀ j, j < 32 → j ≠ 3 → dominated.cancels G sp.slices j = false) ∧
    G.btOf 3 = G.privBytes ∧ (∀ p ∈ G.ops, p.2.mat = none) :=
  splitIn_of (by decide +kernel)

theorem witness_StealSpawn_zr : ∃ G sp, (withG fun G => G.setM 0 0).Issuing (.spawn false .zr) 0 0 G sp ∧ G.prot = false ∧
    G.Free (G.active sp.slices) (Reg.zr.span 16 ++ [.stat]) ∧ G.Alone 0 sp ∧ G.active sp.slices = 0 :=
  issuing_of (by decide +kernel)

theorem witness_QueueResult_zr : ∃ G sp, W.Issuing (.qbind false (.q 0) .zr) 0 0 G sp ∧
    G.Free 0 [.zr, Reg.second .zr] ∧ W.bindBad 0 G (G.opnd64 .zr) (G.opnd64 (Reg.second .zr)) = false ∧ G.Alone 0 sp ∧
    (G.queue 0).reqs = [] :=
  issuing_of (by decide +kernel)

/-- A split that waits as a segment marker does for the answer of its own `rwait`, sent again after a fault. -/
def replayedWait : State :=
  withSplit .segwait .marker (afterAll [.rwait false (.s 1) 3, .homeCounterWait 0 0 64] (withMem 0x1100 3 8 one))

theorem witness_ResultDelivery_marker : ∃ G op a,
    (replayedWait.gang 0 = some G ∧ KV.find G.ops 0 = some op ∧ KV.find op.accs 64 = some a ∧ a.st = .performed ∧
    (a.orphan = false ∧ a.code < 256 ∧ op.kind = .rwait ∧ op.acq.isSome = true ∧ op.ofSplit 0xFF = true ∧
      (∀ p ∈ G.splits, p.2.wait ≠ .op 0 ∧ p.2.slices = 0xFF))) :=
  answered_of (by decide +kernel)

/-- A ring of 4 granules at 0x1100, of which `pm` are committed, with the consumers' claims given, and s2 = n. -/
def consumers (pm : Nat) (n : Dword) (cons : List RingClaim) (i : Instr) : State :=
  let s := withS [(2, n)] (withMem 0x1108 4 4 (withMem 0x1110 2 8 one))
  after i { (if pm = 0 then s else withMem 0x1118 pm 8 s) with rings := [(0x1100, { prod := [], cons := cons })] }

theorem witness_RingAndCounterAtHome_await :
    (∃ G op a key, (consumers 1 1 [] (.rawait false (.s 2) (.s 1))).Arrives 0 0 64 G op a key ∧ G.st ≠ .killed ∧
      wholeRing (consumers 1 1 [] (.rawait false (.s 2) (.s 1))) key ∧ op.kind = .rawait ∧ a.data.toNat % 2 ^ 64 = 1 ∧
      (consumers 1 1 [] (.rawait false (.s 2) (.s 1))).mem.read (key + 0x20) 8 + 1 ≤
        (consumers 1 1 [] (.rawait false (.s 2) (.s 1))).mem.read (key + 0x18) 8) ∧
    ∃ G op a key, (consumers 1 2 [] (.rawait false (.s 2) (.s 1))).Arrives 0 0 64 G op a key ∧ G.st ≠ .killed ∧
      wholeRing (consumers 1 2 [] (.rawait false (.s 2) (.s 1))) key ∧ op.kind = .rawait ∧ a.data.toNat % 2 ^ 64 = 2 ∧
      ¬(consumers 1 2 [] (.rawait false (.s 2) (.s 1))).mem.read (key + 0x20) 8 + 2 ≤
        (consumers 1 2 [] (.rawait false (.s 2) (.s 1))).mem.read (key + 0x18) 8 :=
  ⟨atHome_of (by decide +kernel), atHome_of (by decide +kernel)⟩

theorem witness_RingAndCounterAtHome_retire :
    ∃ G op a key, (consumers 2 0 claim0 (.rretire false (.s 2) (.s 1))).Arrives 0 0 64 G op a key ∧ G.st ≠ .killed ∧
    wholeRing (consumers 2 0 claim0 (.rretire false (.s 2) (.s 1))) key ∧ op.kind = .rretire ∧ a.data.toNat % 2 ^ 64 = 0 ∧
    ((consumers 2 0 claim0 (.rretire false (.s 2) (.s 1))).ringHome key).cons = claim0 :=
  atHome_of (by decide +kernel)

/-- A broken ring at 0x1100. -/
def brokenRing (i : Instr) : State :=
  let s := withS [(2, 1)] (withMem 0x1108 4 4 one)
  after i (s.breakRing 0x1100)

theorem witness_RingAndCounterAtHome_broken :
    (∃ G op a key, (brokenRing (.rclaim false (.s 2) (.s 1))).Arrives 0 0 64 G op a key ∧ G.st ≠ .killed ∧ op.kind = .rclaim ∧
      (brokenRing (.rclaim false (.s 2) (.s 1))).ringBad key = false ∧
      (brokenRing (.rclaim false (.s 2) (.s 1))).ringBroken key = true ∧
      (brokenRing (.rclaim false (.s 2) (.s 1))).mem.poisoned key 64 = false ∧
      (brokenRing (.rclaim false (.s 2) (.s 1))).deferred = []) ∧
    ∃ G op a key, (brokenRing (.rretire false (.s 2) (.s 1))).Arrives 0 0 64 G op a key ∧ op.kind = .rretire ∧
      (brokenRing (.rretire false (.s 2) (.s 1))).ringBroken key = true :=
  ⟨atHome_of (by decide +kernel), atHome_of (by decide +kernel)⟩

/-- A second load of the page, issued before the walk for the first has ended. -/
def missingTwice : State := after (.ldw false (.v 5) (.s 8) .zr) (withG (fun G => G) (missing one))

theorem witness_TranslationEvents_later : missingTwice.walk 0 (pageAddr 2) = .fault causeTrans ∧
    ((missingTwice.gang 0).any fun G => (G.acc 0 0).any fun p => (G.acc 1 0).any fun q =>
      q.1.ofSplit p.1.slices && q.1.mat.isNone && q.1.kind.isEngine.isNone && q.2.st.atCore && G.owns p.1.slices q.2 &&
        localWindow p.2.va == none && p.2.va.toNat / 2 ^ p.2.page == q.2.va.toNat / 2 ^ p.2.page) = true := by decide +kernel

theorem witness_FaultService_kept : ∃ G sp,
    (parked.modGroup 0 fun gr => { gr with saving := true }).gang 0 = some G ∧ KV.find G.splits 0 = some sp ∧
    (parked.modGroup 0 fun gr => { gr with saving := true }).saving 0 = true ∧ sp.st = .faultpark ∧ sp.toOs = true ∧
    sp.answer = none :=
  splitIn_of (by decide +kernel)

theorem witness_FaultService_service : parked.saving 0 = false ∧
    ((parked.gang 0).any fun G => G.ops.all fun p => !p.2.isStt) = true := by decide +kernel

theorem witness_TimedEvents_claim_group : ((claiming.group 0).any fun Gr => !Gr.saving && !Gr.saved) = true := by decide +kernel

theorem witness_TaskAndRidgeEvents_system :
    (queued false).hostif.feat.getLsbD 7 = false ∧
    ({ (queued false).hostif with feat := 0xFF } : HostIf).feat.getLsbD 7 = true := by decide +kernel

/-- Its group is being saved, its context's save area of a given size. -/
def savingIn (size : Nat) : State := (saving true).setCtx 0 { (saving true).ctx 0 with saveAddr := 0x100000, saveSize := size }

theorem witness_ContextEvents_saveArea :
    ((savingIn (2 ^ 20)).group 0).any (fun Gr =>
      let need := 1024 * ((savingIn (2 ^ 20)).holdings Gr).length + 4096 + 8192
      (savingIn (2 ^ 20)).saveUsed 0 == 0 && decide (0x100000 + 2 ^ 20 ≤ 2 ^ 52) && decide (need ≤ 2 ^ 20) &&
        !(savingIn (need - 1)).saveRoom 0 [(0, Gr)]) = true ∧
    (savingIn (2 ^ 20)).deferred = [] ∧ ((savingIn 0).gang 0).any (fun G => G.ops.isEmpty) = true := by decide +kernel

/-- A parked gang's request for a future on module 1 has left the module, or not. -/
def askedFar (left : Bool) : State :=
  let s := withG (fun G => match G.acc 0 64 with | some p => G.setAcc 0 64 { p.2 with st := .sent 3 } | none => G)
    (withSplit .faultpark .marker (after (.frd false (.s 6) (.s 1)) one))
  let s := inState .draining s
  { s.setCtx 0 { s.ctx 0 with job := some 9 } with
    fabric := { s.fabric with
      nextId := 4
      packets := [(3, { job := 9, dest := 1, stamp := 0, what := .acc 0 0 64, op := .futureRead 0 false, again := 0, left := left })] } }

theorem witness_ContextEvents_withdraw : ∀ b : Bool,
    maySave (askedFar b) (fun Gr G => !Gr.saving && G.splits.any (fun p => p.2.st == .faultpark) && G.sentWaits == [(0, 64, 3)] &&
      G.ctx == 0 && (G.acc 0 64).any fun p => p.2.st == .sent 3 && !p.2.orphan) = true ∧
    (KV.find (askedFar b).fabric.packets 3).map PacketOut.left = some b ∧
    (∀ q ∈ (askedFar b).fabric.packets, q.2.withdraws 3 = false) ∧ ((askedFar b).ctx 0).job = some 9 ∧
    (askedFar b).deferred = [] := by decide +kernel

theorem witness_HostEvents_detach_unattached : (booted false).hostif.ready = true ∧ (booted false).hostif.attached = false ∧
    (booted false).ctxs = [] := by decide +kernel

theorem witness_NetworkRequests_mismatch :
    (exchanging .sent []).exchMeets 0 1 0x1100 0x200000002 = none ∧ (1 : BitVec 12).toNat = 1 ∧
    mayExchange (exchanging .sent []) .sent [] = true := by decide +kernel

/-- A withdrawal from module 5 of its packet 0, which is held, has been answered, or has not come. -/
def withdrawal : Packet := { job := 9, sender := 5, stamp := 0, op := .withdraw 0 0, seq := 1 }

/-- Module 5's packet 0 is held at a cell. -/
def holding : State :=
  { asked with deferred := [{ g := 0, o := 0, k := 0, key := 0x2100, slice := asked.sliceOf 0x2100, kind := .frd false, n := 0,
                              ext := some { job := 9, sender := 5, stamp := 0, op := .futureRead 0x2100 false } }] }

theorem witness_NetworkPackets_withdraw : asked.hasSeen withdrawal = false ∧ heard.hasSeen withdrawal = false ∧
    holding.hasSeen withdrawal = false ∧ (withdrawal.seq ≠ 0) ∧ asked.fabric.seen = [] ∧
    (∃ x ∈ heard.fabric.seen, x.1 = withdrawal.sender.toNat ∧ x.2.1 = 0 ∧ heard.sstrike.toNat ≤ x.2.2 + 500) ∧
    (∀ d ∈ heard.deferred, d.isPacket withdrawal.sender 0 = false) ∧
    (holding.deferred.all fun d => d.isPacket withdrawal.sender 0 && d.ringWaiter.isNone) = true ∧ holding.deferred.length = 1 ∧
    holding.jobCtx 9 = some 0 := by decide +kernel

theorem witness_NetworkPackets_received :
    let s := alignedNow (sent 501)
    (KV.find s.fabric.packets 3).map (fun p => (p.left, p.received)) = some (true, false) ∧
    (∀ q ∈ s.fabric.packets, q.2.withdraws 3 = false) ∧
    (KV.find ({ s.fabric with packets := KV.mod s.fabric.packets 3 fun p => { p with received := true } } : Fabric).packets 3).map
      PacketOut.received = some true := by decide +kernel

/-- A load of gang 0 that is in packet 3 has been withdrawn by packet 4. -/
def withdrawing : State :=
  let s := alignedNow (sent 0)
  { s with fabric := { s.fabric with packets := s.fabric.packets ++
      [(4, { job := 9, dest := 1, stamp := 0, what := .withdraw 0 0 0 3, op := .withdraw 3 0, again := 0 })] } }

theorem witness_NetworkPackets_withdrawn : carried withdrawing = true ∧ withdrawing.fabric.aligned = true ∧
    (KV.find withdrawing.fabric.packets 4).map (fun p => (p.left, p.what)) = some (true, .withdraw 0 0 0 3) := by decide +kernel

theorem witness_RoleChanges_ready : (inClass .b).hostif.ready = true ∧ (inClass .b).mgmt.dead = false ∧
    (inClass .degraded).hostif.ready = true ∧ State.reset.hostif.ready = false := by decide +kernel

/-- One record of corrected errors of source 5 at location 2 was made at system strike 0. -/
def corrected : State :=
  { State.reset with mgmt := { State.reset.mgmt with corrected := [(2 * 16 + 5, (0, 3))] }, sstrike := 499999 }

theorem witness_ErrorsAndResets_corrected : KV.find State.reset.mgmt.corrected (2 * 16 + 5) = none ∧
    KV.find corrected.mgmt.corrected (2 * 16 + 5) = some (0, 3) ∧ corrected.sstrike.toNat < 0 + 500000 := by decide +kernel

theorem witness_BootAndRequests_timeout (x : SlotImage) (h : SlotImage.bootable x 0 = true) :
    (let m := flashed x 0
     (if m.tried then m.running else m.chosen.map Prod.fst) = some false) ∧
    (let m : Mgmt := { State.reset.mgmt with tried := true }
     (if m.tried then m.running else m.chosen.map Prod.fst) = none) := by
  refine ⟨?_, by decide +kernel⟩
  have e : (flashed x 0).tried = false := rfl
  simp only [e, (witness_BootAndRequests_slot x h 0).1]
  rfl

theorem witness_StepRuns_alone : (placed.gangs.all fun p => p.2.splits.all fun q => (p.1, q.1) == (0, 0)) = true ∧
    ((placed.gang 0).map fun G => (G.core % 8, G.slot % 4)) = some (0, 0) := by decide +kernel

theorem witness_MatrixEvents_fresh : ∀ i ∈ [Instr.mma false (.v 0) (.v 16) (.s 6), .mzero false (.v 0) (.s 6)],
    ((after i (tiled false)).gang 0).any (fun G => G.ops.all fun p => p.2.mat.any fun m => !m.reread) = true := by decide +kernel

/-- The gang of `tiled` with the block of a type, in compensated mode or not. -/
def typed (ty : Nat) (comp : Bool) : State :=
  withG (fun G => { G with mode := if comp then 0x1000 else 0 }) (withMem 0x1101 ty 1 (withMem 0x1100 ty 1 (tiled false)))

/-- A matrix instruction in the pipe of gang 0 has a block of an element type, and a lo tile or none. -/
def pipes (s : State) (i : Instr) (kind : MatKind) (t : EType) (lo : Bool) : Bool :=
  ((after i s).gang 0).any fun G => match G.ops with
    | [(0, op)] => op.accs.isEmpty && op.mat.any fun m => !m.done && !m.reread && m.waited.isNone && m.kind == kind &&
        (Fb.ofBytes m.fb).any fun f => f.a.t == t && f.hasLo m.comp == lo
    | _ => false

theorem witness_MatrixEvents_types :
    pipes (typed 0 true) (.mma false (.v 0) (.v 16) (.s 6)) .mma .fp32 true = true ∧
      pipes (typed 0 true) (.mmc false (.v 0) (.v 16) (.s 6)) .mmc .fp32 true = true ∧
      pipes (typed 0 true) (.mfin false (.v 0) (.s 6)) .mfin .fp32 true = true ∧
      pipes (typed 1 false) (.mma false (.v 0) (.v 16) (.s 6)) .mma .fp64 false = true ∧
      pipes (typed 7 true) (.mma false (.v 0) (.v 16) (.s 6)) .mma .cf32 true = true := by decide +kernel

theorem witness_MatrixEvents_timeoutOf :
    ((lonely.gang 0).any fun G => G.ops.all fun p => !(p.2.mat.any fun m => m.reread) &&
      G.splits.all fun q => p.2.ofSplit q.2.slices) = true := by decide +kernel

end Sys2Proof.Tests
end

/-! # Select and the mask instructions (07 R133, R141, R146)

What a fixed-latency instruction on registers leaves, said for each kind of destination, and from it the results of `sel`
and of the mask instructions. -/

namespace Sys2Proof.Machine

/-! ## Tests of Table 3-10 -/

/-- No operand has a class that is not accepted. -/
theorem illreg_eq_nil {l : List (Reg × Nat × Bool)} (h : l.all (fun x => x.2.2) = true) : illreg l = [] := by
  induction l with
  | nil => rfl
  | cons x l ih =>
    obtain ⟨hx, hl⟩ : x.2.2 = true ∧ l.all (fun x => x.2.2) = true := by simpa using h
    rw [illreg, if_pos hx, ih hl]

/-- An instruction meets no condition of Table 3-10 when it meets none of the orders 1 to 5. -/
theorem Tests.first_eq_nil {t : Tests} (h1 : t.o1 = none) (h2 : t.o2 = []) (h3 : t.o3 = []) (h4 : t.o4 = [])
    (h5 : t.o5 = []) : t.first 0 = [] := by
  simp [Tests.first, h1, h2, h3, h4, h5]

/-! ## What a write to a destination leaves -/

@[simp] theorem Gang.writeV_splits (G : Gang) (d : Reg) (i : Nat) (w : Word) : (G.writeV d i w).splits = G.splits := by
  cases d <;> rfl

@[simp] theorem Gang.writeS_splits (G : Gang) (d : Reg) (w : Dword) : (G.writeS d w).splits = G.splits := by
  cases d <;> rfl

@[simp] theorem Gang.writeMask_splits (G : Gang) (d : Reg) (lanes w : Word) :
    (G.writeMask d lanes w).splits = G.splits := by
  cases d <;> rfl

/-- What keeps the splits in each lane keeps them in all. -/
theorem Gang.forLanes_splits {f : Gang → Nat → Gang} (hf : ∀ H i, (f H i).splits = H.splits) (G : Gang) (w : Word) :
    (G.forLanes w f).splits = G.splits := by
  have h : ∀ (l : List Nat) (K : Gang), (l.foldl f K).splits = K.splits := by
    intro l
    induction l with
    | nil => intro K; rfl
    | cons i l ih => intro K; rw [List.foldl_cons, ih, hf]
  exact h _ G

/-- What changes nothing in each lane changes nothing in all. -/
theorem Gang.forLanes_eq_self {f : Gang → Nat → Gang} (hf : ∀ H i, f H i = H) (G : Gang) (w : Word) :
    G.forLanes w f = G := by
  rw [Gang.forLanes]
  induction lanesOf w with
  | nil => rfl
  | cons i l ih => rw [List.foldl_cons, hf, ih]

/-- A V destination or zr, written in the lanes of a mask. -/
theorem Gang.writes_forLanes (G : Gang) (sl : BitVec 8) {d : Reg} (lanes : Word) (f : Nat → Word) (w : Dword) (mw : Word)
    (hd : (d.isVDst || d.isZ) = true) :
    G.Writes (G.forLanes lanes fun H i => H.writeV d i (f i)) sl d (fun i => lanes.getLsbD i) f w mw := by
  obtain ⟨n, rfl⟩ | rfl : (∃ n, d = .v n) ∨ d = .zr := by cases d <;> simp_all [Reg.isVDst, Reg.isZ]
  · exact Gang.forLanes_writeV G n lanes f
  · have hz : (G.forLanes lanes fun H i => H.writeV .zr i (f i)) = G := Gang.forLanes_eq_self (fun _ _ => rfl) G lanes
    rw [hz]
    exact rfl

/-- An S destination, `stat` or zr, written once. -/
theorem Gang.writes_writeS (G : Gang) (sl : BitVec 8) {d : Reg} (on : Nat → Bool) (f : Nat → Word) (w : Dword) (mw : Word)
    (hd : (d.isSDst || d.isZ) = true) : G.Writes (G.writeS d w) sl d on f w mw := by
  obtain ⟨n, rfl⟩ | rfl | rfl : (∃ n, d = .s n) ∨ d = .stat ∨ d = .zr := by cases d <;> simp_all [Reg.isSDst, Reg.isZ]
  · exact ⟨Gang.sreg_setS_self .., fun m hm => Gang.sreg_setS_other _ _ hm, rfl⟩
  · exact ⟨rfl, rfl⟩
  · exact rfl

/-- An M destination or zr, written in the lanes of the split's slices (07 R133). -/
theorem Gang.writes_writeMask (G : Gang) (sl : BitVec 8) {d : Reg} (on : Nat → Bool) (f : Nat → Word) (w : Dword)
    (mw : Word) (hd : (d.isMDst || d.isZ) = true) :
    G.Writes (G.writeMask d (G.sliceMask sl) mw) sl d on f w mw := by
  obtain ⟨n, rfl⟩ | rfl : (∃ n, d = .m n) ∨ d = .zr := by cases d <;> simp_all [Reg.isMDst, Reg.isZ]
  · exact ⟨Gang.mreg_setM_self .., fun m hm => Gang.mreg_setM_other _ _ hm, rfl⟩
  · exact rfl

/-- Only the lanes of a gang matter: where two descriptions of a write agree on lanes 0 to 31 they say the same. -/
theorem Gang.Writes.congr {G H : Gang} {sl : BitVec 8} {d : Reg} {on on' : Nat → Bool} {f f' : Nat → Word} {w : Dword}
    {mw : Word} (h : G.Writes H sl d on f w mw) (hon : ∀ i, i < 32 → on i = on' i) (hf : ∀ i, i < 32 → f i = f' i) :
    G.Writes H sl d on' f' w mw := by
  cases d with
  | v n =>
    obtain ⟨hn, hrest⟩ := h
    exact ⟨fun i hi => by rw [← hon i hi, ← hf i hi]; exact hn i hi, hrest⟩
  | _ => exact h

/-- A write by the gang as it issues is a write by the gang before: only the splits and the watchdog counter lie between. -/
theorem Gang.Writes.of_issued {G H : Gang} {k : Nat} {sp : Split} {c : Bool} {sl : BitVec 8} {d : Reg} {on : Nat → Bool}
    {f : Nat → Word} {w : Dword} {mw : Word} (h : (G.issued k sp c).Writes H sl d on f w mw) :
    G.Writes H sl d on f w mw := by
  have back {K : Gang} (hK : K = G.issued k sp c) : { K with splits := G.splits, wd := G.wd } = G := by rw [hK]; rfl
  cases d with
  | v n | s n | m n => obtain ⟨hself, hother, hframe⟩ := h; exact ⟨hself, hother, back hframe⟩
  | stat => obtain ⟨hself, hframe⟩ := h; exact ⟨hself, back hframe⟩
  | q | zr | lid | role | bnd | alt | mode | live =>
    exact back (K := { H with splits := (G.issued k sp c).splits, wd := (G.issued k sp c).wd }) h

/-- The segment marker touches no register. -/
theorem Gang.Writes.markSplits {G H : Gang} {sl : BitVec 8} {d : Reg} {on : Nat → Bool} {f : Nat → Word} {w : Dword}
    {mw : Word} (h : G.Writes H sl d on f w mw) (k : Nat) (before : KV Split) :
    G.Writes (H.markSplits k before) sl d on f w mw := by
  cases d <;> exact h

/-- What a register instruction's issue comes to, where its effect is one write. -/
theorem State.issues_writes {s : State} {i : Instr} {sm : Bool} {g k : Nat} {G : Gang} {sp : Split}
    {tests : Gang → Split → Tests} {eff : Gang → Split → Gang} {d : Reg} {on : Nat → Bool} {f : Nat → Word} {w : Dword}
    {mw : Word} (hi : exec i s = s.issue i sm (regMeaning tests eff)) (h : s.Issuing i g k G sp)
    (ht : (tests G sp).first 0 = []) (hs : ∀ K x, (eff K x).splits = K.splits)
    (hw : ∀ c x, x.slices = sp.slices → (G.issued k sp c).Writes (eff (G.issued k sp c) x) sp.slices d on f w mw) :
    s.Issues i g k G (sp.goesOn (sp.pc + 4) sm) fun H => G.Writes H sp.slices d on f w mw := by
  refine State.issues_reg hi h ht hs fun c => ?_
  have hG := (hw c { sp with ipc := sp.pc, pc := sp.pc + 4, age := 0 } rfl).of_issued
  cases sm with
  | false => exact hG
  | true => exact hG.markSplits k G.splits

/-! ## sel -/

/-- The guard condition as R141 writes it: no guard selected, or the guard bit differs from GNEG. -/
theorem Gang.guard_iff (G : Gang) (i : Nat) :
    G.guard i = true ↔ (G.mode.extractLsb' 8 3).toNat = 0 ∨
      (G.mreg (G.mode.extractLsb' 8 3).toNat).getLsbD i ≠ G.mode.getLsbD 11 := by
  simp [Gang.guard]

@[simp] theorem Gang.sel_splits (G : Gang) (sl : BitVec 8) (d a b : Reg) : (G.sel sl d a b).splits = G.splits :=
  Gang.forLanes_splits (fun _ _ => Gang.writeV_splits ..) G _

/-- `sel` writes the lanes with `live` and `m0` set, whatever their guard; the guard selects the value. -/
theorem Gang.writes_sel (G : Gang) (sl : BitVec 8) {d : Reg} (a b : Reg) (hd : (d.isVDst || d.isZ) = true) :
    G.Writes (G.sel sl d a b) sl d (fun i => G.inSlices sl i && G.live.getLsbD i && (G.mreg 0).getLsbD i)
      (fun i =>
        let sel := (G.mode.extractLsb' 8 3).toNat
        if sel = 0 ∨ (G.mreg sel).getLsbD i ≠ G.mode.getLsbD 11 then G.opnd32 a i else G.opnd32 b i) 0 0 := by
  refine (Gang.writes_forLanes G sl (G.selActive sl) _ 0 0 hd).congr (fun i hi => ?_) fun i _ => ?_
  · exact maskOf_getLsbD _ i hi
  · simp only [Gang.guard_iff]

/-- Settles O3: the lanes of `selActive` are those with `live` and `m0` set, and the guard only picks the value. -/
theorem selectResult : Obligations.SelectResult := by
  unfold Obligations.SelectResult
  intro s g k G sp sm d a b h ha hb
  refine ⟨fun hd hfree => ?_, fun hd => ?_⟩
  · obtain ⟨hbound, hhazard⟩ := hfree
    refine State.issues_writes (eff := fun K x => K.sel x.slices d a b) rfl h ?_ (fun _ _ => Gang.sel_splits ..) ?_
    · exact Tests.first_eq_nil rfl (illreg_eq_nil (by simp [hd, ha, hb])) hbound hhazard rfl
    · intro c x hx
      rw [hx]
      exact Gang.writes_sel (G.issued k sp c) sp.slices a b hd
  · have hclass : (d.isVDst || d.isZ) = false := by cases d <;> simp_all [Reg.isS, Reg.isM, Reg.isVDst, Reg.isZ]
    refine State.issue_trap (t := .illreg d.num.toNat 0) (s' := s) h ?_
    simp [regMeaning, gangTests, Tests.first, illreg, hclass, ha, hb, State.pick]

/-! ## Mask instructions -/

/-- A mask instruction whose operands have the classes it accepts, none Pending, meets no condition of Table 3-10. -/
theorem maskTests_first {cls : List (Reg × Nat × Bool)} {G : Gang} {sp : Split} (hcls : cls.all (fun x => x.2.2) = true)
    (hfree : G.Free 0 (cls.map Prod.fst)) : (maskTests cls G sp).first 0 = [] :=
  Tests.first_eq_nil rfl (illreg_eq_nil hcls) rfl hfree.2 rfl

/-- A mask instruction with a mask result writes it in the lanes of its split (07 R133, R146). -/
theorem State.issues_maskToM {s : State} {i : Instr} {sm : Bool} {g k : Nat} {G : Gang} {sp : Split} {d : Reg}
    {cls : List (Reg × Nat × Bool)} (f : Gang → Word)
    (hi : exec i s = s.issue i sm (regMeaning (maskTests cls) fun K x => K.writeMask d (K.sliceMask x.slices) (f K)))
    (hf : ∀ c, f (G.issued k sp c) = f G) (hd : (d.isMDst || d.isZ) = true) (hcls : cls.all (fun x => x.2.2) = true)
    (h : s.Issuing i g k G sp) (hfree : G.Free 0 (cls.map Prod.fst)) :
    s.Issues i g k G (sp.goesOn (sp.pc + 4) sm) fun H =>
      G.Writes H sp.slices d (fun _ => false) (fun _ => 0) 0 (f G) := by
  refine State.issues_writes hi h (maskTests_first hcls hfree) (fun _ _ => Gang.writeMask_splits ..) fun c x hx => ?_
  rw [hx, hf]
  exact Gang.writes_writeMask _ _ _ _ _ _ hd

/-- The RRR mask instructions compute on the two masks (07 R146). -/
theorem State.issues_mask2 {s : State} {i : Instr} {sm : Bool} {g k : Nat} {G : Gang} {sp : Split} {d a b : Reg}
    (f : Word → Word → Word) (hi : exec i s = s.issue i sm (mask2 f d a b)) (h : s.Issuing i g k G sp)
    (hok : ((d.isMDst || d.isZ) && a.isM && b.isM) = true) (hfree : G.Free 0 [d, a, b]) :
    s.Issues i g k G (sp.goesOn (sp.pc + 4) sm) fun H =>
      G.Writes H sp.slices d (fun _ => false) (fun _ => 0) 0 (f (G.maskOpnd a) (G.maskOpnd b)) := by
  obtain ⟨⟨hd, ha⟩, hb⟩ : ((d.isMDst || d.isZ) = true ∧ a.isM = true) ∧ b.isM = true := by simpa using hok
  exact State.issues_maskToM (fun K => f (K.maskOpnd a) (K.maskOpnd b)) hi (fun _ => rfl) hd (by simp [hd, ha, hb]) h hfree

/-- The mask instructions with a scalar result write, once, what the mask gives (07 Table 7-8). -/
theorem State.issues_maskToS {s : State} {i : Instr} {sm : Bool} {g k : Nat} {G : Gang} {sp : Split} {d a : Reg}
    (f : Gang → Dword)
    (hi : exec i s = s.issue i sm
      (regMeaning (maskTests [(d, 0, d.isSDst || d.isZ), (a, 1, a.isM)]) fun K _ => K.writeS d (f K)))
    (hf : ∀ c, f (G.issued k sp c) = f G) (h : s.Issuing i g k G sp)
    (hok : ((d.isSDst || d.isZ) && a.isM) = true) (hfree : G.Free 0 [d, a]) :
    s.Issues i g k G (sp.goesOn (sp.pc + 4) sm) fun H =>
      G.Writes H sp.slices d (fun _ => false) (fun _ => 0) (f G) 0 := by
  obtain ⟨hd, ha⟩ : (d.isSDst || d.isZ) = true ∧ a.isM = true := by simpa using hok
  refine State.issues_writes hi h (maskTests_first (by simp [hd, ha]) hfree) (fun _ _ => Gang.writeS_splits ..)
    fun c x _ => ?_
  rw [hf]
  exact Gang.writes_writeS _ _ _ _ _ _ hd

/-- Settles O8: each mask instruction is one write, of a value that the registers as a whole give; neither its tests nor
its effect read which lanes are active. -/
theorem maskResult : Obligations.MaskResult := by
  unfold Obligations.MaskResult
  intro s g k G sp sm d a b mask done
  refine ⟨?and, ?or, ?xor, ?not, ?save, ?rest, ?pop, ?ffs⟩ <;> intro h hok hfree
  case and => exact State.issues_mask2 (fun x y => x &&& y) rfl h hok hfree
  case or => exact State.issues_mask2 (fun x y => x ||| y) rfl h hok hfree
  case xor => exact State.issues_mask2 (fun x y => x ^^^ y) rfl h hok hfree
  case not =>
    obtain ⟨hd, ha⟩ : d.isMDst = true ∧ a.isM = true := by simpa using hok
    exact State.issues_maskToM (fun K => ~~~K.maskOpnd a) rfl (fun _ => rfl) (by simp [hd]) (by simp [hd, ha]) h hfree
  case save => exact State.issues_maskToS (fun K => K.opnd64 a) rfl (fun _ => rfl) h hok hfree
  case rest =>
    obtain ⟨hd, ha⟩ : d.isMDst = true ∧ sSrc a = true := by simpa [sSrc] using hok
    exact State.issues_maskToM (fun K => K.maskOpnd a) rfl (fun _ => rfl) (by simp [hd]) (by simp [hd, ha]) h hfree
  case pop =>
    exact State.issues_maskToS (fun K => BitVec.ofNat 64 (popcount (K.maskOpnd a))) rfl (fun _ => rfl) h hok hfree
  case ffs =>
    exact State.issues_maskToS (fun K => BitVec.ofNat 64 (lowestOne 32 (K.maskOpnd a))) rfl (fun _ => rfl) h hok hfree

end Sys2Proof.Machine
